-- ==== Sys2Proof/Word.lean ====
section
/-! DEFINITION. The word types of the Faljor FJ9: R2 numbers bits from the least significant, R8 gives the register widths. -/

namespace Sys2Proof

abbrev Byte := BitVec 8
abbrev Half16 := BitVec 16
/-- A lane register, a mask register, a status word, an S word. -/
abbrev W32 := BitVec 32
/-- A scalar register, an address, a latch lane. -/
abbrev W64 := BitVec 64
/-- An L word (R81). -/
abbrev W96 := BitVec 96

/-- The number of lanes of a pod. -/
abbrev nLanes : Nat := 32

/-- The lane numbers in ascending order. -/
def lanes : List Nat := List.range nLanes

/-- Byte i of a little-endian word (R2). -/
def byteOf {n : Nat} (x : BitVec n) (i : Nat) : Byte := x.extractLsb' (8 * i) 8

/-- The n lowest bytes of a word, lowest address first (R2). -/
def toBytes {w : Nat} (x : BitVec w) (n : Nat) : List Byte := (List.range n).map (byteOf x)

/-- The natural number whose little-endian bytes these are (R2). -/
def natOfBytes : List Byte → Nat
  | [] => 0
  | b :: r => b.toNat + 256 * natOfBytes r

/-- A word from its little-endian bytes (R2). -/
def ofBytes (w : Nat) (bs : List Byte) : BitVec w := BitVec.ofNat w (natOfBytes bs)

end Sys2Proof
end

