-- ==== Sys2Proof/Syntax.lean ====
section
/-! DEFINITION. The instructions and steps of the Faljor FJ9: one constructor of Instr for each row of spec/opcode_table.json. The program words carry their decoded fields; a step of another agent carries the message or the choice that it acts on. -/

namespace Sys2Proof

/-- Visibility scopes (R5), in the codes of R79. -/
inductive Scope | pod | wg | dev | sys
deriving DecidableEq, Repr

/-- Orders of PHASE, ATOM and SATOM (R319, R322). -/
inductive Order | relaxed | acq | rel | acqrel
deriving DecidableEq, Repr

/-- Paths that PFENCE names (R320). -/
inductive Path | generic | constant | tile
deriving DecidableEq, Repr

/-- Element types of a lane word (R40). -/
inductive LType
  | i32 | n32 | i64 | n64 | i16 | n16 | i8 | n8 | f32 | f64 | f16 | bf16 | e4m3 | e5m2 | d64
deriving DecidableEq, Repr

/-- Formats of a layout entry (R137): a lane type or a scaled storage format. -/
inductive Fmt | ty (t : LType) | mx8 | w4 | w3
deriving DecidableEq, Repr

/-- Rounding field of a lane word (R55). -/
inductive Rnd | rn | rna | rz | rp | rm | rnz | raz | dyn
deriving DecidableEq, Repr

/-- Special values named by SRD and SWR (R80). -/
inductive Special
  | wgX | wgY | wgZ | wgdimX | wgdimY | wgdimZ | pod | pods | core | die | dev | launch | cycle
  | fsr | ten | brnd | drnd | tcause | tspc | tlpc | tmask | taddr
deriving DecidableEq, Repr

/-- Trap causes (R377). -/
inductive Cause
  | illegal | latchLost | priv | misalign | xlateAbsent | xlatePerm
  | bI | bZ | bO | bU | bX | dI | dZ | dO | dU | dX
  | intDiv0 | brk | trap | coatSpan | coatAcc | barMisuse | pipeType | pipeDeadlock | bridgeUnmatched
  | poison | matrixReset
deriving DecidableEq, Repr

/-- Destination field of a lane word (R83). -/
inductive Dest | v (n : Nat) | o (n : Nat) | k (n : Nat) | none
deriving DecidableEq, Repr

/-- Source field of a lane word (R84): the small immediate holds its signed value. -/
inductive Src | v (n : Nat) | o (n : Nat) | q (n : Nat) | b (n : Nat) | imm24 | imm (n : Int)
deriving DecidableEq, Repr

/-- Fields of a single-operation lane word (R82); imm holds [23:0], an imm24 operand or the modifiers. -/
structure LFields where
  h : Bool
  n : Bool
  neg : Bool
  k : Fin 16
  dest : Dest
  a : Src
  b : Src
  c : Src
  ty : LType
  rnd : Rnd
  sat : Bool
  rep : Fin 8
  stride : Fin 8
  imm : BitVec 24
deriving DecidableEq, Repr

/-- Operations that a half of a paired word may carry (R102). -/
inductive HalfOp
  | iadd | isub | imul | imin | imax | iabs | ineg | and | or | xor | not | shl | shr | sra | rot
  | clz | popc | brev | mov | lidx | fadd | fsub | fmul | fmin | fmax | frnd | cvt
deriving DecidableEq, Repr

/-- One half of a paired word (R92); src is the source type of a compact CVT (R94). -/
structure Half where
  op : HalfOp
  neg : Bool
  k : Fin 8
  dest : Dest
  a : Src
  b : Src
  ty : LType
  src : LType
deriving DecidableEq, Repr

/-- Fields of a matrix step (R193); dim, kq, rev, ca, cb and slot are zero where R193 marks the field 0. -/
structure MmaFields where
  d : Fin 64
  a : Fin 64
  dim : Fin 4
  rev : Bool
  tb : Bool
  ta : Bool
  ka : Bool
  acc : Fin 256
  tileA : Fin 32
  tileB : Fin 32
  fmtA : Fmt
  fmtB : Fmt
  kq : Fin 4
  ca : Bool
  cb : Bool
  slot : Fin 4
deriving DecidableEq, Repr

/-- Operand of PPUSH and PPOP (R246): a tile, or a scratchpad box. -/
inductive PipeOperand | tile (n : Fin 32) | box (a : Fin 64) (lay : Fin 64)
deriving DecidableEq, Repr

/-- Operation of an atomic (R321). -/
inductive AtomOp | add | min | max | and | or | xor | xchg | cas | fadd
deriving DecidableEq, Repr

/-- Fields of SATOM (R323). -/
structure SatomFields where
  a : Fin 64
  b : Fin 64
  order : Order
  scope : Scope
  r : Fin 64
  c : Fin 64
  op : AtomOp
  ty : LType
  scratch : Bool
deriving DecidableEq, Repr

/-- Fields of TCOPY (R358). -/
structure TcopyFields where
  d : Fin 64
  a : Fin 64
  b : Fin 64
  bar : Bool
  sp : Bool
  scope : Scope
  bytes : Bool
deriving DecidableEq, Repr

/-- Fields of TCOPYM (R358): the follow-on step's operands are those of an MMA. -/
structure TcopymFields where
  d : Fin 64
  a : Fin 64
  e : Fin 64
  tb : Bool
  ta : Bool
  sp : Bool
  acc : Fin 256
  tileA : Fin 32
  tileB : Fin 32
  fmtA : Fmt
  fmtB : Fmt
deriving DecidableEq, Repr

/-- Level of a cancellation (R246). -/
inductive Level | launch | pipe | job
deriving DecidableEq, Repr

/-- A pod is named by its workgroup's serial number and its index in it. -/
structure PodKey where
  wg : Nat
  pod : Nat
deriving DecidableEq, Repr

/-- The two streams of a pod (R28). -/
inductive Stream | s | l
deriving DecidableEq, Repr

/-- A set of bytes of one line: offsets below 128 with their values, the mask being the offsets listed (R308). -/
abbrev LineBytes := List (Nat × Byte)

/-- A fill request (R349): guest marks a fill that a guest slice makes for the core. -/
structure FillReq where
  core : Nat
  line : Nat
  guest : Bool
deriving DecidableEq, Repr

/-- One location of an atomic: the lane it answers, the byte key, the operand and the compare value (R321). -/
structure AtomItem where
  lane : Nat
  key : Nat
  b : W64
  c : W64
deriving DecidableEq, Repr

/-- An atomic on one line (R324). -/
structure AtomicReq where
  core : Nat
  pod : PodKey
  stream : Stream
  line : Nat
  op : AtomOp
  ty : LType
  items : List AtomItem
deriving DecidableEq, Repr

/-- One element of an ADDST line: the byte key and the cell added (R325). -/
structure AddItem where
  key : Nat
  cell : W32
deriving DecidableEq, Repr

/-- One line of an ADDST (R326). -/
structure AddstReq where
  core : Nat
  pod : PodKey
  line : Nat
  fmt : LType
  items : List AddItem
deriving DecidableEq, Repr

inductive TicketKind | take | wait (t : W64) | serve
deriving DecidableEq, Repr

/-- A ticket word at its dispenser (R256). -/
structure TicketReq where
  core : Nat
  pod : PodKey
  key : Nat
  kind : TicketKind
deriving DecidableEq, Repr

/-- A daub of one line (R328): targets are global core numbers. -/
structure DaubReq where
  core : Nat
  pod : PodKey
  line : Nat
  bytes : LineBytes
  targets : List Nat
deriving DecidableEq, Repr

/-- A contribution to a reduction round (R338, R340). -/
structure Contribution where
  die : Nat
  launch : Nat
  group : Nat
  core : Nat
  members : BitVec 72
  target : Nat
  offset : Nat
  data : List W32
deriving DecidableEq, Repr

/-- The key of a wet line's set: source device, source context, group and epoch (R450). -/
structure SetKey where
  src : Nat
  ctx : Nat
  group : Nat
  epoch : BitVec 16
deriving DecidableEq, Repr

/-- Ends of a bridge (R456). -/
inductive BridgeEnd | out | inn
deriving DecidableEq, Repr

/-- A packet of an XSEND at its destination (R445): its bytes in runs of one page each, a run with its physical address and whether its page is tracked. -/
structure XPacket where
  src : Nat
  domain : Nat
  runs : List (Nat × Bool × List Byte)
  core : Nat
  counter : Nat
deriving DecidableEq, Repr

/-- A tile in a pipe: its bytes and the poison marks of its sectors (R258, R404). -/
structure Slot where
  data : List Byte
  bad : List Nat
deriving DecidableEq, Repr

/-- What one device asks of another over UALink (R430). Byte addresses are physical addresses of the destination; bad are sectors whose marks travel with the bytes (R404). -/
inductive RemoteOp
  | read (line : Nat)
  | write (addr : Nat) (bytes : LineBytes) (bad : List Nat) (tracked : Bool)
  | atomic (r : AtomicReq) (own : LineBytes)
  | daub (addr : Nat) (bytes : LineBytes)
  | ticket (r : TicketReq)
  | serving (pod : PodKey) (key : Nat) (value : W64)
  | packet (p : XPacket)
  | wet (k : SetKey) (line : Nat) (bytes : LineBytes)
  | prepare (k : SetKey) (count : Nat)
  | ready (k : SetKey) (ok : Bool)
  | setCommit (k : SetKey)
  | setScrape (k : SetKey)
  | setDone (k : SetKey)
  | query (k : SetKey)
  | bridgeOpen (tag : W32) (e : BridgeEnd) (peer : Nat)
  | bridgeTile (tag : W32) (data : Slot)
  | bridgeCredit (tag : W32)
  | bridgeClose (tag : W32)
deriving DecidableEq, Repr

/-- The header of a staged image and what the two signature checks find (R478, R479); the verification is Skepin's, its inputs are not in the spec. -/
structure ImageHeader where
  version : Nat
  svn : Nat
  lengthOk : Bool
  ed25519 : Bool
  mlDsa : Bool
deriving DecidableEq, Repr

/-- Causes of P1 (R484). -/
inductive P1Cause | power | temperature | host
deriving DecidableEq, Repr

/-- What a debugger does to a halted pod (R488). -/
inductive DebugOp
  | readS (p : PodKey) (r : Fin 64)
  | writeS (p : PodKey) (r : Fin 64) (x : W64)
  | readV (p : PodKey) (r : Fin 256) (lane : Fin 32)
  | writeV (p : PodKey) (r : Fin 256) (lane : Fin 32) (x : W32)
  | resume (p : PodKey)
deriving DecidableEq, Repr

/-- Where an error is found (R403, R404, R410): the blocks whose corrected errors Skepin counts apart (R476, words 45 to 62), the L2 slices by what they hold there (lines, stash lines, hawks, pipe slots), and the payload of a die link. -/
inductive EccBlock | l1 | scratch | regs | l2 | stash | hawk | pipe | shelf | hub | hbm | link
deriving DecidableEq, Repr

/-- SPDM requests that are answered with signatures (R482). -/
inductive SpdmReq | challenge | measurements | keyExchange
deriving DecidableEq, Repr

/-- The instructions and steps of the FJ9: one constructor for each row of spec/opcode_table.json. -/
inductive Instr
  | sadd (d a b : Fin 64) | ssub (d a b : Fin 64) | smul (d a b : Fin 64)
  | smulh (d a b : Fin 64) | smulhN (d a b : Fin 64)
  | sdiv (d a b : Fin 64) | sdivN (d a b : Fin 64) | srem (d a b : Fin 64) | sremN (d a b : Fin 64)
  | smin (d a b : Fin 64) | sminN (d a b : Fin 64) | smax (d a b : Fin 64) | smaxN (d a b : Fin 64)
  | sand (d a b : Fin 64) | sor (d a b : Fin 64) | sxor (d a b : Fin 64)
  | sshl (d a b : Fin 64) | sshr (d a b : Fin 64) | ssra (d a b : Fin 64) | srot (d a b : Fin 64)
  | sclz (d a : Fin 64) | spopc (d a : Fin 64)
  | sextI8 (d a : Fin 64) | sextI16 (d a : Fin 64) | sextI32 (d a : Fin 64)
  | slea (d a b : Fin 64) (sh : Fin 4)
  | scmpEq (d a b : Fin 64) | scmpNe (d a b : Fin 64) | scmpLt (d a b : Fin 64)
  | scmpLe (d a b : Fin 64) | scmpGt (d a b : Fin 64) | scmpGe (d a b : Fin 64)
  | scmpLtN (d a b : Fin 64) | scmpLeN (d a b : Fin 64) | scmpGtN (d a b : Fin 64)
  | scmpGeN (d a b : Fin 64)
  | ssel (d a b : Fin 64)
  | saddImm (d a : Fin 64) (i : BitVec 14) | sandImm (d a : Fin 64) (i : BitVec 14)
  | sorImm (d a : Fin 64) (i : BitVec 14) | sxorImm (d a : Fin 64) (i : BitVec 14)
  | sshlImm (d a n : Fin 64) | sshrImm (d a n : Fin 64) | ssraImm (d a n : Fin 64)
  | srotImm (d a n : Fin 64)
  | sbfx (d a : Fin 64) (sx : Bool) (p w : Fin 64)
  | sbfi (d a p w : Fin 64)
  | sli (d : Fin 64) (i : BitVec 14) | sli32 (d : Fin 64) (x : W32) | slui (d : Fin 64) (x : W32)
  | sld (d a : Fin 64) (z : Fin 4) (sx : Bool) (o : BitVec 11)
  | sst (d a : Fin 64) (z : Fin 4) (o : BitVec 11)
  | sldk (d a : Fin 64) (z : Fin 4) (sx : Bool) (o : BitVec 11)
  | slds (d a : Fin 64) (z : Fin 4) (sx : Bool) (o : BitVec 11)
  | ssts (d a : Fin 64) (z : Fin 4) (o : BitVec 11)
  | sldAcq (d a : Fin 64) (z : Fin 4) (sx : Bool) (o : BitVec 11) (scope : Scope)
  | sstRel (d a : Fin 64) (z : Fin 4) (o : BitVec 11) (scope : Scope)
  | br (o : BitVec 26) | call (o : BitVec 26)
  | bz (c : Fin 64) (o : BitVec 20) | bnz (c : Fin 64) (o : BitVec 20)
  | bany (k : Fin 16) (o : BitVec 20) | ball (k : Fin 16) (o : BitVec 20)
  | bnone (k : Fin 16) (o : BitVec 20)
  | brx (a b : Fin 64) | ret (a : Fin 64)
  | lgo (i : BitVec 26)
  | kmovKK (d a : Fin 16) | kmovKS (d : Fin 16) (a : Fin 64) | kmovSK (d : Fin 64) (a : Fin 16)
  | kand (d a b : Fin 16) | kor (d a b : Fin 16) | kxor (d a b : Fin 16) | knot (d a : Fin 16)
  | kpop (d : Fin 64) (a : Fin 16) | kfirst (d : Fin 64) (a : Fin 16)
  | trap (c : BitVec 8) | brk (c : BitVec 8) | nop | lwait | exit
  | srd (d : Fin 64) (n : Special) | swr (a : Fin 64) (n : Special) | sten (a b : Fin 64)
  | laydef (d a n : Fin 64) (sp : Bool) | layq (d a n : Fin 64) (sp : Bool)
  | mma (f : MmaFields) | mmaw (f : MmaFields) | mmag (f : MmaFields)
  | tld (d a : Fin 64) (t : Fin 32) (lay : Fin 64) | tst (d a : Fin 64) (t : Fin 32) (lay : Fin 64)
  | tmovToV (v : Fin 64) (t : Fin 32) (row : Fin 16) | tmovToTile (v : Fin 64) (t : Fin 32) (row : Fin 16)
  | tzero (t : Fin 32) | aclr (x : Fin 256) (c : Fin 4)
  | ald (d a : Fin 64) (acc : Fin 256) (lay : Fin 64)
  | astore (d a b : Fin 64) (acc : Fin 256) (lay : Fin 64)
  | atot (b : Fin 64) (tr : Bool) (t : Fin 32) (f : Fin 4) (sat : Bool)
  | alg (d a : Fin 64) (g : Fin 4) (sp : Bool)
  | wgsync
  | binit (d a b : Fin 64) | barr (a b : Fin 64) | barrx (a b : Fin 64) | bwait (a b : Fin 64)
  | btest (d a b : Fin 64) (par : Bool)
  | tktake (a b : Fin 64) (sys : Bool) | tkwait (a b : Fin 64) (sys : Bool) | tkserve (a : Fin 64) (sys : Bool)
  | ppush (d : Fin 64) (p : Fin 16) (x : PipeOperand) | ppop (d : Fin 64) (p : Fin 16) (x : PipeOperand)
  | pclose (p : Fin 16) | pstat (d : Fin 64) (p : Fin 16) | pyield (d : Fin 64)
  | seed (d x : Fin 64) (c : Fin 16) | cancel (d : Fin 64) (lv : Level)
  | phase (o : Order) (scope : Scope) | pfence (f t : Path)
  | satom (f : SatomFields)
  | addst (d a b : Fin 64) (acc : Fin 256) (lay : Fin 64) (rel : Bool)
  | daubq (d : Fin 64) (shelf : Bool)
  | redx (d a b m : Fin 64) (g : Fin 256)
  | tcopy (f : TcopyFields) | tcopym (f : TcopymFields)
  | rflush (d a b : Fin 64) (bar : Bool) | rinval (d a b : Fin 64) (bar : Bool)
  | rdisc (d a b : Fin 64) (bar : Bool)
  | feset (a b : Fin 64) | feclr (a b : Fin 64)
  | coat (a : Fin 64) (n : BitVec 9) (b : BitVec 8) (km : BitVec 15) | tret (skip : Bool)
  | xsend (d a b c : Fin 64) | xwait (a b : Fin 64) | set (d g : Fin 64) | scrape (d g : Fin 64)
  | waita (d a b : Fin 64)
  | iadd (f : LFields) | isub (f : LFields) | imul (f : LFields) | imin (f : LFields)
  | imax (f : LFields) | iabs (f : LFields) | ineg (f : LFields)
  | and (f : LFields) | or (f : LFields) | xor (f : LFields) | not (f : LFields)
  | shl (f : LFields) | shr (f : LFields) | sra (f : LFields) | rot (f : LFields)
  | clz (f : LFields) | popc (f : LFields) | brev (f : LFields)
  | mov (f : LFields) | lidx (f : LFields)
  | fadd (f : LFields) | fsub (f : LFields) | fmul (f : LFields) | fmin (f : LFields)
  | fmax (f : LFields) | frnd (f : LFields) | cvt (f : LFields)
  | iaddc (f : LFields) | imulh (f : LFields) | imad (f : LFields) | idiv (f : LFields)
  | irem (f : LFields) | bfx (f : LFields) | bfi (f : LFields) | icmp (f : LFields) | sel (f : LFields)
  | ffma (f : LFields) | fcmp (f : LFields) | fclass (f : LFields) | pack (f : LFields) | unpk (f : LFields)
  | rcp (f : LFields) | rsq (f : LFields) | sqrt (f : LFields) | div (f : LFields)
  | exp2 (f : LFields) | log2 (f : LFields) | sinpi (f : LFields) | cospi (f : LFields)
  | sfuComplete (p : PodKey)
  | dadd (f : LFields) | dsub (f : LFields) | dmul (f : LFields) | dfma (f : LFields)
  | ddiv (f : LFields) | dqua (f : LFields) | dcmp (f : LFields) | dcvt (f : LFields) | dscb (f : LFields)
  | movi (f : LFields) | shfl (f : LFields) | bcast (f : LFields) | vote (f : LFields) | redp (f : LFields)
  | amul (f : LFields) | afma (f : LFields) | aconj (f : LFields) | anorm (f : LFields)
  | ld (f : LFields) | st (f : LFields) | ldk (f : LFields) | lds (f : LFields) | sts (f : LFields)
  | atom (f : LFields) | daub (f : LFields) | wst (f : LFields)
  | lend (h : Bool) | lnop (h neg : Bool) (k : Fin 16)
  | pairedWord (h : Bool) (x y : Half)
  | trapEntry (cause : Cause) (lane : Bool) (len : Nat) (rep : Nat) (mask : W32) (addr : W64)
  | matrixStepComplete (core : Nat)
  | doorbell (ring : Fin 256) (tail : W32)
  | launch (ring : Fin 256) | pipeline (ring : Fin 256) | cancelCommand (ring : Fin 256)
  | jobEnd (ring : Fin 256) | wait (ring : Fin 256) | waitRecheck (ring : Fin 256)
  | translationInvalidate (ring : Fin 256) | descriptorInvalidate (ring : Fin 256)
  | setResolve (ring : Fin 256)
  | contextCreate | contextEnd | ringConfigure | domain
  | admCfgWrite (x : W32) | admBaseWrite (x : W64) | admHeadWrite (x : W64)
  | registerWrite (offset : BitVec 20) (x : W64)
  | sensors (readings : List W32) | eventLog (arg : Byte) | imageChunk (arg : Byte)
  | imageCommit (img : ImageHeader) | powerRequest (arg : Byte) | securityState (arg : Byte) (token : Bool)
  | debugState (arg : Byte) | warmResetCommand
  | placementDecision | preemptSave (wg : Nat) | balancerInterval (pl : Nat)
  | seedBinTimeout (die launch entry : Nat)
  | pipePushAccept (pl p : Nat) | pipePopAccept (pl p : Nat)
  | pipeDeadlockDeclare (pl : Nat) | pipeDrainSpill (pl : Nat)
  | matrixReset (core : Nat)
  | jobStart (core job : Nat) | landingSlotGrant (core job : Nat) | landing (core job : Nat)
  | jobStatusLand (core job : Nat)
  | pendingBytes (pub line : Nat) | notice (core line : Nat) | noticeAcknowledge (line : Nat)
  | homeReport (pub line : Nat) | commit (pub line : Nat) | commitConfirm (pub line : Nat)
  | fill (r : FillReq) | fillReply (core line : Nat) (data : List Byte) (marked : Bool)
  | evictionBytes (core line : Nat) | untrackedWriteBack (core line : Nat)
  | guestInvalidation (sector line : Nat)
  | atomicAtHome (r : AtomicReq) | addstLine (r : AddstReq)
  | ticketOperation (r : TicketReq) | ticketServingValue (p : PodKey) (key : Nat) (value : W64)
  | daubAtHome (r : DaubReq)
  | daubCopy (core line : Nat) (seq : W32) (data : List Byte) (sender : PodKey)
  | daubAnswer (sender : PodKey) (line : Nat) (accepted : Bool)
  | hbmWriteBack (block : Nat) | discardArrival (lo len : Nat)
  | ownershipGrant (die line pub : Nat) | forwardedFill (r : FillReq)
  | ownerWriteBack (die line : Nat) | writeBackAck (die line : Nat)
  | recall (die line : Nat) | recalledPart (die line : Nat) (bytes : LineBytes)
  | relayedNotice (die line : Nat)
  | reductionContribution (c : Contribution) | roundTimeout (die launch group : Nat)
  | reductionDelivery (die launch group : Nat)
  | ualinkRequest (src : Fin 512) (seq : Half16) (op : RemoteOp)
  | ualinkAck (dst : Fin 512) (seq : Half16) (data : List Byte)
  | retransmitTimeout (dst : Fin 512) (seq : Half16)
  | portDown (peer : Fin 512) (plane : Fin 16) | announce (peer : Fin 512)
  | xsendPacket (p : XPacket)
  | wetStoreMessage (k : SetKey) (line : Nat) (bytes : LineBytes)
  | setPrepare (k : SetKey) (count : Nat) | setReady (k : SetKey) (dev : Nat) (ok : Bool)
  | prepareTimeout (k : SetKey) | setCommit (k : SetKey) | commitResend (k : SetKey)
  | setScrape (k : SetKey) | decisionQuery (k : SetKey)
  | bridgeOpen (peer : Fin 512) (tag : W32) (e : BridgeEnd) (names : Fin 512)
  | bridgeOpenTimeout (pl p : Nat)
  | bridgeTile (peer : Fin 512) (tag : W32) (data : Slot)
  | bridgeCredit (peer : Fin 512) (tag : W32)
  | hostRead (addr len : Nat) | hostWrite (addr : Nat) (bytes : List Byte) | hostSnoop (line : Nat)
  | waitaRecheck (p : PodKey)
  | coldReset | warmReset | skepinReset | bringUpStep (ok : Bool)
  | thermalTrip (sector : Fin 12) (temp : W32)
  | p1Entry (c : P1Cause) | p1Exit | idleEntry | idleExit
  | spdmRequest (r : SpdmReq) | ideKm | debuggerAccess (o : DebugOp)
  | softError (blk : EccBlock) (correctable : Bool) (place : Nat)
  | flitReplay (link : Nat)
  | portUp (peer : Fin 512) (plane : Fin 16)
  | powerRemoved
  | bridgeClose (peer : Fin 512) (tag : W32)
  | hostAcknowledgement (n : Nat)
  | memoryWrite (core job : Nat)
  | heldBridgeOpenDrop (peer : Fin 512) (tag : W32)
  | sealAtManufacture
deriving DecidableEq, Repr

end Sys2Proof
end

