-- ==== Sys2Proof/WellFormed.lean ====
section
/-! DEFINITION. Which instructions are well formed: the static cases of R103, decided from a word's bits alone. The decoder answers with well-formed instructions only; the cases that need a workgroup's grants are checked at issue. -/

namespace Sys2Proof

/-- Storage bits of a type (R40). -/
def LType.bits : LType → Nat
  | .i32 | .n32 | .f32 => 32
  | .i64 | .n64 | .f64 | .d64 => 64
  | .i16 | .n16 | .f16 | .bf16 => 16
  | .i8 | .n8 | .e4m3 | .e5m2 => 8

/-- A type whose operands are register pairs (R142). -/
def LType.wide (t : LType) : Bool := decide (t.bits = 64)

/-- Integer types (codes 0x0 to 0x7, R143). -/
def LType.isInt : LType → Bool
  | .i32 | .n32 | .i64 | .n64 | .i16 | .n16 | .i8 | .n8 => true
  | _ => false

/-- Types held in two's complement (R41). -/
def LType.signed : LType → Bool
  | .i32 | .i64 | .i16 | .i8 => true
  | _ => false

/-- "bfp" of R143. -/
def LType.isBfp : LType → Bool
  | .f32 | .f64 | .f16 | .bf16 => true
  | _ => false

/-- Binary floating types (R44). -/
def LType.isBin : LType → Bool
  | .f32 | .f64 | .f16 | .bf16 | .e4m3 | .e5m2 => true
  | _ => false

/-- Integer types of 32 and 64 bits (R143). -/
def LType.isInt3264 : LType → Bool
  | .i32 | .n32 | .i64 | .n64 => true
  | _ => false

/-- Type codes of R40. -/
def LType.code : LType → Nat
  | .i32 => 0 | .n32 => 1 | .i64 => 2 | .n64 => 3 | .i16 => 4 | .n16 => 5 | .i8 => 6 | .n8 => 7
  | .f32 => 8 | .f64 => 9 | .f16 => 10 | .bf16 => 11 | .e4m3 => 12 | .e5m2 => 13 | .d64 => 14

def LType.ofCode : Nat → Option LType
  | 0 => some .i32 | 1 => some .n32 | 2 => some .i64 | 3 => some .n64
  | 4 => some .i16 | 5 => some .n16 | 6 => some .i8 | 7 => some .n8
  | 8 => some .f32 | 9 => some .f64 | 10 => some .f16 | 11 => some .bf16
  | 12 => some .e4m3 | 13 => some .e5m2 | 14 => some .d64 | _ => none

/-- Format codes of R137. -/
def Fmt.code : Fmt → Nat
  | .ty t => t.code | .mx8 => 16 | .w4 => 17 | .w3 => 18

def Fmt.ofCode (n : Nat) : Option Fmt :=
  if n = 16 then some .mx8 else if n = 17 then some .w4 else if n = 18 then some .w3
  else (LType.ofCode n).map .ty

/-- A scaled format (R191). -/
def Fmt.scaled : Fmt → Bool
  | .mx8 | .w4 | .w3 => true
  | .ty _ => false

/-- Element bits (R139). -/
def Fmt.bits : Fmt → Nat
  | .ty t => t.bits | .mx8 => 8 | .w4 | .w3 => 4

/-- The modifiers' fields of [23:0]. -/
def LFields.ctl (f : LFields) (lo len : Nat) : Nat := f.imm.toNat / 2 ^ lo % 2 ^ len

/-- Bits of [23:0] from lo up are zero. -/
def LFields.ctlBelow (f : LFields) (lo : Nat) : Bool := decide (f.imm.toNat < 2 ^ lo)

/-- Kinds of destination that an operation accepts (R143). -/
inductive DestKind | vo | v | k | none | voNone
deriving DecidableEq, Repr

/-- A destination of an accepted kind, with its index in range (R83). -/
def DestKind.accepts (kd : DestKind) : Dest → Bool
  | .v n => decide (n < 256) && (kd == .vo || kd == .v || kd == .voNone)
  | .o n => decide (n < 16) && (kd == .vo || kd == .voNone)
  | .k n => decide (n < 16) && kd == .k
  | .none => kd == .none || kd == .voNone

/-- A source whose index is not reserved (R84). -/
def Src.inRange : Src → Bool
  | .v n => decide (n < 256)
  | .o n => decide (n < 16)
  | .q n => decide (n < 16)
  | .b n => decide (n < 4)
  | .imm24 => true
  | .imm n => decide (-127 ≤ n ∧ n ≤ 127)

/-- A source that may stand for a 64-bit operand: v, o and q indices are even (R11, R86). -/
def Src.evenIf (wide : Bool) : Src → Bool
  | .v n | .o n | .q n => !wide || decide (n % 2 = 0)
  | _ => true

def Dest.evenIf (wide : Bool) : Dest → Bool
  | .v n | .o n => !wide || decide (n % 2 = 0)
  | _ => true

/-- What R143 says of one source: not read, or read with the given width and as the word's type or as a 32-bit number. -/
inductive SrcUse | no | ty | n32 | wide
deriving DecidableEq, Repr

def SrcUse.isWide (u : SrcUse) (t : LType) : Bool :=
  match u with
  | .no | .n32 => false
  | .ty => t.wide
  | .wide => true

/-- The zero bits that R85 asks of an imm24 operand of type t. -/
def immZeroBits (t : LType) (x : BitVec 24) : Bool :=
  match t with
  | .f16 | .bf16 => decide (x.toNat < 2 ^ 16)
  | .e4m3 | .e5m2 => decide (x.toNat < 2 ^ 8)
  | _ => true

/-- A source field: zero when not read (R87); in range, even when wide, and an imm24 only where [23:0] is an operand (R84). -/
def srcOk (f : LFields) (u : SrcUse) (immOk : Bool) (s : Src) : Bool :=
  match u with
  | .no => s == .v 0
  | _ => s.inRange && s.evenIf (u.isWide f.ty) &&
    (!(s == .imm24) || (immOk && (u == .n32 || immZeroBits f.ty f.imm)))

/-- How an operation uses the rounding field (R87, R144). -/
inductive RndUse | zero | bin | dec
deriving DecidableEq, Repr

def RndUse.accepts : RndUse → Rnd → Bool
  | .zero, r => r == .rn
  | .bin, r => !(r == .rnz || r == .raz)
  | .dec, _ => true

/-- How an operation uses [23:0] (R143). -/
inductive ImmUse | zero | imm | ctl
deriving DecidableEq, Repr

/-- One row of R143. -/
structure LRow where
  dest : DestKind
  a : SrcUse
  b : SrcUse := .no
  c : SrcUse := .no
  types : LType → Bool
  rnd : RndUse := .zero
  sat : Bool := false
  imm : ImmUse := .zero
  /-- the result is a 32-bit word whatever the type -/
  narrow : Bool := false
  /-- registers that a repetition's destination covers beyond the first (algebra groups) -/
  span : Nat := 0

def anyType : LType → Bool := fun _ => true
def f3264 : LType → Bool
  | .f32 | .f64 => true
  | _ => false
def onlyI32 : LType → Bool
  | .i32 => true
  | _ => false
def n3232 : LType → Bool
  | .i32 | .n32 => true
  | _ => false
def onlyD64 : LType → Bool
  | .d64 => true
  | _ => false
def f32Int32 : LType → Bool
  | .f32 | .i32 | .n32 => true
  | _ => false
def sfuType : LType → Bool
  | .f32 | .f16 | .bf16 => true
  | _ => false
def sfuType64 : LType → Bool
  | .f32 | .f16 | .bf16 | .f64 => true
  | _ => false
def classType (t : LType) : Bool := t.isBin || onlyD64 t
def negType (t : LType) : Bool := t.signed

/-- Components of an algebra element: the dim field (R178). -/
def algDim (code : Nat) : Nat := 2 ^ code

/-- The highest index that the stepping of R88 reaches from n, with a span of further registers. -/
def repLast (f : LFields) (n span : Nat) : Nat := n + f.rep.val * (f.stride.val + 1) + span

def srcRepOk (f : LFields) (span : Nat) : Src → Bool
  | .v n => decide (repLast f n span < 256)
  | .o n => decide (repLast f n span < 16)
  | _ => true

def destRepOk (f : LFields) (span : Nat) : Dest → Bool
  | .v n => decide (repLast f n span < 256)
  | .o n => decide (repLast f n span < 16)
  | .k n => decide (repLast f n 0 < 16)
  | .none => true

/-- A 64-bit operand that steps names an even register in every repetition (R86, R88, R103). -/
def stepEven (f : LFields) (wide : Bool) : Bool := !wide || decide (f.rep.val = 0) || decide ((f.stride.val + 1) % 2 = 0)

def Src.stepOk (f : LFields) (wide : Bool) : Src → Bool
  | .v _ | .o _ => stepEven f wide
  | _ => true

def Dest.stepOk (f : LFields) (wide : Bool) : Dest → Bool
  | .v _ | .o _ => f.n || stepEven f wide
  | _ => true

/-- Registers beyond the first of an operand of this width. -/
def wideSpan (w : Bool) : Nat := if w then 1 else 0

/-- The checks of R83 to R88, R143 and R34 that every single-operation word shares. -/
def LRow.ok (r : LRow) (f : LFields) : Bool :=
  let dw := f.ty.wide && !r.narrow
  r.dest.accepts f.dest && f.dest.evenIf dw
  && (!f.n || (f.dest == .v 0))
  && r.types f.ty
  && srcOk f r.a (r.imm == .imm) f.a && srcOk f r.b (r.imm == .imm) f.b && srcOk f r.c (r.imm == .imm) f.c
  && r.rnd.accepts f.rnd && (r.sat || !f.sat)
  && (match r.imm with
      | .zero => f.imm == 0
      | .imm => f.imm == 0 || f.a == .imm24 || f.b == .imm24 || f.c == .imm24
      | .ctl => true)
  && (decide (f.rep.val ≠ 0) || decide (f.stride.val = 0))
  && destRepOk f (wideSpan dw + r.span) f.dest
  && srcRepOk f (wideSpan (r.a.isWide f.ty) + r.span) f.a
  && srcRepOk f (wideSpan (r.b.isWide f.ty)) f.b && srcRepOk f (wideSpan (r.c.isWide f.ty)) f.c
  && f.dest.stepOk f dw && f.a.stepOk f (r.a.isWide f.ty) && f.b.stepOk f (r.b.isWide f.ty) && f.c.stepOk f (r.c.isWide f.ty)

/-- A source of class 00 (R143, algebra words and MOVI). -/
def Src.isV : Src → Bool
  | .v _ => true
  | _ => false

/-- A q register or an immediate (R175, R327). -/
def Src.uniform : Src → Bool
  | .q _ | .imm24 | .imm _ => true
  | _ => false

def Src.isQ : Src → Bool
  | .q _ => true
  | _ => false

def rowInt2 : LRow := { dest := .vo, a := .ty, b := .ty, types := LType.isInt, imm := .imm }
def rowInt2Sat : LRow := { rowInt2 with sat := true }
def rowInt1 : LRow := { dest := .vo, a := .ty, types := LType.isInt }
def rowNeg : LRow := { dest := .vo, a := .ty, types := negType, sat := true }
def rowShift : LRow := { dest := .vo, a := .ty, b := .n32, types := LType.isInt, imm := .imm }
def rowMov : LRow := { dest := .vo, a := .ty, types := anyType, imm := .imm }
def rowLidx : LRow := { dest := .vo, a := .no, types := onlyI32 }
def rowF2 : LRow := { dest := .vo, a := .ty, b := .ty, types := LType.isBfp, rnd := .bin, imm := .imm }
def rowF1 : LRow := { dest := .vo, a := .ty, types := LType.isBfp, rnd := .bin }
def rowIaddc : LRow := { dest := .vo, a := .ty, b := .ty, types := LType.isInt3264, imm := .ctl }
def rowImulh : LRow := { dest := .vo, a := .ty, b := .ty, types := LType.isInt3264, imm := .imm }
def rowImad : LRow := { dest := .vo, a := .ty, b := .ty, c := .ty, types := LType.isInt, sat := true, imm := .imm }
def rowBf : LRow := { dest := .vo, a := .ty, b := .n32, c := .n32, types := LType.isInt3264, imm := .imm }
def rowIcmp : LRow := { dest := .k, a := .ty, b := .ty, types := LType.isInt, imm := .ctl }
def rowSel : LRow := { dest := .vo, a := .ty, b := .ty, types := anyType, imm := .ctl }
def rowFfma : LRow := { dest := .vo, a := .ty, b := .ty, c := .ty, types := LType.isBfp, rnd := .bin, imm := .imm }
def rowFcmp : LRow := { dest := .k, a := .ty, b := .ty, types := LType.isBfp, imm := .ctl }
def rowFclass : LRow := { dest := .vo, a := .ty, types := classType, narrow := true }
def rowPack : LRow := { dest := .vo, a := .ty, b := .ty, types := f32Int32, rnd := .bin, sat := true, imm := .ctl }
def rowUnpk : LRow := { dest := .vo, a := .ty, types := f32Int32, rnd := .bin, imm := .ctl }
def rowSfu : LRow := { dest := .vo, a := .ty, types := sfuType, rnd := .bin, imm := .imm }
def rowSfu64 : LRow := { rowSfu with types := sfuType64 }
def rowDiv : LRow := { rowSfu64 with b := .ty }
def rowDec2 : LRow := { dest := .vo, a := .ty, b := .ty, types := onlyD64, rnd := .dec, imm := .imm }
def rowDfma : LRow := { rowDec2 with c := .ty }
def rowDcmp : LRow := { dest := .k, a := .ty, b := .ty, types := onlyD64, imm := .ctl }
def rowDcvt : LRow := { dest := .vo, a := .ty, types := onlyD64, rnd := .dec, imm := .ctl }
def rowDscb : LRow := { dest := .vo, a := .ty, b := .n32, types := onlyD64, rnd := .dec, imm := .imm }
def rowMovi : LRow := { dest := .vo, a := .ty, b := .n32, types := n3232, imm := .imm }
def rowShfl : LRow := { dest := .vo, a := .ty, b := .n32, types := anyType, imm := .ctl }
def rowBcast : LRow := { dest := .vo, a := .ty, b := .n32, types := anyType, imm := .imm }
def rowVote : LRow := { dest := .vo, a := .ty, types := LType.isInt3264, imm := .ctl }
def rowRedp : LRow :=
  { dest := .vo, a := .ty, types := fun t => t.isInt3264 || f3264 t, rnd := .bin, sat := true, imm := .ctl }
def rowLoad : LRow := { dest := .vo, a := .wide, b := .n32, types := anyType, imm := .ctl }
def rowLoadS : LRow := { rowLoad with a := .n32 }
def rowStore : LRow := { dest := .none, a := .wide, b := .n32, c := .ty, types := anyType, imm := .ctl }
def rowStoreS : LRow := { rowStore with a := .n32 }

/-- IDIV accepts saturation and IREM does not (R143). -/
def rowIdiv : LRow := rowInt2Sat
def rowIrem : LRow := rowInt2

/-- A CVT between integers has rounding code 0b000; any other takes the codes of its destination's set (R66, R163). -/
def cvtRnd (td ts : LType) : RndUse :=
  if td.isInt && ts.isInt then .zero else if td == .d64 then .dec else .bin

/-- CVT: the source type is in ctl[3:0] (R163). -/
def cvtOk (f : LFields) : Bool :=
  match LType.ofCode (f.ctl 0 4) with
  | none => false
  | some ts =>
    let r : LRow := { dest := .vo, a := if ts.wide then .wide else .n32, types := anyType, rnd := cvtRnd f.ty ts, sat := true, imm := .ctl }
    f.ctlBelow 4 && r.ok f

/-- PACK: format and position against the source type (R164). -/
def packOk (f : LFields) : Bool :=
  let fm := f.ctl 0 4
  let n := f.ctl 4 2
  let int := n3232 f.ty
  f.ctlBelow 6 && rowPack.ok f
  && (if fm = 0 || fm = 1 then f.ty == .f32 && decide (n = 0)
      else if fm = 2 || fm = 3 then int && decide (n = 0)
      else if fm = 4 || fm = 5 then f.ty == .f32 && decide (n ≤ 1)
      else if fm = 6 || fm = 7 then int && decide (n ≤ 1)
      else if fm = 8 || fm = 9 then f.ty == .i32
      else false)
  && (f.ty == .f32 || f.rnd == .rn)

/-- UNPK: format and element against the result type (R165). -/
def unpkOk (f : LFields) : Bool :=
  let fm := f.ctl 0 4
  let n := f.ctl 4 3
  f.ctlBelow 7 && rowUnpk.ok f
  && (if fm = 0 || fm = 1 then f.ty == .f32 && decide (n ≤ 1)
      else if fm = 2 then f.ty == .i32 && decide (n ≤ 1)
      else if fm = 3 then f.ty == .n32 && decide (n ≤ 1)
      else if fm = 4 || fm = 5 then f.ty == .f32 && decide (n ≤ 3)
      else if fm = 6 then f.ty == .i32 && decide (n ≤ 3)
      else if fm = 7 then f.ty == .n32 && decide (n ≤ 3)
      else if fm = 8 || fm = 9 then f.ty == .i32
      else false)
  && (f.ty == .f32 || f.rnd == .rn)

/-- REDP: operation codes, rounding and saturation (R144, R177). -/
def redpOk (f : LFields) : Bool :=
  let op := f.ctl 0 3
  f.ctlBelow 3 && rowRedp.ok f && decide (op ≤ 5)
  && (f.ty.isInt || decide (op ≤ 2))
  && (!f.ty.isInt || f.rnd == .rn)
  && (!f.sat || (f.ty.isInt && decide (op = 0)))

/-- The algebra words: groups of d registers or pairs, class 00 sources, zero conjugation bits where unused (R178). -/
def algOk (two three anorm : Bool) (f : LFields) : Bool :=
  let d := algDim (f.ctl 5 2)
  let sp := d * (if f.ty.wide then 2 else 1) - 1
  let r : LRow := { dest := if anorm then .vo else .v, a := .ty, b := if two then .ty else .no, c := if three then .ty else .no,
                    types := f3264, rnd := .bin, imm := .ctl }
  f.ctlBelow 7 && r.ok f && f.a.isV && (!two || f.b.isV) && (!three || f.c.isV)
  && (two || decide (f.ctl 2 3 = 0))
  && (anorm || destRepOk f sp f.dest) && srcRepOk f sp f.a
  && (!two || srcRepOk f sp f.b) && (!three || srcRepOk f sp f.c)

/-- Order and scope of a memory word (R183): allowed gives the one order code accepted besides none. -/
def memOrderOk (f : LFields) (allowed : Option Nat) : Bool :=
  let o := f.ctl 22 2
  let s := f.ctl 20 2
  if o = 0 then decide (s = 0) else allowed == some o

/-- The ctl field of a memory word (R183). -/
def memOk (r : LRow) (allowed : Option Nat) (lds sts : Bool) (f : LFields) : Bool :=
  r.ok f && memOrderOk f allowed
  && (lds || sts || decide (f.ctl 19 1 = 0))
  && (decide (f.ctl 18 1 = 0) || (lds && decide (f.ctl 19 1 = 1)))
  && decide (f.ctl 16 2 = 0)

/-- The operation of an ATOM from its code (R321). -/
def AtomOp.ofCode : Nat → Option AtomOp
  | 0 => some .add | 1 => some .min | 2 => some .max | 3 => some .and | 4 => some .or | 5 => some .xor
  | 6 => some .xchg | 7 => some .cas | 8 => some .fadd | _ => none

def AtomOp.code : AtomOp → Nat
  | .add => 0 | .min => 1 | .max => 2 | .and => 3 | .or => 4 | .xor => 5 | .xchg => 6 | .cas => 7 | .fadd => 8

/-- Operation and type of an atomic agree (R321). -/
def AtomOp.typeOk (op : AtomOp) (t : LType) : Bool :=
  if op == .fadd then t == .f32 else t.isInt3264

def atomOk (f : LFields) : Bool :=
  match AtomOp.ofCode (f.ctl 15 4) with
  | none => false
  | some op =>
    let r : LRow := { dest := .voNone, a := if f.ctl 19 1 = 1 then .n32 else .wide, b := .ty,
                      c := if op == .cas then .ty else .no, types := anyType, imm := .ctl }
    r.ok f && op.typeOk f.ty && decide (f.ctl 0 15 = 0)
    && (decide (f.ctl 22 2 ≠ 0) || decide (f.ctl 20 2 = 0))
    && (!f.n || !(f.dest == .none))

/-- DAUB (R327). -/
def daubOk (f : LFields) : Bool :=
  let mode := f.ctl 18 2
  let r : LRow := { dest := .none, a := .wide, b := if mode = 2 then .wide else .n32, c := .ty, types := anyType, imm := .ctl }
  r.ok f && f.b.uniform && decide (mode ≤ 2) && (decide (mode ≠ 2) || f.b.isQ)
  && (if f.ctl 22 2 = 0 then decide (f.ctl 20 2 = 0)
      else decide (f.ctl 22 2 = 2) && decide (2 ≤ f.ctl 20 2))
  && (decide (mode = 2) || decide (f.ctl 17 1 = 0)) && decide (f.ctl 16 1 = 0)

/-- WST (R449). -/
def wstOk (f : LFields) : Bool := rowStore.ok f && decide (f.ctl 22 2 = 0)

/-- The class of a half (R102): true for integer and logic. -/
def HalfOp.isIntClass : HalfOp → Bool
  | .fadd | .fsub | .fmul | .fmin | .fmax | .frnd | .cvt => false
  | _ => true

/-- Which sources a half reads: A, B, and whether B is a shift amount (R143). -/
def HalfOp.uses : HalfOp → Bool × Bool × Bool
  | .iadd | .isub | .imul | .imin | .imax | .and | .or | .xor => (true, true, false)
  | .shl | .shr | .sra | .rot => (true, true, true)
  | .iabs | .ineg | .not | .clz | .popc | .brev | .mov => (true, false, false)
  | .lidx => (false, false, false)
  | .fadd | .fsub | .fmul | .fmin | .fmax => (true, true, false)
  | .frnd | .cvt => (true, false, false)

/-- A type with a compact code (R40). -/
def LType.compact : LType → Bool
  | .i32 | .n32 | .i64 | .n64 | .f32 | .f64 | .f16 | .bf16 => true
  | _ => false

/-- The types a half accepts (R94, R147). -/
def Half.typeOk (x : Half) : Bool :=
  match x.op with
  | .cvt => x.ty.compact
  | .lidx => x.ty == .i32
  | .iabs | .ineg => x.ty == .i32 || x.ty == .i64
  | op => if op.isIntClass then x.ty.isInt3264 else x.ty.isBfp

/-- A source of a half: small immediates run from −64 to 63 and no imm24 exists (R93). -/
def Src.halfRange : Src → Bool
  | .imm24 => false
  | .imm n => decide (-64 ≤ n ∧ n ≤ 63)
  | s => s.inRange

/-- Width of a half's source A: the source type for CVT, the type otherwise. -/
def Half.aWide (x : Half) : Bool := if x.op == .cvt then x.src.wide else x.ty.wide
def Half.bWide (x : Half) : Bool := !x.op.uses.2.2 && x.ty.wide

def Half.destOk (x : Half) : Bool :=
  match x.dest with
  | .v n => decide (n < 240)
  | .o n => decide (n < 16)
  | _ => false

/-- The checks of R92 to R94 on one half. -/
def Half.ok (x : Half) : Bool :=
  x.typeOk && x.destOk && x.dest.evenIf x.ty.wide
  && (if x.op.uses.1 then x.a.halfRange && x.a.evenIf x.aWide else x.a == .v 0)
  && (if x.op.uses.2.1 then x.b.halfRange && x.b.evenIf x.bWide else x.b == .v 0)
  && (x.op == .cvt || x.src == .i32)

/-- The v registers a half writes. -/
def Half.vDests (x : Half) : List Nat :=
  match x.dest with
  | .v n => if x.ty.wide then [n, n + 1] else [n]
  | _ => []

def vRegs (wide : Bool) : Src → List Nat
  | .v n => if wide then [n, n + 1] else [n]
  | _ => []

/-- The v registers a half reads. -/
def Half.vReads (x : Half) : List Nat :=
  (if x.op.uses.1 then vRegs x.aWide x.a else []) ++ (if x.op.uses.2.1 then vRegs x.bWide x.b else [])

/-- All registers a half writes: v and o destinations. -/
def Half.dests (x : Half) : List Dest :=
  match x.dest with
  | .v n => if x.ty.wide then [.v n, .v (n + 1)] else [.v n]
  | .o n => if x.ty.wide then [.o n, .o (n + 1)] else [.o n]
  | d => [d]

def distinctBanks : List Nat → Bool
  | [] => true
  | n :: r => r.all (fun m => m % 4 != n % 4) && distinctBanks r

/-- The pairing rules of R95. -/
def pairOk (x y : Half) : Bool :=
  x.ok && y.ok && (x.op.isIntClass != y.op.isIntClass)
  && x.vDests.all (fun m => y.vDests.all (fun n => m % 4 != n % 4))
  && x.dests.all (fun d => !(y.dests.contains d))
  && (let rs := (x.vReads ++ y.vReads).eraseDups
      decide (rs.length ≤ 3) && distinctBanks rs)

/-- Kmax and the accepted format pairs of MMA (R193): 0 when the pair is not accepted. -/
def mmaKmax : Fmt → Fmt → Nat
  | .ty .f16, .ty .f16 => 64
  | .ty .bf16, .ty .bf16 => 64
  | a, b =>
    let e (x : Fmt) : Bool := x == .ty .e4m3 || x == .ty .e5m2 || x == .mx8
    if e a && e b then 128 else 0

/-- Kmax of MMAW (R193). -/
def mmawKmax : Fmt → Fmt → Nat
  | .ty .e4m3, .w4 | .ty .e4m3, .w3 => 128
  | .ty .bf16, .w4 | .ty .bf16, .w3 => 64
  | _, _ => 0

/-- Kmax of MMAG (R193). -/
def mmagKmax (dim : Nat) : Fmt → Fmt → Nat
  | .ty .f16, .ty .f16 => 64 / dim
  | .ty .bf16, .ty .bf16 => 64 / dim
  | _, _ => 0

/-- A scaled operand occupies an even tile (R191, R196). -/
def scaledTileOk (fm : Fmt) (t : Fin 32) : Bool := !fm.scaled || decide (t.val % 2 = 0)

/-- The static cases of R196 for MMA, TCOPYM's step included. -/
def mmaStaticOk (fa fb : Fmt) (ta : Bool) (tb : Bool) (a b : Fin 32) : Bool :=
  decide (0 < mmaKmax fa fb) && scaledTileOk fa a && scaledTileOk fb b
  && !(ta && fa.scaled) && !(tb && (fb == .w4 || fb == .w3))

def MmaFields.plain (f : MmaFields) : Bool :=
  decide (f.dim.val = 0) && !f.rev && !f.ca && !f.cb && decide (f.slot.val = 0)

def mmaOk (f : MmaFields) : Bool :=
  f.plain && decide (f.kq.val = 0) && mmaStaticOk f.fmtA f.fmtB f.ta f.tb f.tileA f.tileB

def mmawOk (f : MmaFields) : Bool :=
  f.plain && decide (0 < mmawKmax f.fmtA f.fmtB) && scaledTileOk f.fmtB f.tileB && !f.tb
  && (!(f.fmtA == .ty .e4m3) || decide (f.kq.val < 2))

def mmagOk (f : MmaFields) : Bool :=
  decide (f.kq.val = 0) && decide (0 < mmagKmax (algDim f.dim.val) f.fmtA f.fmtB)
  && decide (f.acc.val % algDim f.dim.val = 0)

/-- Accumulators that ATOT reads (R213). -/
def atotCount (f : Fin 4) : Nat := if f.val < 2 then 4 else 8

/-- The static well-formedness of an instruction (R103); a step of another agent is always well formed. -/
def Instr.wf : Instr → Bool
  | .sbfx _ _ _ p w | .sbfi _ _ p w => decide (p.val + (w.val + 1) ≤ 64)
  | .sld _ _ z sx _ | .sldk _ _ z sx _ | .slds _ _ z sx _ => !(decide (z.val = 3) && sx)
  | .sldAcq _ _ z sx _ _ => !(decide (z.val = 3) && sx)
  | .mma f => mmaOk f
  | .mmaw f => mmawOk f
  | .mmag f => mmagOk f
  | .aclr x c => decide (x.val + 2 ^ c.val ≤ 256)
  | .atot b _ _ f _ => decide (4 * b.val + atotCount f ≤ 256) && (decide (f.val < 2) || decide (4 * b.val % 8 = 0))
  | .seed _ x _ => decide (x.val + 15 ≤ 63)
  | .phase o _ => !(o == .relaxed)
  | .pfence f t => !(f == .constant) && !(f == t)
  | .satom f => f.op.typeOk f.ty && (f.op == .cas || decide (f.c.val = 0))
      && (!(f.order == .relaxed) || f.scope == .pod)
  | .redx _ _ _ m _ => decide (m.val % 2 = 0)
  | .tcopy f => !(f.scope == .pod) && (f.bar || (!f.bytes && decide (f.b.val = 0)))
  | .tcopym f => mmaStaticOk f.fmtA f.fmtB f.ta f.tb f.tileA f.tileB
  | .rflush _ a b bar | .rinval _ a b bar | .rdisc _ a b bar => decide (a.val < 63) && (bar || decide (b.val = 0))
  | .coat _ n b _ => decide (b.toNat + n.toNat ≤ 256) && (decide (n.toNat ≠ 0) || decide (b.toNat = 0))
  | .xsend _ a _ _ => decide (a.val < 63)
  | .iadd f | .isub f | .imul f => rowInt2Sat.ok f
  | .imin f | .imax f | .and f | .or f | .xor f => rowInt2.ok f
  | .iabs f | .ineg f => rowNeg.ok f
  | .not f | .clz f | .popc f | .brev f => rowInt1.ok f
  | .shl f | .shr f | .sra f | .rot f => rowShift.ok f
  | .mov f => rowMov.ok f
  | .lidx f => rowLidx.ok f
  | .fadd f | .fsub f | .fmul f | .fmin f | .fmax f => rowF2.ok f
  | .frnd f => rowF1.ok f
  | .cvt f => cvtOk f
  | .iaddc f => rowIaddc.ok f && f.ctlBelow 5
  | .imulh f => rowImulh.ok f
  | .imad f => rowImad.ok f
  | .idiv f => rowIdiv.ok f
  | .irem f => rowIrem.ok f
  | .bfx f | .bfi f => rowBf.ok f
  | .icmp f => rowIcmp.ok f && decide (f.imm.toNat ≤ 5)
  | .sel f => rowSel.ok f && f.ctlBelow 4
  | .ffma f => rowFfma.ok f
  | .fcmp f => rowFcmp.ok f && f.ctlBelow 3
  | .fclass f => rowFclass.ok f
  | .pack f => packOk f
  | .unpk f => unpkOk f
  | .rcp f | .rsq f | .exp2 f | .log2 f | .sinpi f | .cospi f => rowSfu.ok f
  | .sqrt f => rowSfu64.ok f
  | .div f => rowDiv.ok f
  | .dadd f | .dsub f | .dmul f | .ddiv f | .dqua f => rowDec2.ok f
  | .dfma f => rowDfma.ok f
  | .dcmp f => rowDcmp.ok f && f.ctlBelow 3
  | .dcvt f => rowDcvt.ok f && f.ctlBelow 1
  | .dscb f => rowDscb.ok f
  | .movi f => rowMovi.ok f && f.a.isV
  | .shfl f => rowShfl.ok f && f.ctlBelow 2
  | .bcast f => rowBcast.ok f && f.b.uniform
  | .vote f => rowVote.ok f && f.ctlBelow 2
  | .redp f => redpOk f
  | .amul f => algOk true false false f
  | .afma f => algOk true true false f
  | .aconj f => algOk false false false f
  | .anorm f => algOk false false true f
  | .ld f => memOk rowLoad (some 1) false false f
  | .st f => memOk rowStore (some 2) false false f
  | .ldk f => memOk rowLoad none false false f
  | .lds f => memOk rowLoadS none true false f
  | .sts f => memOk rowStoreS none false true f
  | .atom f => atomOk f
  | .daub f => daubOk f
  | .wst f => wstOk f
  | .pairedWord _ x y => pairOk x y
  | _ => true

end Sys2Proof
end

