-- ==== Sys2Proof/Machine/Num.lean ====
section
/-! DEFINITION. Exact values and rounding (R41 to R70): binary formats, integers, the exact arithmetic of a step, and the conversions of R63 to R66. A magnitude is a fraction n / d with d not zero. -/

namespace Sys2Proof.Machine

/-- The exceptions of one kind, in the order of fsr bits [4:0] (R15): I, Z, O, U, X. -/
abbrev Exc := BitVec 5
def excNone : Exc := 0
def excI : Exc := 1
def excZ : Exc := 2
def excO : Exc := 4
def excU : Exc := 8
def excX : Exc := 16

/-- What bits encode (R62): a NaN, an infinity, or an exact number with its sign; zero keeps a sign. -/
inductive Val | nan (signalling : Bool) | inf (neg : Bool) | num (neg : Bool) (n d : Nat)
deriving DecidableEq, Repr

def Val.isZero : Val → Bool
  | .num _ n _ => n == 0
  | _ => false
def Val.isNan : Val → Bool
  | .nan _ => true
  | _ => false
def Val.signalling : Val → Bool
  | .nan s => s
  | _ => false
def Val.neg : Val → Bool
  | .inf s => s
  | .num s _ _ => s
  | .nan _ => false
def Val.negate : Val → Val
  | .inf s => .inf (!s)
  | .num s n d => .num (!s) n d
  | .nan s => .nan s

/-- An operand that is a signalling NaN raises invalid (R58). -/
def excOf (xs : List Val) : Exc := if xs.any Val.signalling then excI else excNone

/-! ## Binary formats (R44, R45) -/

/-- Fraction width, exponent width and bias; no format but e4m3 gives all-ones exponents to infinity and NaN. -/
structure BinFmt where
  f : Nat
  e : Nat
  bias : Nat
  ocp : Bool
deriving DecidableEq, Repr

def fmtF64 : BinFmt := ⟨52, 11, 1023, false⟩
def fmtF32 : BinFmt := ⟨23, 8, 127, false⟩
def fmtF16 : BinFmt := ⟨10, 5, 15, false⟩
def fmtBf16 : BinFmt := ⟨7, 8, 127, false⟩
def fmtE5m2 : BinFmt := ⟨2, 5, 15, false⟩
def fmtE4m3 : BinFmt := ⟨3, 4, 7, true⟩

def binFmt : LType → BinFmt
  | .f64 => fmtF64 | .f16 => fmtF16 | .bf16 => fmtBf16 | .e5m2 => fmtE5m2 | .e4m3 => fmtE4m3 | _ => fmtF32

/-- The sign bit's weight. -/
def BinFmt.top (b : BinFmt) : Nat := 2 ^ (b.e + b.f)
def BinFmt.emin (b : BinFmt) : Int := 1 - Int.ofNat b.bias
/-- Encoding of the largest finite magnitude. -/
def BinFmt.maxBits (b : BinFmt) : Nat := if b.ocp then 0x7E else (2 ^ b.e - 1) * 2 ^ b.f - 1
def BinFmt.infBits (b : BinFmt) : Nat := (2 ^ b.e - 1) * 2 ^ b.f
/-- The canonical NaN (R46). -/
def BinFmt.nanBits (b : BinFmt) : Nat := if b.ocp then 0x7F else b.infBits + 2 ^ (b.f - 1)
def BinFmt.signed (b : BinFmt) (neg : Bool) (m : Nat) : Nat := if neg then b.top + m else m

/-- A number times a power of two. -/
def scaled2 (n d : Nat) (k : Int) : Nat × Nat := if 0 ≤ k then (n * 2 ^ k.toNat, d) else (n, d * 2 ^ (-k).toNat)

/-- The value that bits encode (R44, R45). -/
def BinFmt.value (b : BinFmt) (x : Nat) : Val :=
  let x := x % (2 * b.top)
  let neg := decide (b.top ≤ x)
  let e := x / 2 ^ b.f % 2 ^ b.e
  let f := x % 2 ^ b.f
  let ones := e = 2 ^ b.e - 1
  if ones ∧ !b.ocp then if f = 0 then .inf neg else .nan (decide (f < 2 ^ (b.f - 1)))
  else if ones ∧ b.ocp ∧ f = 7 then .nan false
  else
    let m := if e = 0 then f else 2 ^ b.f + f
    let k : Int := (if e = 0 then 1 else Int.ofNat e) - Int.ofNat b.bias - Int.ofNat b.f
    let r := scaled2 m 1 k
    .num neg r.1 r.2

/-! ## Rounding (R55, R62) -/

/-- n / d rounded to an integer by a mode, for a value of the given sign. -/
def roundNat (m : Rnd) (neg : Bool) (n d : Nat) : Nat :=
  let f := n / d
  let r := n % d
  if r = 0 then f
  else match m with
    | .rn | .dyn => if 2 * r < d then f else if d < 2 * r then f + 1 else if f % 2 = 0 then f else f + 1
    | .rna => if 2 * r < d then f else f + 1
    | .rnz => if d < 2 * r then f + 1 else f
    | .rz => f
    | .raz => f + 1
    | .rp => if neg then f else f + 1
    | .rm => if neg then f + 1 else f

/-- expo(n / d) for a number above zero (R62). -/
def expo2 (n d : Nat) : Int :=
  let e := Int.ofNat n.log2 - Int.ofNat d.log2
  let a := scaled2 n d (-e)
  if a.1 < a.2 then e - 1 else e

/-- Overflow is delivered as the largest finite value (R59). -/
def overflowsToLargest (m : Rnd) (neg : Bool) : Bool :=
  match m with
  | .rz => true
  | .rp => neg
  | .rm => !neg
  | _ => false

/-- The bits of an infinity as a result (R59, R65). -/
def BinFmt.infOut (b : BinFmt) (neg sat : Bool) : Nat :=
  if b.ocp then (if sat then b.signed neg b.maxBits else b.nanBits) else b.signed neg b.infBits

/-- round_to (R62) with the saturation of R63. -/
def BinFmt.round (b : BinFmt) (m : Rnd) (sat neg : Bool) (n d : Nat) : Nat × Exc :=
  if n = 0 then (b.signed neg 0, excNone)
  else
    let ex := expo2 n d
    let k := max ex b.emin - Int.ofNat b.f
    let a := scaled2 n d (-k)
    let y := roundNat m neg a.1 a.2
    let ku := ex - Int.ofNat b.f
    let c := scaled2 n d (-ku)
    let u := roundNat m neg c.1 c.2
    let inexact := a.1 % a.2 ≠ 0
    let un := scaled2 u 1 ku
    let mn := scaled2 1 1 b.emin
    let tiny := un.1 * mn.2 < mn.1 * un.2
    let big := match b.value b.maxBits with
      | .num _ mxn mxd => decide (mxn * un.2 < un.1 * mxd)
      | _ => false
    if big then
      (if sat || overflowsToLargest m neg then b.signed neg b.maxBits else b.infOut neg false, excO ||| excX)
    else
      (b.signed neg ((k + Int.ofNat b.f + Int.ofNat b.bias - 1).toNat * 2 ^ b.f + y),
       (if inexact then excX else excNone) ||| (if inexact ∧ tiny then excU else excNone))

/-- A value delivered in a binary format: NaN is canonical (R46), numbers are rounded. -/
def BinFmt.deliver (b : BinFmt) (m : Rnd) (sat : Bool) : Val → Nat × Exc
  | .nan _ => (b.nanBits, excNone)
  | .inf neg => (b.infOut neg sat, excNone)
  | .num neg n d => b.round m sat neg n d

/-! ## Integers (R41 to R43, R62) -/

def intMin (t : LType) : Int := if t.signed then -(2 ^ (t.bits - 1) : Int) else 0
def intMax (t : LType) : Int := if t.signed then 2 ^ (t.bits - 1) - 1 else 2 ^ t.bits - 1

/-- The integer that the low bits of a word hold. -/
def intValue (t : LType) (x : Nat) : Int :=
  let y := x % 2 ^ t.bits
  if t.signed && decide (2 ^ (t.bits - 1) ≤ y) then Int.ofNat y - 2 ^ t.bits else Int.ofNat y

/-- The bits of an integer in a word of w bits, modulo 2 to the w. -/
def intBits (w : Nat) (x : Int) : Nat := (x % (2 ^ w : Int)).toNat

/-- wrap(T, x) (R62). -/
def wrapInt (t : LType) (x : Int) : Int := intValue t (intBits t.bits x)
/-- sat(T, x) (R62). -/
def satInt (t : LType) (x : Int) : Int := max (intMin t) (min (intMax t) x)

def Val.ofInt (x : Int) : Val := .num (decide (x < 0)) x.natAbs 1

/-- cvt_to_int (R64). -/
def cvtToInt (t : LType) (m : Rnd) (sat : Bool) : Val → Int × Exc
  | .nan _ => (0, excI)
  | .inf neg => (if sat then (if neg then intMin t else intMax t) else 0, excI)
  | .num neg n d =>
    let r := roundNat m neg n d
    let x : Int := if neg then -(Int.ofNat r) else Int.ofNat r
    if x < intMin t ∨ intMax t < x then (if sat then satInt t x else wrapInt t x, excI)
    else (x, if n % d ≠ 0 then excX else excNone)

/-! ## Exact arithmetic on values -/

/-- A signed numerator over a denominator. -/
def signedNum (neg : Bool) (n : Nat) : Int := if neg then -(Int.ofNat n) else Int.ofNat n

/-- The sign of an exact zero sum (R57). -/
def zeroSign (m : Rnd) (sa sb : Bool) : Bool := if sa = sb then sa else m == .rm

/-- a + b exactly, with R57 and the invalid case of R58. -/
def Val.add (m : Rnd) (a b : Val) : Val × Exc :=
  match a, b with
  | .nan s, .nan t => (.nan false, if s || t then excI else excNone)
  | .nan s, _ => (.nan false, if s then excI else excNone)
  | _, .nan t => (.nan false, if t then excI else excNone)
  | .inf s, .inf t => if s = t then (.inf s, excNone) else (.nan false, excI)
  | .inf s, .num _ _ _ => (.inf s, excNone)
  | .num _ _ _, .inf t => (.inf t, excNone)
  | .num s n d, .num t k e =>
    let x := signedNum s n * Int.ofNat e + signedNum t k * Int.ofNat d
    if x = 0 then (.num (zeroSign m s t) 0 1, excNone)
    else (.num (decide (x < 0)) x.natAbs (d * e), excNone)

/-- a × b exactly (R58, R68). -/
def Val.mul (a b : Val) : Val × Exc :=
  match a, b with
  | .nan s, .nan t => (.nan false, if s || t then excI else excNone)
  | .nan s, _ => (.nan false, if s then excI else excNone)
  | _, .nan t => (.nan false, if t then excI else excNone)
  | .inf s, .inf t => (.inf (s != t), excNone)
  | .inf s, .num t n _ => if n = 0 then (.nan false, excI) else (.inf (s != t), excNone)
  | .num s n _, .inf t => if n = 0 then (.nan false, excI) else (.inf (s != t), excNone)
  | .num s n d, .num t k e => (.num (s != t) (n * k) (d * e), excNone)

/-- a × b + c exactly: 0 × ∞ is invalid even beside a quiet NaN (R58). -/
def Val.fma (m : Rnd) (a b c : Val) : Val × Exc :=
  let p := a.mul b
  let r := p.1.add m c
  (r.1, p.2 ||| r.2 ||| excOf [c])

/-- a ÷ b exactly (R58). -/
def Val.div (a b : Val) : Val × Exc :=
  match a, b with
  | .nan s, .nan t => (.nan false, if s || t then excI else excNone)
  | .nan s, _ => (.nan false, if s then excI else excNone)
  | _, .nan t => (.nan false, if t then excI else excNone)
  | .inf _, .inf _ => (.nan false, excI)
  | .inf s, .num t _ _ => (.inf (s != t), excNone)
  | .num s _ _, .inf t => (.num (s != t) 0 1, excNone)
  | .num s n d, .num t k e =>
    if k = 0 then if n = 0 then (.nan false, excI) else (.inf (s != t), excZ)
    else (.num (s != t) (n * e) (d * k), excNone)

/-- Order of two numbers or infinities: -1, 0 or 1. -/
def Val.cmp (a b : Val) : Int :=
  match a, b with
  | .inf s, .inf t => if s = t then 0 else if s then -1 else 1
  | .inf s, _ => if s then -1 else 1
  | _, .inf t => if t then 1 else -1
  | .num s n d, .num t k e =>
    let x := signedNum s n * Int.ofNat e - signedNum t k * Int.ofNat d
    if x < 0 then -1 else if x = 0 then 0 else 1
  | _, _ => 0

/-- The integer square root, from the most significant bit down. -/
def isqrtFrom (n : Nat) : Nat → Nat → Nat
  | 0, r => r
  | k + 1, r => isqrtFrom n k (if (r + 2 ^ k) * (r + 2 ^ k) ≤ n then r + 2 ^ k else r)
def isqrt (n : Nat) : Nat := isqrtFrom n (n.log2 / 2 + 1) 0

/-- A fraction that lies where the square root of n / d lies among all fractions of at most 128 significant bits: the root itself when it is one of them. -/
def sqrtFrac (n d : Nat) : Nat × Nat :=
  -- √(n/d) = √(n·d)/d; scaled by 2^k so that the integer root has more than 128 bits
  let k := 160
  let x := n * d * 2 ^ (2 * k)
  let r := isqrt x
  if r * r = x then (r, d * 2 ^ k) else (2 * r + 1, 2 * (d * 2 ^ k))

/-! ## Matrix step sums (R68, R69) -/

/-- A list of products; the flag of an invalid one (R68). -/
def truncTo (n d : Nat) (k : Int) : Nat :=
  let a := scaled2 n d (-k)
  a.1 / a.2

/-- mstep (R69) on f32 bits: the products are exact values. -/
def mstep (acc : Nat) (ps : List Val) : Nat × Exc :=
  let a := fmtF32.value acc
  if ps.isEmpty then (acc, excNone)
  else if a.isNan || ps.any Val.isNan then (fmtF32.nanBits, excNone)
  else
    let pos := ps.any (· == .inf false)
    let neg := ps.any (· == .inf true)
    if pos && neg then (fmtF32.nanBits, excI)
    else if pos || neg then
      match a with
      | .inf s => if s = neg then (fmtF32.infOut neg false, excNone) else (fmtF32.nanBits, excI)
      | _ => (fmtF32.infOut neg false, excNone)
    else match a with
    | .inf s => (fmtF32.infOut s false, excNone)
    | _ =>
      let nz := ps.filter fun p => !p.isZero
      let sum : Val := match nz with
        | [] => .num (ps.all Val.neg) 0 1
        | p :: r =>
          let ex := fun (v : Val) => match v with
            | .num _ n d => expo2 n d
            | _ => 0
          let e := r.foldl (fun m v => max m (ex v)) (ex p)
          let k := e - 80
          let t := nz.foldl (fun (x : Int) v => match v with
            | .num s n d => x + signedNum s (truncTo n d k)
            | _ => x) 0
          let f := scaled2 t.natAbs 1 k
          .num (decide (t < 0)) f.1 f.2
      match (a.add .rn sum).1 with
      | .num s n d => fmtF32.round .rn false s n d
      | .inf s => (fmtF32.infOut s false, excNone)
      | .nan _ => (fmtF32.nanBits, excNone)

/-! ## Block and group formats (R48, R49) -/

/-- The value of an mx8 element with scale byte s (R48). -/
def mx8Value (s x : Nat) : Val :=
  match fmtE4m3.value x with
  | .num neg n d =>
    if s = 0xFF then .nan false
    else
      let r := scaled2 n d (Int.ofNat s - 127)
      .num neg r.1 r.2
  | _ => .nan false

/-- The weight of a w4 or w3 nibble (R49). -/
def weightOf (w3 : Bool) (x : Nat) : Int :=
  if w3 then intValue .i8 (x % 8 * 32) / 32 else intValue .i8 (x % 16 * 16) / 16

/-- The value of a weight with bf16 scale s, with the flag it raises (R49, R68): a weight of 0 with a negative finite scale is -0, by the sign rule of products (DEDUCED, log entry 90). -/
def weightValue (w3 : Bool) (s x : Nat) : Val × Exc := (Val.ofInt (weightOf w3 x)).mul (fmtBf16.value s)

end Sys2Proof.Machine
end

