-- ==== Sys2Proof/Machine/Decimal.lean ====
section
/-! DEFINITION. Decimal64 (R50 to R53): decoding, encoding, round_d (R62), the operations of R166 to R171, and the densely packed encoding of IEEE 754-2019. -/

namespace Sys2Proof.Machine

/-- A decimal64 datum: NaN, infinity, or sign, coefficient and quantum exponent (R50). -/
inductive DVal | nan (signalling : Bool) | inf (neg : Bool) | num (neg : Bool) (c : Nat) (q : Int)
deriving DecidableEq, Repr

/-- The largest coefficient and the range of q (R50). -/
def dMax : Nat := 10 ^ 16 - 1
def dQmin : Int := -398
def dQmax : Int := 369

/-! ## Encodings -/

/-- Decoding (R50); a non-canonical coefficient reads as 0 (R51). -/
def DVal.decode (x : Nat) : DVal :=
  let s := decide (2 ^ 63 ≤ x % 2 ^ 64)
  let canon := fun (c : Nat) => if dMax < c then 0 else c
  if x / 2 ^ 61 % 4 ≠ 3 then .num s (canon (x % 2 ^ 53)) (Int.ofNat (x / 2 ^ 53 % 1024) - 398)
  else if x / 2 ^ 59 % 4 ≠ 3 then .num s (canon (2 ^ 53 + x % 2 ^ 51)) (Int.ofNat (x / 2 ^ 51 % 1024) - 398)
  else if x / 2 ^ 58 % 2 = 0 then .inf s
  else .nan (decide (x / 2 ^ 57 % 2 = 1))

def dSign (neg : Bool) : Nat := if neg then 2 ^ 63 else 0

/-- The canonical encoding (R51). -/
def DVal.encode : DVal → Nat
  | .nan _ => 0x7C00000000000000
  | .inf s => dSign s + 0x7800000000000000
  | .num s c q =>
    let e := (q + 398).toNat
    if c < 2 ^ 53 then dSign s + e * 2 ^ 53 + c else dSign s + 3 * 2 ^ 61 + e * 2 ^ 51 + (c - 2 ^ 53)

/-- n / d times a power of ten. -/
def scaled10 (n d : Nat) (k : Int) : Nat × Nat := if 0 ≤ k then (n * 10 ^ k.toNat, d) else (n, d * 10 ^ (-k).toNat)

/-- The value of a datum. -/
def DVal.value : DVal → Val
  | .nan s => .nan s
  | .inf s => .inf s
  | .num s c q => let r := scaled10 c 1 q; .num s r.1 r.2

def DVal.exponent : DVal → Int
  | .num _ _ q => q
  | _ => 0

def DVal.isInf : DVal → Bool
  | .inf _ => true
  | _ => false
def DVal.isNan : DVal → Bool
  | .nan _ => true
  | _ => false

/-! ## Rounding -/

/-- The integer e with 10^e ≤ n / d < 10^(e+1), for a number above zero. -/
def expo10 (n d : Nat) : Int :=
  let est := expo2 n d * 1233 / 4096
  let ge := fun (e : Int) => let r := scaled10 1 1 e; decide (r.1 * d ≤ n * r.2)
  if ge (est + 1) then est + 1 else if ge est then est else est - 1

/-- Trailing zero digits of c, at most the given number. -/
def trailing10 (c : Nat) : Nat → Nat
  | 0 => 0
  | k + 1 => if c % 10 = 0 then trailing10 (c / 10) k + 1 else 0

def clampQ (q : Int) : Int := max dQmin (min dQmax q)

/-- The result of a decimal overflow (R59). -/
def dOverflow (m : Rnd) (neg : Bool) : DVal := if overflowsToLargest m neg then .num neg dMax dQmax else .inf neg

/-- round_d (R62, R52, R53). -/
def roundD (m : Rnd) (neg : Bool) (n d : Nat) (qp : Int) : DVal × Exc :=
  if n = 0 then (.num neg 0 (clampQ qp), excNone)
  else
    let e := expo10 n d
    let q := max (e - 15) dQmin
    let a := scaled10 n d (-q)
    if a.1 % a.2 = 0 ∧ q ≤ dQmax then
      let c := a.1 / a.2
      let top := min dQmax (q + Int.ofNat (trailing10 c 16))
      let p := max q (min top qp)
      (.num neg (c / 10 ^ (p - q).toNat) p, excNone)
    else
      let y := roundNat m neg a.1 a.2
      let c := if dMax < y then 10 ^ 15 else y
      let p := if dMax < y then q + 1 else q
      if dQmax < p then (dOverflow m neg, excO ||| excX)
      else (.num neg c p, excX ||| (if e < -383 then excU else excNone))

/-- A value delivered as decimal64 with a preferred exponent (R65, R167). -/
def deliverD (m : Rnd) (qp : Int) : Val → DVal × Exc
  | .nan _ => (.nan false, excNone)
  | .inf s => (.inf s, excNone)
  | .num s n d => roundD m s n d qp

/-! ## Operations (R166 to R169) -/

/-- The result of an exact operation. -/
def finishD (m : Rnd) (qp : Int) (r : Val × Exc) : DVal × Exc :=
  let x := deliverD m qp r.1
  (x.1, x.2 ||| r.2)

def dAdd (m : Rnd) (a b : DVal) : DVal × Exc := finishD m (min a.exponent b.exponent) (a.value.add m b.value)

def DVal.negate : DVal → DVal
  | .num s c q => .num (!s) c q
  | .inf s => .inf (!s)
  | .nan s => .nan s

def dMul (m : Rnd) (a b : DVal) : DVal × Exc := finishD m (a.exponent + b.exponent) (a.value.mul b.value)
def dDiv (m : Rnd) (a b : DVal) : DVal × Exc :=
  finishD m (if b.isInf then dQmin else a.exponent - b.exponent) (a.value.div b.value)
def dFma (m : Rnd) (a b c : DVal) : DVal × Exc :=
  finishD m (min (a.exponent + b.exponent) c.exponent) (a.value.fma m b.value c.value)

/-- DQUA (R168). -/
def dQuantize (m : Rnd) (a b : DVal) : DVal × Exc :=
  let sig := excOf [a.value, b.value]
  match a, b with
  | .nan _, _ | _, .nan _ => (.nan false, sig)
  | .inf s, .inf _ => (.inf s, excNone)
  | .inf _, _ | _, .inf _ => (.nan false, excI)
  | .num s c q, .num _ _ p =>
    let r := scaled10 c 1 (q - p)
    let y := roundNat m s r.1 r.2
    if dMax < y then (.nan false, excI) else (.num s y p, if r.1 % r.2 = 0 then excNone else excX)

/-- DSCB (R169). Beyond 1,200 in magnitude the amount changes neither the result nor the flags. -/
def dScale (m : Rnd) (a : DVal) (n : Int) : DVal × Exc :=
  match a with
  | .num s c q =>
    if c = 0 then (.num s 0 (clampQ (q + n)), excNone)
    else
      let k := max (-1200) (min 1200 n)
      let r := scaled10 c 1 (q + k)
      roundD m s r.1 r.2 (q + k)
  | .inf s => (.inf s, excNone)
  | .nan g => (.nan false, if g then excI else excNone)

/-- The class bits of a datum (R160). -/
def DVal.classBit : DVal → Nat
  | .inf s => if s then 0 else 7
  | .nan g => if g then 8 else 9
  | .num s c q =>
    let r := scaled10 c 1 (q + 383)
    if c = 0 then (if s then 3 else 4) else if r.1 < r.2 then (if s then 2 else 5) else (if s then 1 else 6)

/-! ## The densely packed encoding (R171) -/

/-- The three digits of a declet; bit 0 of the standard is bit 9 here. -/
def decletDigits (x : Nat) : Nat :=
  let b := fun (i : Nat) => x / 2 ^ (9 - i) % 2
  let p := 4 * b 0 + 2 * b 1 + b 2
  let s := 4 * b 3 + 2 * b 4 + b 5
  let f := fun (d1 d2 d3 : Nat) => 100 * d1 + 10 * d2 + d3
  if b 6 = 0 then f p s (4 * b 7 + 2 * b 8 + b 9)
  else match 2 * b 7 + b 8 with
    | 0 => f p s (8 + b 9)
    | 1 => f p (8 + b 5) (4 * b 3 + 2 * b 4 + b 9)
    | 2 => f (8 + b 2) s (4 * b 0 + 2 * b 1 + b 9)
    | _ => match 2 * b 3 + b 4 with
      | 0 => f (8 + b 2) (8 + b 5) (4 * b 0 + 2 * b 1 + b 9)
      | 1 => f (8 + b 2) (4 * b 0 + 2 * b 1 + b 5) (8 + b 9)
      | 2 => f p (8 + b 5) (8 + b 9)
      | _ => f (8 + b 2) (8 + b 5) (8 + b 9)

/-- The canonical declet of three digits. -/
def digitsDeclet (n : Nat) : Nat :=
  let d1 := n / 100 % 10
  let d2 := n / 10 % 10
  let d3 := n % 10
  let hi := fun (d : Nat) => d / 2 % 4
  -- bits 0 to 2, 3 to 4, 5, 6 to 8, 9
  let w := fun (a b c d e : Nat) => a * 128 + b * 32 + c * 16 + d * 2 + e
  match decide (8 ≤ d1), decide (8 ≤ d2), decide (8 ≤ d3) with
  | false, false, false => w d1 (hi d2) (d2 % 2) (hi d3) (d3 % 2)
  | false, false, true => w d1 (hi d2) (d2 % 2) 4 (d3 % 2)
  | false, true, false => w d1 (hi d3) (d2 % 2) 5 (d3 % 2)
  | true, false, false => w (2 * hi d3 + d1 % 2) (hi d2) (d2 % 2) 6 (d3 % 2)
  | true, true, false => w (2 * hi d3 + d1 % 2) 0 (d2 % 2) 7 (d3 % 2)
  | true, false, true => w (2 * hi d2 + d1 % 2) 1 (d2 % 2) 7 (d3 % 2)
  | false, true, true => w d1 2 (d2 % 2) 7 (d3 % 2)
  | true, true, true => w (d1 % 2) 3 (d2 % 2) 7 (d3 % 2)

/-- Decoding of the densely packed encoding. -/
def DVal.decodeDpd (x : Nat) : DVal :=
  let s := decide (2 ^ 63 ≤ x % 2 ^ 64)
  let g := x / 2 ^ 58 % 32
  let low := (List.range 5).foldl (fun a i => a + decletDigits (x / 2 ^ (10 * i) % 1024) * 1000 ^ i) 0
  let q := fun (msb : Nat) => Int.ofNat (msb * 256 + x / 2 ^ 50 % 256) - 398
  if g = 30 then .inf s
  else if g = 31 then .nan (decide (x / 2 ^ 57 % 2 = 1))
  else if g / 8 = 3 then .num s ((8 + g % 2) * 10 ^ 15 + low) (q (g / 2 % 4))
  else .num s (g % 8 * 10 ^ 15 + low) (q (g / 8))

/-- The canonical densely packed encoding. -/
def DVal.encodeDpd : DVal → Nat
  | .nan _ => 0x7C00000000000000
  | .inf s => dSign s + 0x7800000000000000
  | .num s c q =>
    let e := (q + 398).toNat
    let msd := c / 10 ^ 15
    let g := if msd < 8 then e / 256 * 8 + msd else 24 + e / 256 * 2 + msd % 2
    let low := (List.range 5).foldl (fun a i => a + digitsDeclet (c / 1000 ^ i % 1000) * 1024 ^ i) 0
    dSign s + g * 2 ^ 58 + e % 256 * 2 ^ 50 + low

end Sys2Proof.Machine
end

