-- ==== Sys2Proof/Config.lean ====
section
/-! DEFINITION. What an FJ9 fixes (its sizes, R226, R270 to R283) and the free values of the model: opaque constants with no body, so that no proof depends on what they are. -/

namespace Sys2Proof.Config

/-- Cores of a device and of a die (R13, R327). -/
def cores : Nat := 288
def coresPerDie : Nat := 72
/-- Pod slots of a core (R226). -/
def podSlots : Nat := 16
/-- Register storage of a core in bytes (R226). -/
def regBytes : Nat := 524288
/-- Scratchpad of a core in KiB (R226). -/
def scratchKiB : Nat := 768
def tileRegs : Nat := 32
def accSpaces : Nat := 256
def layEntries : Nat := 128
def algSlots : Nat := 8
/-- Entries of an arrival shelf (R304). -/
def shelfEntries : Nat := 64
/-- Stash lines of one core and of one slice (R276). -/
def stashPerCore : Nat := 8192
def stashPerSlice : Nat := 16384
/-- Lines of an L1 and ways of a set (R274); lines of a K-cache (R278). -/
def l1Lines : Nat := 2048
def l1Ways : Nat := 8
def kcacheLines : Nat := 512
/-- First physical address of the host link (R283). -/
def hostBase : Nat := 0xC000000000
/-- HBM4E of a die, and the part at its top that holds metadata (R283). -/
def dieBytes : Nat := 0x3000000000
def metaBytes : Nat := 192 * 1048576
/-- Wet lines that the hawk of a device holds (R281). -/
def hawkLines : Nat := 65536
/-- Places of a seed gatherer (R241). -/
def gathererPlaces : Nat := 4096
/-- Jobs of a core's engine queue, landing slots and slots one job may hold while another waits (R354, R360). -/
def engineQueue : Nat := 32
def landingSlots : Nat := 16
/-- Pipe room of a die in lines: 36 slices of 16,384 (R281). -/
def pipeRoomPerSlice : Nat := 16384
def slicesPerDie : Nat := 36

/-- Free value: the cycles that pass before step n (R16, R31 leave the timing open). -/
opaque freeCycles : Nat → Nat

/-- Free value: the result of a special function that the bounds computed for it do not fix. -/
opaque freeSfu : Nat → BitVec 64

/-- Free value: the set of an L1 in which a line lies; R274 gives the number of sets and not the index. -/
opaque l1Set : Nat → Nat

/-- Free value: the metadata code, one of 0, 1 and 2, of a compressed form of a block; R285 does not give the compressor. -/
opaque compressedCode : List (BitVec 8) → BitVec 2

/-- Free value: whether an access uses a translation held from before the host changed the tables (R294) or a cached descriptor (R464), and whether a workgroup saved in an area that the host has written resumes (R393). -/
opaque useOld : Nat → Bool

/-- Free value: whether a request passes an output whose buffers are full enough to mark it (R337). -/
opaque freeMark : Nat → Bool

/-- Free value: a word of what a workgroup saved in an area that the host has written holds after the restore, or the cause of its fault (R393). -/
opaque freeWord : Nat → BitVec 64

/-- Free value: reading i of the sensors when a raw write to MB_CMD asks for them at step n (R476). -/
opaque sensor : Nat → Nat → BitVec 32

/-- Free value: what the checks of R479 find in a staged image: version, SVN, length, and the two signatures; the spec gives no layout of the header. -/
opaque stagedImage : List (Nat × BitVec 8) → Nat × Nat × Bool × Bool × Bool

/-- Free value: whether the owner token in the window verifies (R489); the spec gives no layout of it. -/
opaque ownerToken : List (Nat × BitVec 8) → Bool

/-- Free value: the bytes, by offset, that a save writes to the save area; R393 leaves their layout to the FJ9. -/
opaque saveImage : Nat → List (Nat × BitVec 8)

end Sys2Proof.Config
end

