-- ==== Sys2Proof/Machine/Map.lean ====
section
/-! DEFINITION. Sparse data by key: a list of keys and words in one canonical form (keys strictly rising, no entry equal to what an unlisted key reads as, which is zero). Memory, registers, tiles and scratchpads are such lists, so equal contents are equal data. -/

namespace Sys2Proof.Machine

/-- Words of width w by a natural number key. -/
abbrev NMap (w : Nat) := List (Nat × BitVec w)

/-- The word at a key; an unlisted key reads as zero. -/
def NMap.get {w : Nat} : NMap w → Nat → BitVec w
  | [], _ => 0#w
  | (a, x) :: r, k => if k < a then 0#w else if k = a then x else NMap.get r k

/-- Drops the entries at keys up to k from the front of a list. -/
def NMap.dropUpTo {w : Nat} (k : Nat) : NMap w → NMap w
  | [] => []
  | (a, x) :: r => if a ≤ k then NMap.dropUpTo k r else (a, x) :: r

/-- The map with the word at k replaced; writing zero removes the entry. -/
def NMap.set {w : Nat} : NMap w → Nat → BitVec w → NMap w
  | [], k, v => if v = 0#w then [] else [(k, v)]
  | (a, x) :: r, k, v =>
    if k < a then (if v = 0#w then (a, x) :: r else (k, v) :: (a, x) :: r)
    else if k = a then (if v = 0#w then NMap.dropUpTo k r else (k, v) :: r)
    else (a, x) :: NMap.set r k v

/-- The canonical form: keys strictly rising from lo on and no zero word. -/
def NMap.wfFrom {w : Nat} : Nat → NMap w → Bool
  | _, [] => true
  | lo, (a, x) :: r => decide (lo ≤ a) && decide (x ≠ 0#w) && NMap.wfFrom (a + 1) r

/-- The canonical form of a map. -/
def NMap.wf {w : Nat} (m : NMap w) : Bool := NMap.wfFrom 0 m

/-- Memory: bytes by address; what an unlisted address reads as is zero, the contents that bring-up leaves (R474, log entry 2). -/
abbrev Memory := NMap 8

/-- The canonical form of memory. -/
abbrev Memory.wf (m : Memory) : Bool := NMap.wf m

/-- The map after a list of writes, first to last. -/
def NMap.setMany {w : Nat} (m : NMap w) : List (Nat × BitVec w) → NMap w
  | [] => m
  | (k, v) :: r => NMap.setMany (NMap.set m k v) r

/-- n consecutive bytes from key k. -/
def NMap.bytes (m : NMap 8) (k n : Nat) : List Byte := (List.range n).map fun i => NMap.get m (k + i)

/-- Consecutive bytes written from key k on. -/
def NMap.setBytes (m : NMap 8) (k : Nat) : List Byte → NMap 8
  | [] => m
  | b :: r => NMap.setBytes (NMap.set m k b) (k + 1) r

/-- The map without the keys from lo up to below hi. -/
def NMap.clear {w : Nat} (m : NMap w) (lo hi : Nat) : NMap w :=
  m.filter fun e => decide (e.1 < lo) || decide (hi ≤ e.1)

/-- A map from a list of words at keys 0, 1, 2 and so on. -/
def NMap.ofList {w : Nat} (xs : List (BitVec w)) : NMap w :=
  NMap.setMany [] ((List.range xs.length).zip xs)

/-- A list with the elements of another at the given position replaced. -/
def setAt {α : Type} : List α → Nat → α → List α
  | [], _, _ => []
  | _ :: r, 0, y => y :: r
  | x :: r, n + 1, y => x :: setAt r n y

/-- The first element that satisfies p, replaced by f of it. -/
def updateFirst {α : Type} (p : α → Bool) (f : α → α) : List α → List α
  | [] => []
  | x :: r => if p x then f x :: r else x :: updateFirst p f r

/-- The list without its first element that satisfies p. -/
def removeFirst {α : Type} (p : α → Bool) : List α → List α
  | [] => []
  | x :: r => if p x then r else x :: removeFirst p r

/-- Elements with their positions. -/
def withIndex {α : Type} (xs : List α) : List (Nat × α) := (List.range xs.length).zip xs

/-- Association lists keyed by a natural number. -/
def alookup {α : Type} (k : Nat) : List (Nat × α) → Option α
  | [] => none
  | (a, x) :: r => if a = k then some x else alookup k r

/-- An association list with the value at k replaced or added at the end. -/
def ainsert {α : Type} (k : Nat) (v : α) : List (Nat × α) → List (Nat × α)
  | [] => [(k, v)]
  | (a, x) :: r => if a = k then (k, v) :: r else (a, x) :: ainsert k v r

/-- An association list without the key k. -/
def aerase {α : Type} (k : Nat) (m : List (Nat × α)) : List (Nat × α) := m.filter fun e => decide (e.1 ≠ k)

end Sys2Proof.Machine
end

