-- ==== Sys2Proof/Machine/State.lean ====
section
/-! DEFINITION. The state of the device as plain data: pods, workgroups, cores, memory and its coherence, the front end, the fabric and Skepin; and the state after reset. -/

namespace Sys2Proof.Machine

/-- Reasons a step could stop the machine. No meaning raises one: traps, waits and faults of a job are next states (R378, R398). -/
inductive Fault
  /-- Raised by no step of this model; safe. -/
  | stuck
deriving DecidableEq, Repr

/-- Reasons a step could be refused. -/
inductive Refusal
  /-- Raised by an arm of exec whose instruction has no meaning yet; safe. -/
  | notModelled (mnemonic : String)
deriving DecidableEq, Repr

/-! ## Messages -/

/-- What the device's own agents send one another, and its timers: rows of the opcode table with their payloads, and the ends of works that wait. Inputs from outside are elements of Instr. -/
inductive Msg
  | sfuComplete (p : PodKey)
  | matrixStepComplete (core : Nat)
  | launch (ring : Fin 256) | pipeline (ring : Fin 256) | cancelCommand (ring : Fin 256)
  | jobEnd (ring : Fin 256) | wait (ring : Fin 256) | waitRecheck (ring : Fin 256)
  | translationInvalidate (ring : Fin 256) | descriptorInvalidate (ring : Fin 256)
  | setResolve (ring : Fin 256)
  | contextCreate | contextEnd | ringConfigure | domain
  | placementDecision | preemptSave (wg : Nat) | balancerInterval (pl : Nat)
  | completionRecord (id : Nat) | unitEnd
  | seedBinTimeout (die launch entry : Nat)
  | pipePushAccept (pl p : Nat) | pipePopAccept (pl p : Nat)
  | pipeDeadlockDeclare (pl : Nat) | pipeDrainSpill (pl : Nat)
  | matrixReset (core : Nat)
  | jobStart (core job : Nat) | landingSlotGrant (core job : Nat) | landing (core job : Nat)
  | memoryWrite (core job : Nat) | jobStatusLand (core job : Nat)
  | pendingBytes (pub line : Nat) | notice (core line : Nat) | noticeAcknowledge (line : Nat)
  | homeReport (pub line : Nat) | commit (pub line : Nat) | commitConfirm (pub line : Nat)
  | fill (r : FillReq) | fillReply (core line : Nat) (data : List Byte) (marked : Bool)
  | guestInvalidation (sector line : Nat)
  | atomicAtHome (r : AtomicReq) | addstLine (r : AddstReq)
  | ticketOperation (r : TicketReq) | ticketServingValue (p : PodKey) (key : Nat) (value : W64)
  | daubAtHome (r : DaubReq)
  | daubCopy (core line : Nat) (seq : W32) (data : List Byte) (sender : PodKey)
  | daubAnswer (sender : PodKey) (line : Nat) (accepted : Bool)
  | discardArrival (job : Option (Nat × Nat)) (lo len : Nat)
  | ownershipGrant (die line pub : Nat) | forwardedFill (r : FillReq)
  | writeBackAck (die line : Nat)
  | recall (die line : Nat) | recalledPart (die line : Nat) (bytes : LineBytes)
  | relayedNotice (die line : Nat)
  | relayedCopy (die line : Nat) (seq : W32) (data : List Byte) (sender : PodKey) (targets : List Nat)
  | ownerBytes (die line : Nat) (bytes : LineBytes)
  | homeServe (line : Nat)
  | atCore (core line : Nat) (m : Msg)
  | writeBack (core line : Nat) (bytes : LineBytes) (bad : List Nat)
  | ringFetch (ring : Fin 256)
  | reductionContribution (c : Contribution) | roundTimeout (die launch group : Nat)
  | reductionDelivery (die launch group : Nat)
  | serve (src : Nat) (seq : Half16) (op : RemoteOp)
  | retransmitTimeout (dst : Fin 512) (seq : Half16)
  | xsendPacket (p : XPacket)
  | wetStoreMessage (k : SetKey) (line : Nat) (bytes : LineBytes)
  | setPrepare (k : SetKey) (count : Nat) | setReady (k : SetKey) (dev : Nat) (ok : Bool)
  | prepareTimeout (k : SetKey) | setCommit (k : SetKey) | commitResend (k : SetKey)
  | setScrape (k : SetKey) | decisionQuery (k : SetKey)
  | bridgeOpenTimeout (pl p : Nat)
  | bridgeTile (peer : Fin 512) (tag : W32) (data : Slot)
  | bridgeCredit (peer : Fin 512) (tag : W32)
  | bridgeClose (peer : Fin 512) (tag : W32)
  | heldBridgeOpenDrop (peer : Fin 512) (tag : W32)
  | hostRead (addr len : Nat)
  | lineWrite (line : Nat) (bytes : LineBytes)
  | xferStep (id : Nat)
  | waitaRecheck (p : PodKey)
  | warmReset
  | p1Exit | idleEntry
deriving DecidableEq, Repr

/-! ## Pods -/

/-- A lane block in the queue: the next word, its q registers, the repetition to resume at, the active lanes of the word from repetition 1 on (R26), and the run of H words just before it (R21, R23, R35, R90). -/
structure Block where
  word : Nat
  q : List W32
  rep : Nat
  act : W32
  hRun : Nat
deriving DecidableEq, Repr

/-- An SFU word in flight: register writes by key and the flags it sets (R162). -/
structure SfuOp where
  vw : List (Nat × W32)
  ow : List (Nat × W32)
  flags : BitVec 10
deriving DecidableEq, Repr

/-- An open coat: entry, live-in sets and snapshot (R385, R388). -/
structure Coat where
  entry : W64
  liveS : W64
  vB : Nat
  vN : Nat
  km : BitVec 16
  allO : Bool
  fsr : BitVec 10
  ten : BitVec 10
  brnd : BitVec 3
  drnd : BitVec 3
deriving DecidableEq, Repr

/-- A status register that waits for a job of the engine or an XSEND (R359, R444): registers of the trap bank are numbered from 64 on; job 0 is a TCOPY word whose job has not formed; landed says that the status stands in the register (R366). -/
structure Pending where
  reg : Nat
  job : Nat
  acq : Scope
  landed : Bool
deriving DecidableEq, Repr

/-- A TCOPY or TCOPYM word issued and not yet part of a formed job (R360). -/
structure TcopyWord where
  m : Bool
  c : TcopyFields
  cm : TcopymFields
  opnd : W64
  card : List Byte
deriving DecidableEq, Repr

/-- A resolved access: byte key, leaf and its level. -/
structure Loc where
  key : Nat
  leaf : W64
  level : Nat
deriving DecidableEq, Repr

/-- Progress of the word that a stream holds at issue: steps done, publication awaited, requests without reply, replies by lane (R301, R309); snap, start, last and key are what a wait compares with, locs the places of its accesses once its checks are passed (R114, R184). -/
structure Txn where
  phase : Nat
  pub : Option Nat
  outstanding : Nat
  replies : List (Nat × W64)
  snap : List Byte
  start : W64
  last : W64
  key : Nat
  locs : List (W64 × Loc)
deriving DecidableEq, Repr

def Txn.empty : Txn :=
  { phase := 0, pub := none, outstanding := 0, replies := [], snap := [], start := 0, last := 0, key := 0, locs := [] }

/-- Why a pod's S-stream is held: for an earlier access, or for a condition (R388), or in a pipe word (R239). -/
inductive Hold | none | plain | cond | pushFull (p : Nat) | popEmpty (p : Nat)
deriving DecidableEq, Repr

/-- A pod (R8, R13 and the state of R378, R385). lFe says that the lane stream is held by a full-empty bit (R186). Register files are keyed by register, lane files by register x 32 + lane. -/
structure Pod where
  key : PodKey
  live : Bool
  exited : Bool
  halted : Bool
  s : NMap 64
  k : NMap 32
  liveMask : W32
  v : NMap 32
  o : NMap 32
  b : NMap 64
  bankS : NMap 64
  bankV : NMap 32
  shadow : NMap 64
  pc : W64
  fsr : BitVec 10
  ten : BitVec 10
  brnd : BitVec 3
  drnd : BitVec 3
  tcause : BitVec 8
  tspc : W64
  tlpc : W64
  tmask : W32
  taddr : W64
  queue : List Block
  inHandler : Bool
  trapLane : Bool
  trapLen : Nat
  trapRep : Nat
  tlpcEntry : W64
  setAside : List Block
  spanTrap : Bool
  sfu : List SfuOp
  coat : Option Coat
  count : Nat
  pending : List Pending
  tcopies : List TcopyWord
  daubOut : Nat
  daubAcc : BitVec 12
  daubRef : BitVec 12
  sTxn : Txn
  lTxn : Txn
  held : Hold
  lHeld : Bool
  lFe : Bool
  stopReq : Bool
  /-- its unit is being ended: the pod stops at its next word boundary (R222, R398); dead: it has stopped -/
  dying : Bool
  dead : Bool
  /-- cycles in which the pod was resident, blocked and starved in this balancer interval (R239) -/
  residentC : Nat
  blockedC : Nat
  starvedC : Nat
  /-- the cycle of its last turn (R234) -/
  turnAt : W64
deriving DecidableEq, Repr

/-- No pod: every register as R9 gives it, no coat. -/
def Pod.empty : Pod :=
  { key := ⟨0, 0⟩, live := false, exited := false, halted := false,
    s := [], k := [], liveMask := 0, v := [], o := [], b := [], bankS := [], bankV := [], shadow := [],
    pc := 0, fsr := 0, ten := 0, brnd := 0, drnd := 0, tcause := 0, tspc := 0, tlpc := 0, tmask := 0, taddr := 0,
    queue := [], inHandler := false, trapLane := false, trapLen := 4, trapRep := 0, tlpcEntry := 0, setAside := [],
    spanTrap := false, sfu := [], coat := none, count := 0, pending := [], tcopies := [],
    daubOut := 0, daubAcc := 0, daubRef := 0, sTxn := Txn.empty, lTxn := Txn.empty, held := .none, lHeld := false, lFe := false,
    stopReq := false, dying := false, dead := false, residentC := 0, blockedC := 0, starvedC := 0, turnAt := 0 }

/-! ## Workgroups -/

/-- A layout entry that is valid (R137). -/
structure LayEntry where
  base : W64
  ctl : W64
  ext : List W32
  stride : List W32
  scale : W64
deriving DecidableEq, Repr

/-- An algebra slot (R202): tab by 8i + j. -/
structure AlgTable where
  dim : Nat
  conj : Byte
  tab : NMap 8
deriving DecidableEq, Repr

/-- The table of the real numbers (R202). -/
def AlgTable.real : AlgTable := { dim := 1, conj := 0, tab := [(0, 8#8)] }

/-- A journaled accumulator tile (R391), with the marks of its sectors (R404). -/
structure JEntry where
  acc : Nat
  cells : List W32
  pod : Nat
  bad : List Nat
deriving DecidableEq, Repr

/-- Grants of a kernel descriptor (R223), in registers, bytes and counts. -/
structure Grants where
  pods : Nat
  regs : Nat
  scratch : Nat
  tiles : Nat
  accs : Nat
  lays : Nat
  algs : Nat
deriving DecidableEq, Repr

def Grants.none : Grants := { pods := 0, regs := 0, scratch := 0, tiles := 0, accs := 0, lays := 0, algs := 0 }

inductive RegionKind | unused | read | write | tile
deriving DecidableEq, Repr

/-- A region descriptor of a job card (R356). -/
structure Region where
  kind : RegionKind
  entry : Nat
  org : List Int
  raw : List Byte
deriving DecidableEq, Repr

inductive JobKind | copy | copym | flush | inval | disc
deriving DecidableEq, Repr

/-- An engine job (R353, R356, R370): regs are the status registers of its pods, lays the layout entries as the job formed, done the elements moved of transfer tr, snap the bytes of the core's L1 that were dirty when a flush issued (R371). -/
structure Job where
  id : Nat
  serial : Nat
  wg : Nat
  kind : JobKind
  regs : List (PodKey × Nat)
  regions : List Region
  lays : List (Nat × LayEntry)
  scope : Scope
  bar : Option Nat
  bytesArr : Bool
  lo : Nat
  len : Nat
  step : TcopymFields
  dims : W64
  started : Bool
  slots : Nat
  asked : Bool
  tr : Nat
  done : Nat
  landed : Nat
  flags : BitVec 5
  stepSent : Bool
  pub : Option Nat
  fault : Option (Cause × Nat)
  ctx : Nat
  snap : List (Nat × List Nat)
deriving DecidableEq, Repr

/-- A workgroup (R17, R226): resident on its core, or saved by a pre-emption (R394). objects are the offsets that its barrier words and engine arrivals have named (R250, log entry 13). -/
structure Wg where
  id : Nat
  resident : Bool
  core : Nat
  launch : Nat
  ctx : Nat
  x : W32
  y : W32
  z : W32
  seedPod : Bool
  grant : Grants
  order : Nat
  base : Nat
  tile : NMap 8
  acc : NMap 32
  lay : List (Nat × LayEntry)
  alg : List (Nat × AlgTable)
  scratch : NMap 8
  fe : NMap 1
  scratchPoison : NMap 1
  tilePoison : NMap 1
  accPoison : NMap 1
  arrived : List Nat
  objects : List Nat
  journal : List JEntry
  stopReq : Bool
  /-- its save has begun and waits for its publication (R393) -/
  saving : Bool
  savePub : Option Nat
  yielded : Bool
  savedJobs : List Job
  tainted : Bool
deriving DecidableEq, Repr

def Wg.empty : Wg :=
  { id := 0, resident := false, core := 0, launch := 0, ctx := 0, x := 0, y := 0, z := 0, seedPod := false, grant := Grants.none,
    order := 0, base := 0, tile := [], acc := [], lay := [], alg := [], scratch := [], fe := [], scratchPoison := [],
    tilePoison := [], accPoison := [], arrived := [], objects := [], journal := [], stopReq := false, saving := false, savePub := none, yielded := false, savedJobs := [], tainted := false }

/-! ## Cores -/

/-- A line of an L1: its valid bytes, and for each dirty byte the job that wrote it (R274, R275). -/
structure L1Line where
  line : Nat
  tracked : Bool
  bytes : LineBytes
  dirty : List (Nat × Nat)
deriving DecidableEq, Repr

/-- A byte of a stash line with the job that wrote it (R275). -/
structure StashByte where
  off : Nat
  val : Byte
  job : Nat
deriving DecidableEq, Repr

/-- A stash line of a core: slice is the slice on the core's device that holds it (R275, R276). -/
structure StashLine where
  line : Nat
  slice : Nat
  bytes : List StashByte
deriving DecidableEq, Repr

/-- An entry of the arrival shelf: a notice, or a daub copy with its sequence number (R304). -/
structure ShelfEntry where
  line : Nat
  copy : Option (W32 × List Byte)
deriving DecidableEq, Repr

/-- A fill in flight, whether a notice has overtaken it, and the loads that wait for it (R347); served holds the line image that an overtaken fill has brought them. -/
structure FillState where
  line : Nat
  tracked : Bool
  overtaken : Bool
  waiters : List (PodKey × Stream)
  served : Option (List Byte)
deriving DecidableEq, Repr

inductive MKind | mma | mmaw | mmag
deriving DecidableEq, Repr

/-- A step that the matrix array has accepted: operands as they stood then (R200, R216). -/
structure MStep where
  wg : Nat
  pod : Option PodKey
  job : Option Nat
  kind : MKind
  f : MmaFields
  dims : W64
  tiles : NMap 8
  alg : AlgTable
deriving DecidableEq, Repr

/-- The operand latch of .ka (R199). -/
structure KaLatch where
  wg : Nat
  tile : Nat
  view : Bool
  fmt : Fmt
deriving DecidableEq, Repr

/-- A leaf that a TLB holds (R292). -/
structure TlbEntry where
  ctx : Nat
  level : Nat
  page : Nat
  leaf : W64
deriving DecidableEq, Repr

/-- A sending window that has changed since reset (R337): its size, the cycle of its last halving, unmarked responses since its last change. -/
structure Window where
  sector : Nat
  size : Nat
  halved : Option W64
  clear : Nat
deriving DecidableEq, Repr

/-- A core (R226, R232, R274 to R278, R304, R336, R354). l1 is held most recently used first; slotQueue are the jobs that wait for a landing slot, in the order of their requests. -/
structure Core where
  n : Nat
  ctx : Option Nat
  l1 : List L1Line
  l1Poison : NMap 1
  stash : List StashLine
  stashPoison : NMap 1
  kcache : List (Nat × List Byte)
  shelf : List ShelfEntry
  fills : List FillState
  windows : List Window
  steps : List MStep
  stepSince : W64
  ka : Option KaLatch
  jobs : List Job
  serial : Nat
  slotQueue : List Nat
  tlb : List TlbEntry
deriving DecidableEq, Repr

/-- A core after reset (R473); a window that is not listed is 64 (R337). -/
def Core.fresh (n : Nat) : Core :=
  { n := n, ctx := none, l1 := [], l1Poison := [], stash := [], stashPoison := [], kcache := [], shelf := [], fills := [], windows := [], steps := [],
    stepSince := 0, ka := none, jobs := [], serial := 0, slotQueue := [], tlb := [] }

/-! ## Home slices, proxies and publications -/

/-- The operation in progress at a home (R348). -/
inductive HomeOp | idle | pending (pub : Nat) | reported (pub : Nat) | notifying
deriving DecidableEq, Repr

/-- Cross-die state of a line (R414). -/
inductive Dir | home | owned (d : Nat) | priv | recalling | wbWait (d : Nat)
deriving DecidableEq, Repr

/-- What a home slice keeps of a line beside its value (R348, R414): clusters and sectors are numbered over the device. die and cmp are what the line's page says (R284, R285); spare are the cores that the operation in progress sends no notice, answers what named cores have answered to its daub (R349). -/
structure HomeLine where
  line : Nat
  die : Nat
  cmp : Bool
  op : HomeOp
  spare : List Nat
  answers : List (PodKey × Bool)
  pend : LineBytes
  acks : Nat
  waiting : List Msg
  clusters : List Nat
  after : List Nat
  guests : List Nat
  daubSeq : W32
  dies : List Nat
  dir : Dir
  masks : List (Nat × List Nat)
  parts : Nat
  /-- pods that wait for a dispenser of the line: pod, dispenser, ticket; those of other devices with their device (R257) -/
  sleepers : List (PodKey × Nat × W64)
  farSleepers : List (Nat × PodKey × Nat × W64)
deriving DecidableEq, Repr

def HomeLine.fresh (line die : Nat) : HomeLine :=
  { line := line, die := die, cmp := false, op := .idle, spare := [], answers := [], pend := [], acks := 0, waiting := [], clusters := [], after := [], guests := [],
    daubSeq := 0, dies := [], dir := .home, masks := [], parts := 0, sleepers := [], farSleepers := [] }

inductive ProxyKind | copy | owned | priv | hold
deriving DecidableEq, Repr

/-- What a proxy slice holds of a line (R412): the bytes it acts as home for, its copy, or the bytes of a write-back that the home has not acknowledged; waiting are its die's requests meanwhile (R416). -/
structure Proxy where
  line : Nat
  die : Nat
  kind : ProxyKind
  bytes : LineBytes
  waiting : List Msg
deriving DecidableEq, Repr

/-- A guest copy (R280): the clusters of its sector that it served. -/
structure Guest where
  line : Nat
  sector : Nat
  data : List Byte
  clusters : List Nat
deriving DecidableEq, Repr

/-- Progress of one line of a publication (R301). -/
inductive PubStage | sending | pending | reported | committing
deriving DecidableEq, Repr

/-- One line of a publication: bytes as they stood at its start with the marks of their sectors (R404), and those not stored again since, which it marks clean. -/
structure PubPart where
  line : Nat
  bytes : LineBytes
  bad : List Nat
  clean : List Nat
  stage : PubStage
deriving DecidableEq, Repr

/-- A publication under way (R301). -/
structure Publication where
  id : Nat
  core : Nat
  parts : List PubPart
deriving DecidableEq, Repr

/-- A round of a reduction (R340): cores that have sent, and contributions in the order of their arrival. -/
structure Round where
  die : Nat
  launch : Nat
  group : Nat
  start : W64
  sent : List Nat
  arrived : List Contribution
deriving DecidableEq, Repr

/-- The result of a round on its way to its target (R342); a chosen workgroup that is saved makes it wait. -/
structure Delivery where
  die : Nat
  launch : Nat
  group : Nat
  core : Nat
  offset : Nat
  bytes : List Byte
  wg : Option Nat
deriving DecidableEq, Repr

/-! ## Front end -/

/-- A command ring (R461, R463). busy holds back the next command (R230); entry is the command that it has read; waiting is a Wait command's address, value and last read. -/
structure Ring where
  n : Nat
  conf : Bool
  base : Nat
  headAddr : Nat
  k : Nat
  q : Half16
  cls : Nat
  ctx : Nat
  tail : W32
  head : W32
  state : Nat
  busy : Bool
  entry : List Byte
  waiting : Option (Nat × W64 × W64)
  waitLogged : Bool
  msixPending : Bool
deriving DecidableEq, Repr

/-- The BAR0 registers of ring 0 (R463). -/
structure Adm where
  en : Bool
  k : BitVec 5
  q : Half16
  base : W64
  head : W64
deriving DecidableEq, Repr

/-- A context (R219, R465). -/
structure Ctx where
  n : Nat
  domain : Nat
  table : Nat
  save : Nat
  ending : Option (Nat × Nat × Bool)
deriving DecidableEq, Repr

/-- A job (R219): members started, counted, and what its Job end command named. -/
structure HostJob where
  serial : Nat
  ctx : Nat
  id : W32
  isOpen : Bool
  record : Nat
  ring : Nat
  msix : Bool
  members : Nat
  counted : Nat
  ended : Bool
  cancelled : Bool
  faulted : Option Cause
deriving DecidableEq, Repr

/-- A kernel descriptor (R223). -/
structure Desc where
  entry : W64
  lbase : W64
  handler : W64
  grant : Grants
  cls : Nat
  ten : BitVec 10
  brnd : BitVec 3
  drnd : BitVec 3
  seedmask : BitVec 16
  seedOff : List W32
deriving DecidableEq, Repr

def Desc.zero : Desc :=
  { entry := 0, lbase := 0, handler := 0, grant := Grants.none, cls := 0, ten := 0, brnd := 0, drnd := 0, seedmask := 0, seedOff := [] }

/-- A completion record on its way (R220): what it says, the job in which its unit is counted (none for the record of a job itself), and what a release of sys scope still waits for: publications, writes to other devices, writes to the host. -/
structure CompletionRecord where
  id : Nat
  ctx : Nat
  ring : Nat
  op : Nat
  addr : Nat
  st : W32
  count : Nat
  msix : Bool
  member : Option Nat
  pubs : List Nat
  writes : List (Nat × Half16)
  host : Nat
deriving DecidableEq, Repr

/-- Units that a cancellation or a fault is ending, until their pods stand at a word boundary (R222, R398): launches, stages among them, pipelines, the job if it is one, and the status. -/
structure Ending where
  launches : List Nat
  pls : List Nat
  job : Option Nat
  st : W32
deriving DecidableEq, Repr

/-- A launch, or a stage of a pipeline (R219, R225, R238). next is the next grid workgroup, count the completion counter; ending says that a cancellation or a fault is ending it. -/
structure Launch where
  id : Nat
  ctx : Nat
  ring : Nat
  job : Nat
  d : Desc
  cls : Nat
  args : W64
  gx : Nat
  gy : Nat
  gz : Nat
  dies : List Nat
  whole : Bool
  next : Nat
  count : Nat
  record : Nat
  msix : Bool
  pipeline : Option (Nat × Nat)
  ending : Bool
  done : Bool
  seedSerial : List (Nat × Nat)
  wetGroups : List (Nat × Nat)
deriving DecidableEq, Repr

/-- A stage of a pipeline (R235): cores in the order they were granted; past are the pod-cycles in this interval, all, blocked and starved, of workgroups that have left it (R239). -/
structure Stage where
  launch : Nat
  min : Nat
  initial : Nat
  max : Nat
  wpc : Nat
  cores : List Nat
  finishing : Bool
  done : Bool
  share : Nat
  past : Nat × Nat × Nat
deriving DecidableEq, Repr

/-- A bridge of a pipe (R456 to R458). -/
structure Bridge where
  side : BridgeEnd
  peer : Nat
  tag : Nat
  isOpen : Bool
  since : W64
  credits : Nat
  closed : Bool
deriving DecidableEq, Repr

/-- A pipe (R235, R258, R262). pushers and poppers wait in the order in which they reached the home; spilled counts the tiles in the spill queue, spills all since admission. -/
structure Pipe where
  producer : Nat
  consumer : Nat
  fmt : Nat
  rows : Nat
  cols : Nat
  depth : Nat
  home : Nat
  spill : Option Nat
  slots : List Slot
  closed : Bool
  spilled : Nat
  spills : Nat
  pushers : List PodKey
  poppers : List PodKey
  bridge : Option Bridge
deriving DecidableEq, Repr

inductive PlState | waiting | running | draining | preempted | done
deriving DecidableEq, Repr

/-- A pipeline (R219, R235 to R240, R400). -/
structure Pipeline where
  id : Nat
  ctx : Nat
  ring : Nat
  job : Nat
  cls : Nat
  balancer : Bool
  stages : List Stage
  pipes : List Pipe
  record : Nat
  msix : Bool
  state : PlState
  ending : Bool
  admitted : W64
  interval : W64
  quiet : W64
  move : Option (Nat × Nat × Nat)
  count : Nat
  pushWait : List Nat
deriving DecidableEq, Repr

/-- A seed record in a gatherer (R241, R242). -/
structure SeedRec where
  die : Nat
  launch : Nat
  entry : Nat
  words : List W32
  arrived : W64
deriving DecidableEq, Repr

/-- A seed pod formed and not yet placed (R243). -/
structure SeedPod where
  die : Nat
  launch : Nat
  entry : Nat
  serial : Nat
  recs : List (List W32)
deriving DecidableEq, Repr

/-! ## Fabric -/

/-- Who waits for an answer from another device. -/
inductive Waiter
  | none
  | fill (core line : Nat)
  | kfill (core line : Nat)
  | pod (p : PodKey) (st : Stream) (lane : Nat)
  | pods (p : PodKey) (st : Stream) (lanes : List Nat)
  | write (core job : Nat)
  | daub (r : DaubReq)
  | xsend (id : Nat)
  | waita (p : PodKey)
  | ticket (id : Nat)
  | set (k : SetKey)
  | bridge (pl p : Nat)
deriving DecidableEq, Repr

/-- A request not yet acknowledged (R434): the plane that it last left on (R431) and its attempts; with none it waits for room (R433). -/
structure Request where
  seq : Half16
  op : RemoteOp
  who : Waiter
  sent : W64
  tries : Nat
  plane : Nat
deriving DecidableEq, Repr

/-- The state of a pair of devices (R431, R433 to R436). up has one bit for each plane. -/
structure Peer where
  dev : Nat
  next : Half16
  expect : Half16
  out : List Request
  early : List (Half16 × RemoteOp)
  replay : List (Half16 × List Byte)
  up : BitVec 16
  unreachable : Bool
  logged : Bool
deriving DecidableEq, Repr

def Peer.fresh (d : Nat) : Peer :=
  { dev := d, next := 0, expect := 0, out := [], early := [], replay := [], up := BitVec.allOnes 16, unreachable := false, logged := false }

inductive XStage | ticket | wait | send
deriving DecidableEq, Repr

/-- A transfer of XSEND (R445 to R447); ticket is the incast ticket that it holds, dev the destination device once its first page has been reached. -/
structure Xfer where
  id : Nat
  pod : PodKey
  reg : Nat
  ctx : Nat
  core : Nat
  launch : Nat
  src : Nat
  dst : Nat
  len : Nat
  dev : Nat
  sent : Nat
  stage : XStage
  ticket : Option W64
  dcore : Nat
  counter : Nat
  dropped : Bool
deriving DecidableEq, Repr

/-- An arrival count that waits for its workgroup to be resident again (R445); src and seq name the request that it answers, core its core. -/
structure LateCount where
  wg : Nat
  offset : Nat
  add : W64
  src : Nat
  seq : Half16
  core : Nat
deriving DecidableEq, Repr

/-- The current epoch of a set group and the messages sent in it (R451). -/
structure Group where
  ctx : Nat
  group : Nat
  epoch : Half16
  counts : List (Nat × Nat)
  /-- a message of the epoch could not reach its device: its set is scraped (R435) -/
  lost : Bool
deriving DecidableEq, Repr

inductive SetStage | preparing | committing | scraping
deriving DecidableEq, Repr

/-- A SET or SCRAPE under way at its source (R452): devices of the epoch, those that answered, and who waits for the status. -/
structure SetOp where
  key : SetKey
  devs : List Nat
  answered : List Nat
  stage : SetStage
  start : W64
  sent : W64
  who : Option PodKey
  scraper : Bool
  status : W32
  left : Nat
deriving DecidableEq, Repr

/-- A wet line in the hawk (R450), with the marks of its sectors (R404). -/
structure WetLine where
  key : SetKey
  line : Nat
  bytes : LineBytes
  bad : List Nat
deriving DecidableEq, Repr

/-- What a device holds of a set of another device: messages received, refusal, prepared since (R450, R452, R454). -/
structure HawkSet where
  key : SetKey
  got : Nat
  refused : Bool
  asked : Option Nat
  prepared : Option W64
  pub : Option Nat
deriving DecidableEq, Repr

/-- A bridge-open message that matches no bridge yet (R458). -/
structure HeldOpen where
  peer : Nat
  tag : Nat
  e : BridgeEnd
  names : Nat
  since : W64
deriving DecidableEq, Repr

/-! ## Skepin -/

/-- An entry of the event log (R477). -/
structure LogEntry where
  time : W64
  serial : W32
  code : Nat
  ctx : Nat
  detail : List W32
deriving DecidableEq, Repr

inductive Sec | factory | sealed | ownerOpen
deriving DecidableEq, Repr

inductive Dbg | none | halt | trace
deriving DecidableEq, Repr

inductive Pwr | p0 | p1 | idle | off
deriving DecidableEq, Repr

/-- Skepin (R473 to R489). failed says that bring-up stopped (R474); fuse, version, svn, trip and decisions are held in flash and fuses. -/
structure Skepin where
  stage : Nat
  ready : Bool
  recovery : Bool
  failed : Bool
  go : Bool
  arg : Byte
  op : Byte
  result : Byte
  sec : Sec
  dbg : Dbg
  pwr : Pwr
  window : NMap 8
  log : List LogEntry
  serial : W32
  trip : Option LogEntry
  decisions : List LogEntry
  version : Nat
  svn : Nat
  fuse : Nat
  verified : Bool
  staged : NMap 8
  imageOk : Bool
  causes : List P1Cause
  p1Since : W64
  idleOk : Bool
  idleSince : W64
  counts : List W32
  readings : List W32
  ide : Bool
  spdm : Nat
deriving DecidableEq, Repr

/-- Skepin when power is applied: R475's reset column, counts at 0, Idle allowed by no command. -/
def Skepin.reset : Skepin :=
  { stage := 0, ready := false, recovery := false, failed := false, go := false, arg := 0, op := 0, result := 0, sec := .factory, dbg := .none, pwr := .p0,
    window := [], log := [], serial := 0, trip := none, decisions := [], version := 0, svn := 0, fuse := 0, verified := false,
    staged := [], imageOk := true, causes := [], p1Since := 0, idleOk := false, idleSince := 0, counts := [], readings := [],
    ide := false, spdm := 0 }

/-- What the device sends to the world outside it. -/
inductive Out
  | msix (ring : Nat)
  | request (dst : Nat) (seq : Half16) (op : RemoteOp) (plane : Nat)
  | answer (dst : Nat) (seq : Half16) (data : List Byte)
  | announce (dst : Nat)
  | hostWrite (line : Nat)
  | hostData (addr : Nat) (bytes : List Byte)
  | spdm (r : SpdmReq)
  | debug (p : PodKey) (x : W64)
deriving DecidableEq, Repr

/-- Whose step comes next: the world outside, the device's other agents, or the pods. -/
inductive Turn | inputs | agents | pods
deriving DecidableEq, Repr

/-- The state of the device. pod, wg and core are the pod whose word runs, its workgroup and its core; pods, wgs and cores are the others. agenda holds the inputs to come, inflight the messages between the device's agents, turns the pods that a message has let go on; turn says who goes next, classTurn which class of messages (R334, log entry 4). -/
structure State where
  pod : Pod
  wg : Wg
  core : Core
  pods : List Pod
  wgs : List Wg
  cores : List Core
  cycle : W64
  freeCount : Nat
  agenda : List Instr
  inflight : List Msg
  turns : List (PodKey × Stream)
  turn : Turn
  classTurn : Nat
  mem : NMap 8
  hbm : NMap 8
  hmeta : NMap 4
  wbQueue : List (Nat × LineBytes)
  poison : NMap 1
  homes : List HomeLine
  proxies : List Proxy
  guests : List Guest
  clusterTlb : List (Nat × TlbEntry)
  pubs : List Publication
  rounds : List Round
  deliveries : List Delivery
  seeds : List SeedRec
  seedPods : List SeedPod
  hostPending : Nat
  rings : List Ring
  adm : Adm
  ctxs : List Ctx
  jobs : List HostJob
  launches : List Launch
  pipelines : List Pipeline
  records : List CompletionRecord
  endings : List Ending
  descCache : List (Nat × Nat × List Byte)
  nextLaunch : Nat
  nextId : Nat
  served : List (Nat × Nat)
  dev : Nat
  hasDev : Bool
  dispenser : Nat
  incast : List (Nat × W64)
  peers : List Peer
  xfers : List Xfer
  late : List LateCount
  groups : List Group
  sets : List SetOp
  wet : List WetLine
  hawk : List HawkSet
  heldOpens : List HeldOpen
  skepin : Skepin
  outbox : List Out
deriving DecidableEq, Repr

/-- The device right after power is applied (R473): nothing is resident, memory is all zero (R474), bring-up is at stage 0. -/
def State.reset : State :=
  { pod := Pod.empty, wg := Wg.empty, core := Core.fresh 0, pods := [], wgs := [], cores := [],
    cycle := 0, freeCount := 0, agenda := [], inflight := [], turns := [], turn := .inputs, classTurn := 0,
    mem := [], hbm := [], hmeta := [], wbQueue := [], poison := [], homes := [], proxies := [], guests := [], clusterTlb := [], pubs := [],
    rounds := [], deliveries := [], seeds := [], seedPods := [], hostPending := 0,
    rings := [], adm := { en := false, k := 0, q := 0, base := 0, head := 0 },
    ctxs := [], jobs := [], launches := [], pipelines := [], records := [], endings := [], descCache := [], nextLaunch := 0, nextId := 1, served := [],
    dev := 0, hasDev := false, dispenser := 0, incast := [], peers := [], xfers := [], late := [], groups := [], sets := [], wet := [],
    hawk := [], heldOpens := [], skepin := Skepin.reset, outbox := [] }

end Sys2Proof.Machine
end

