-- ==== Sys2Proof/Machine/Focus.lean ====
section
/-! DEFINITION. Finding and changing pods, workgroups, cores and other records of the state by their names; which of them is in focus. -/

namespace Sys2Proof.Machine

/-- Next state. -/
abbrev Res := Host.Outcome State Fault Refusal

/-- Every meaning ends here: traps, waits and faults of a job are next states (R378, R398). -/
abbrev ok (s : State) : Res := .next s

def State.setPod (s : State) (p : Pod) : State := { s with pod := p }
def State.setWg (s : State) (w : Wg) : State := { s with wg := w }
def State.setCore (s : State) (c : Core) : State := { s with core := c }

def State.allPods (s : State) : List Pod := if s.pod.live then s.pod :: s.pods else s.pods
def State.allWgs (s : State) : List Wg := if s.wg.id = 0 then s.wgs else s.wg :: s.wgs
def State.allCores (s : State) : List Core := s.core :: s.cores

def State.podBy (s : State) (k : PodKey) : Option Pod := s.allPods.find? (fun p => p.key == k)
def State.wgBy (s : State) (id : Nat) : Option Wg := s.allWgs.find? (fun w => w.id == id)

/-- Core n; one that nothing has touched is as reset left it. -/
def State.coreBy (s : State) (n : Nat) : Core :=
  if s.core.n = n then s.core else (s.cores.find? (fun c => c.n == n)).getD (Core.fresh n)

def State.mapPod (s : State) (k : PodKey) (f : Pod → Pod) : State :=
  if s.pod.live && s.pod.key == k then { s with pod := f s.pod }
  else { s with pods := updateFirst (fun p => p.key == k) f s.pods }

def State.mapPods (s : State) (f : Pod → Pod) : State :=
  { s with pod := if s.pod.live then f s.pod else s.pod, pods := s.pods.map f }

def State.mapWg (s : State) (id : Nat) (f : Wg → Wg) : State :=
  if s.wg.id = id then { s with wg := f s.wg } else { s with wgs := updateFirst (fun w => w.id == id) f s.wgs }

def State.mapCore (s : State) (n : Nat) (f : Core → Core) : State :=
  if s.core.n = n then { s with core := f s.core }
  else if s.cores.any (fun c => c.n == n) then { s with cores := updateFirst (fun c => c.n == n) f s.cores }
  else { s with cores := s.cores ++ [f (Core.fresh n)] }

def State.mapCores (s : State) (f : Core → Core) : State := { s with core := f s.core, cores := s.cores.map f }

/-- Brings a core into focus. -/
def State.focusCore (s : State) (n : Nat) : State :=
  if s.core.n = n then s
  else { s with core := s.coreBy n, cores := removeFirst (fun c => c.n == n) s.cores ++ [s.core] }

/-- Brings a workgroup and its core into focus. -/
def State.focusWg (s : State) (id : Nat) : State :=
  if s.wg.id = id then s.focusCore s.wg.core
  else match s.wgs.find? (fun w => w.id == id) with
    | none => s
    | some w =>
      State.focusCore { s with wg := w, wgs := removeFirst (fun w => w.id == id) s.wgs ++ (if s.wg.id = 0 then [] else [s.wg]) } w.core

/-- Brings a pod, its workgroup and its core into focus. -/
def State.focusOn (s : State) (k : PodKey) : State :=
  if s.pod.live && s.pod.key == k then s.focusWg k.wg
  else match s.pods.find? (fun p => p.key == k) with
    | none => s
    | some p =>
      State.focusWg { s with pod := p, pods := removeFirst (fun p => p.key == k) s.pods ++ (if s.pod.live then [s.pod] else []) } k.wg

/-- Applies a step of another pod with that pod in focus, and brings the pod that was in focus back. -/
def State.onPod (s : State) (k : PodKey) (f : State → State) : State :=
  match s.podBy k with
  | none => s
  | some _ => (f (s.focusOn k)).focusOn s.pod.key

/-- Puts a message or a timer of the machine's own agents behind those in flight. -/
def State.send (s : State) (i : Msg) : State := { s with inflight := s.inflight ++ [i] }
def State.sendAll (s : State) (is : List Msg) : State := { s with inflight := s.inflight ++ is }

def State.out (s : State) (o : Out) : State := { s with outbox := s.outbox ++ [o] }

/-- A fresh number for jobs, publications, workgroups and transfers. -/
def State.fresh (s : State) : Nat × State := (s.nextId, { s with nextId := s.nextId + 1 })

/-- The number of the next free value (the counter advances). -/
def State.free (s : State) : Nat × State := (s.freeCount, { s with freeCount := s.freeCount + 1 })

def State.launchBy (s : State) (id : Nat) : Option Launch := s.launches.find? (fun l => l.id == id)
def State.mapLaunch (s : State) (id : Nat) (f : Launch → Launch) : State :=
  { s with launches := updateFirst (fun l => l.id == id) f s.launches }
def State.plBy (s : State) (id : Nat) : Option Pipeline := s.pipelines.find? (fun l => l.id == id)
def State.mapPl (s : State) (id : Nat) (f : Pipeline → Pipeline) : State :=
  { s with pipelines := updateFirst (fun l => l.id == id) f s.pipelines }
def State.ringBy (s : State) (n : Nat) : Option Ring := s.rings.find? (fun r => r.n == n)
def State.mapRing (s : State) (n : Nat) (f : Ring → Ring) : State :=
  { s with rings := updateFirst (fun r => r.n == n) f s.rings }
def State.ctxBy (s : State) (n : Nat) : Option Ctx := s.ctxs.find? (fun c => c.n == n)
def State.hostJobBy (s : State) (serial : Nat) : Option HostJob := s.jobs.find? (fun j => j.serial == serial)
def State.mapHostJob (s : State) (serial : Nat) (f : HostJob → HostJob) : State :=
  { s with jobs := updateFirst (fun j => j.serial == serial) f s.jobs }

/-- The launch of the pod in focus. -/
def State.curLaunch (s : State) : Option Launch := s.launchBy s.wg.launch

/-- Its kernel descriptor. -/
def State.desc (s : State) : Desc := match s.curLaunch with
  | some l => l.d
  | none => Desc.zero

/-- The job of the pod in focus, by serial number. -/
def State.curJob (s : State) : Nat := match s.curLaunch with
  | some l => l.job
  | none => 0

/-- Die, cluster and sector of a core (R13, R327). -/
def dieOf (core : Nat) : Nat := core / Config.coresPerDie
def clusterOf (core : Nat) : Nat := core / 4
def sectorOf (core : Nat) : Nat := core / 24

/-- A new entry of the event log (R477): the oldest is overwritten when it is full. -/
def State.log (s : State) (code ctx : Nat) (detail : List Nat) : State :=
  let e : LogEntry :=
    { time := s.cycle, serial := s.skepin.serial, code := code, ctx := ctx, detail := detail.map (BitVec.ofNat 32) }
  { s with skepin := { s.skepin with
      log := (if s.skepin.log.length < 4096 then s.skepin.log else s.skepin.log.drop 1) ++ [e]
      serial := s.skepin.serial + 1 } }

/-- The context field of a log entry that concerns no context. -/
def noCtx : Nat := 0xFFFF

/-- Cycles since a moment. -/
def State.since (s : State) (t : W64) : Nat := (s.cycle - t).toNat

end Sys2Proof.Machine
end

