-- ==== Sys2Proof/Machine/Home.lean ====
section
/-! DEFINITION. Memory at its homes: line keys, the committed value, translation (R288 to R294), notices, publications and their steps at the home (R301 to R306, R349, R415 to R421). -/

namespace Sys2Proof.Machine

/-! ## Line keys -/

/-- Lines of one physical address space (R283: 52 bits). -/
def spaceLines : Nat := 2 ^ 45
/-- Bytes of one physical address space. -/
def spaceBytes : Nat := 2 ^ 52

/-- The key of a byte of device dev; own device and host bytes are keyed by physical address. -/
def byteKey (own dev phys : Nat) : Nat := if dev = own then phys else (dev + 1) * spaceBytes + phys

def lineRemote (line : Nat) : Bool := decide (spaceLines ≤ line)
def lineDev (line : Nat) : Nat := line / spaceLines - 1
def lineHost (line : Nat) : Bool := decide (Config.hostBase / 128 ≤ line) && !lineRemote line
/-- Homed on the host or on another device (R303). -/
def lineFar (line : Nat) : Bool := lineHost line || lineRemote line

/-- The home slice of a line within its die (R279). -/
def homeSlice (line : Nat) : Nat :=
  (Nat.xor (Nat.xor (line % 32768) (line / 32768 % 32768)) (line / 1073741824 % 32768)) % 36

/-- The die whose HBM4E range holds an address (R283, R290). -/
def dieOfPhys (a : Nat) : Nat := a / Config.dieBytes % 4

/-! ## The committed value -/

/-- The part of a proxy slice that acts as home for a byte (R413), or holds it until the home has taken it (R416). -/
def Proxy.acts (p : Proxy) (line off : Nat) : Bool :=
  p.line == line && !(p.kind == .copy) && (alookup off p.bytes).isSome

/-- A proxy that is acting home for bytes of a line. -/
def Proxy.actsFor (p : Proxy) (line : Nat) : Bool := p.line == line && (p.kind == .owned || p.kind == .priv)

/-- The committed byte at a key of the own device or the host: the acting home's (R413). -/
def State.homeByte (s : State) (key : Nat) : Byte :=
  match s.proxies.find? (fun p => p.acts (key / 128) (key % 128)) with
  | some p => (alookup (key % 128) p.bytes).getD 0
  | none => NMap.get s.mem key

def State.homeBytes (s : State) (key n : Nat) : List Byte := (List.range n).map fun i => s.homeByte (key + i)
def State.homeLineData (s : State) (line : Nat) : List Byte := s.homeBytes (line * 128) 128

/-- Commits one byte at its acting home. -/
def State.setHomeByte (s : State) (key : Nat) (b : Byte) : State :=
  if s.proxies.any (fun p => p.acts (key / 128) (key % 128)) then
    { s with proxies := updateFirst (fun p => p.acts (key / 128) (key % 128)) (fun p => { p with bytes := ainsert (key % 128) b p.bytes }) s.proxies }
  else { s with mem := NMap.set s.mem key b }

def State.setHomeAt (s : State) : List (Nat × Byte) → State
  | [] => s
  | (k, b) :: r => (s.setHomeByte k b).setHomeAt r

/-- Sectors of 32 bytes that a list of byte keys covers whole (R404). -/
def wholeSectors (keys : List Nat) : List Nat :=
  ((keys.filter (fun k => k % 32 == 0)).filter fun k => (List.range 32).all fun i => keys.contains (k + i)).map (· / 32)

/-- Clears the poison marks of sectors that a write covers whole (R404). -/
def clearPoison (m : NMap 1) (keys : List Nat) : NMap 1 :=
  (wholeSectors keys).foldl (fun m k => NMap.set m k 0) m

/-- Commits bytes of one line: writes by mask (R308). -/
def State.commitLine (s : State) (line : Nat) (bs : LineBytes) : State :=
  let ks := bs.map fun e => (line * 128 + e.1, e.2)
  { s.setHomeAt ks with poison := clearPoison s.poison (ks.map (·.1)) }

/-- Sets or clears the marks of sectors of a line (R404). -/
def setMarks (m : NMap 1) (line : Nat) (is : List Nat) (v : BitVec 1) : NMap 1 := is.foldl (fun m i => NMap.set m (line * 4 + i) v) m

/-- The mark of a sector of a line. -/
def hasMark (m : NMap 1) (line i : Nat) : Bool := NMap.get m (line * 4 + i) == 1

/-- The sectors of a line that bytes cover whole (R404). -/
def wholeOf (bs : LineBytes) : List Nat :=
  if bs.length < 32 then [] else (List.range 4).filter fun i => (List.range 32).all fun j => (alookup (32 * i + j) bs).isSome

/-- Commits bytes of one line with the marks that their sectors carry (R404). -/
def State.commitMarked (s : State) (line : Nat) (bs : LineBytes) (bad : List Nat) : State :=
  let t := s.commitLine line bs
  { t with poison := setMarks t.poison line bad 1 }

/-- A poison mark lies on one of n bytes from a key (R404). -/
def poisoned (m : NMap 1) (key n : Nat) : Bool :=
  (List.range ((key + n - 1) / 32 + 1 - key / 32)).any fun i => NMap.get m (key / 32 + i) == 1

/-! ## Line images

A line travels as 128 bytes; where a sector is marked (R404), one more byte follows with a bit for each marked sector. No byte at all stands for a line that could not be had: poison in every sector (R435). -/

/-- A line's bytes with marks. -/
def imageOf (m : NMap 1) (line : Nat) (data : List Byte) : List Byte :=
  match (List.range 4).filter (hasMark m line) with
  | [] => data
  | is => data ++ [BitVec.ofNat 8 ((is.map fun i => 2 ^ i).sum)]

/-- The sectors that an image marks. -/
def imageMarks (img : List Byte) : List Nat :=
  (List.range 4).filter fun i => img.isEmpty || (img.getD 128 0).getLsbD i

/-- An image has a mark on one of n bytes from an offset. -/
def imagePoison (img : List Byte) (off n : Nat) : Bool :=
  (imageMarks img).any fun i => decide (off < 32 * i + 32) && decide (32 * i < off + n)

/-- The image of a line at its acting home. -/
def State.lineImage (s : State) (line : Nat) : List Byte := imageOf s.poison line (s.homeLineData line)

/-! ## Home lines -/

def State.homeOf (s : State) (line : Nat) : Option HomeLine := s.homes.find? (fun h => h.line == line)

/-- The home's record of a line; without a record its home die is that of its frame (R284, R290). -/
def State.homeD (s : State) (line : Nat) : HomeLine := (s.homeOf line).getD (HomeLine.fresh line (dieOfPhys (line * 128)))

def State.mapHome (s : State) (line : Nat) (f : HomeLine → HomeLine) : State :=
  if s.homes.any (fun h => h.line == line) then { s with homes := updateFirst (fun h => h.line == line) f s.homes }
  else { s with homes := s.homes ++ [f (s.homeD line)] }

/-- No operation is in progress on the line, and it is not between two acting homes (R302, R348, R416, R418). -/
def HomeLine.free (h : HomeLine) : Bool := h.op == .idle && match h.dir with
  | .recalling | .wbWait _ => false
  | _ => true

/-- The home can start an operation on the line for a request that arrives now: none is in progress and none waits (R302, R348). -/
def State.homeIdle (s : State) (line : Nat) : Bool :=
  match s.homeOf line with
  | none => true
  | some h => h.free && h.waiting.isEmpty

/-- A request waits at the home in its order of arrival (R302, R348). -/
def State.waitAtHome (s : State) (line : Nat) (i : Msg) : State := s.mapHome line fun h => { h with waiting := h.waiting ++ [i] }

/-- Lets the waiting requests of a line go on: the home takes them one after the other, in their order of arrival (R348). -/
def State.releaseHome (s : State) (line : Nat) : State :=
  if (s.homeOf line).any fun h => h.free && !h.waiting.isEmpty then s.send (.homeServe line) else s

/-- A core holds bytes of the line or a copy in its shelf: its cluster's presence bit is set (R348), and its die's bit (R414). -/
def State.markPresent (s : State) (line core : Nat) : State :=
  s.mapHome line fun h =>
    { h with
      clusters := if h.clusters.contains (clusterOf core) then h.clusters else h.clusters ++ [clusterOf core]
      dies := if dieOf core = h.die || h.dies.contains (dieOf core) then h.dies else h.dies ++ [dieOf core] }

/-- The cores of clusters, without some of them. -/
def coresOf (cls : List Nat) (except : List Nat) : List Nat :=
  (cls.flatMap fun c => [4 * c, 4 * c + 1, 4 * c + 2, 4 * c + 3]).filter fun c => !except.contains c

/-- A list without its repeats. -/
def dedup {α : Type} [DecidableEq α] (xs : List α) : List α := xs.foldl (fun r x => if r.contains x then r else r ++ [x]) []

/-- The messages of a home after a change by a core: notices on its own die, relays to the other dies, guest invalidations (R349, R420). -/
def HomeLine.messages (h : HomeLine) (except : List Nat) : List Msg :=
  (coresOf (h.clusters.filter fun c => c / 18 == h.die) except).map (fun c => Msg.notice c h.line)
  ++ (dedup (((h.clusters.map (· / 18)) ++ h.dies).filter (fun d => d != h.die))).map (fun d => Msg.relayedNotice d h.line)
  ++ h.guests.map (fun g => Msg.guestInvalidation g h.line)

/-- Sends the home's messages and waits for their acknowledgements under op; with none to send, the last acknowledgement is at hand (R349). -/
def State.notify (s : State) (line : Nat) (op : HomeOp) (except after : List Nat) (extra : List Msg) : State :=
  let ms := extra ++ (s.homeD line).messages except
  (s.mapHome line fun h => { h with op := op, spare := except, acks := ms.length + 1, after := after }).sendAll
    (ms ++ [.noticeAcknowledge line])

/-- A commit that a core causes itself: a daub copy on its own shelf is no longer the latest value and becomes a notice (R304, R330). -/
def State.outdate (s : State) (core line : Nat) : State :=
  if (s.coreBy core).shelf.any fun e => e.line == line && e.copy.isSome then
    s.mapCore core fun c => { c with shelf := c.shelf.map fun e => if e.line = line then { e with copy := none } else e }
  else s

/-- The same where nothing has to be told: the operation ends at once. -/
def State.notifyFast (s : State) (line : Nat) (except after : List Nat) (extra : List Msg) : State :=
  let s := except.foldl (fun s c => s.outdate c line) s
  if (extra ++ (s.homeD line).messages except).isEmpty then s.mapHome line fun h => { h with clusters := after, guests := [] }
  else s.notify line .notifying except after extra

/-! ## Merges of a line that another die acts for (R418, R419) -/

/-- Starts a merge: the operation that causes it waits for it. -/
def State.startRecall (s : State) (line : Nat) (i : Msg) : State :=
  let ps := s.proxies.filter (·.actsFor line)
  let s1 := s.mapHome line fun h =>
    { h with waiting := h.waiting ++ [i], dir := if ps.isEmpty then .home else .recalling, parts := ps.length }
  if ps.isEmpty then s1.releaseHome line else s1.sendAll (ps.map fun p => Msg.recall p.die line)

/-- An operation of R419 by a core on some bytes has to wait for a merge. -/
def State.needMerge (s : State) (line core : Nat) (offs : List Nat) : Bool :=
  match s.homeOf line with
  | none => false
  | some h =>
    match h.dir with
    | .owned d => d != dieOf core
    | .priv => !(offs.all fun o => ((alookup (dieOf core) h.masks).getD []).contains o)
    | _ => false

/-- A part of the line that the proxy of a die has evicted and the home has not acknowledged (R416). -/
def State.holdOf (s : State) (line die : Nat) : Bool := s.proxies.any fun p => p.line == line && p.die == die && p.kind == .hold

/-- A request waits at the proxy of its die until the write-back is acknowledged (R416, R422). -/
def State.waitAtProxy (s : State) (line die : Nat) (m : Msg) : State :=
  { s with proxies := updateFirst (fun p => p.line == line && p.die == die && p.kind == .hold) (fun p => { p with waiting := p.waiting ++ [m] }) s.proxies }

/-! ## Bytes that other agents write at a home -/

/-- The offsets and bytes of one line. -/
def lineSpan (key : Nat) (bs : List Byte) : LineBytes := (List.range bs.length).zip bs |>.map fun e => (key % 128 + e.1, e.2)

/-- Splits consecutive bytes at line boundaries. -/
def splitLines (key : Nat) (bs : List Byte) : List (Nat × LineBytes) :=
  (List.range ((key % 128 + bs.length + 127) / 128)).map fun i =>
    (key / 128 + i, ((List.range bs.length).zip bs).filterMap fun e =>
      if (key + e.1) / 128 = key / 128 + i then some ((key + e.1) % 128, e.2) else none)

/-- An agent that is no core, at a line's home. -/
def noCore : Nat := Config.cores

/-- Bytes of one line written by the front end, the host or a copy unit, as a publication of those bytes only at their acting homes; it waits behind an operation in progress (R302, R413, R460). -/
def State.writeHomeLine (s : State) (line : Nat) (bs : LineBytes) : State :=
  if lineHost line then s.commitLine line bs
  else if !s.homeIdle line then s.waitAtHome line (.lineWrite line bs)
  else match s.homeOf line with
    | none => s.commitLine line bs
    | some h => (s.commitLine line bs).notifyFast line [] h.clusters []

/-- Consecutive bytes written at their homes (completion records, head records, packets). -/
def State.writeHome (s : State) (key : Nat) (bs : List Byte) : State :=
  (splitLines key bs).foldl (fun s e => s.writeHomeLine e.1 e.2) s

/-- Bytes of a line's copies at guests and proxies, after a commit that tells nobody. -/
def State.amendCopies (s : State) (line : Nat) (bs : LineBytes) : State :=
  { s with
    guests := s.guests.map fun g => if g.line = line then { g with data := bs.foldl (fun d e => d.set e.1 e.2) g.data } else g
    proxies := s.proxies.map fun p => if p.line = line ∧ p.kind = .copy then { p with bytes := bs.foldl (fun d e => ainsert e.1 e.2 d) p.bytes } else p }

/-- An untracked write-back or store of a core at the home line (R314, R315): no notice, so the line's read-only copies take its bytes. It waits behind an operation in progress, and for a merge (R348, R418, R419). -/
def State.writeUntracked (s : State) (core line : Nat) (bs : LineBytes) (bad : List Nat) : State :=
  if bs.isEmpty then s
  else if lineHost line then s.commitMarked line bs bad
  else if !s.homeIdle line then s.waitAtHome line (.writeBack core line bs bad)
  else if s.needMerge line noCore (bs.map (·.1)) then s.startRecall line (.writeBack core line bs bad)
  else (s.commitMarked line bs bad).amendCopies line bs

/-- Every untracked write of a core has reached its home line. -/
def State.wroteBack (s : State) (core : Nat) : Bool :=
  (s.inflight ++ s.homes.flatMap (·.waiting)).all fun m => match m with
    | .writeBack c _ _ _ => c != core
    | _ => true

/-! ## Translation (R288 to R294) -/

inductive PteKind | bad | table (addr : Nat) | leaf (w : W64)
deriving DecidableEq, Repr

def pteBits (w : W64) (lo len : Nat) : Nat := w.toNat / 2 ^ lo % 2 ^ len

def pageBytes : Nat → Nat
  | 1 => 2 ^ 42
  | 2 => 2 ^ 29
  | _ => 2 ^ 16

/-- The top 192 MiB of a die's range hold metadata (R283). -/
def inMetadata (a : Nat) : Bool :=
  decide (a < Config.hostBase) && decide (Config.dieBytes - Config.metaBytes ≤ a % Config.dieBytes)

/-- What an entry says (R288, R293). -/
def pteKind (level : Nat) (w : W64) : PteKind :=
  if pteBits w 0 1 = 0 then .bad
  else if pteBits w 1 1 = 0 then
    if level = 3 || !(w.toNat == pteBits w 16 36 * 65536 + 1) then .bad else .table (pteBits w 16 36 * 65536)
  else if pteBits w 61 3 = 0 && pteBits w 2 2 = 0 && !(pteBits w 11 2 == 3)
      && decide (pteBits w 16 36 * 65536 % pageBytes level = 0) && !inMetadata (pteBits w 16 36 * 65536) then .leaf w
  else .bad

def State.readPte (s : State) (a : Nat) : W64 := ofBytes 64 (s.homeBytes a 8)

/-- The homes of an entry: a walk reads it as a load does, and waits behind an operation in progress (R289, R302). -/
def State.pteIdle (s : State) (a : Nat) : Bool := s.homeIdle (a / 128)

/-- A walk of a table finds an entry whose home it has to wait for (R289, R302). -/
def State.walkWaits (s : State) (table va : Nat) : Bool :=
  let a1 := table + 8 * (va / 2 ^ 42 % 4096)
  !s.pteIdle a1 || match pteKind 1 (s.readPte a1) with
    | .table t2 =>
      let a2 := t2 + 8 * (va / 2 ^ 29 % 8192)
      !s.pteIdle a2 || match pteKind 2 (s.readPte a2) with
        | .table t3 => !s.pteIdle (t3 + 8 * (va / 2 ^ 16 % 8192))
        | _ => false
    | _ => false

/-- A walk from the level-1 table: the leaf and its level (R288, R289). -/
def State.walk (s : State) (table va : Nat) : Option (Nat × W64) :=
  match pteKind 1 (s.readPte (table + 8 * (va / 2 ^ 42 % 4096))) with
  | .bad => none
  | .leaf w => some (1, w)
  | .table t2 =>
    match pteKind 2 (s.readPte (t2 + 8 * (va / 2 ^ 29 % 8192))) with
    | .bad => none
    | .leaf w => some (2, w)
    | .table t3 =>
      match pteKind 3 (s.readPte (t3 + 8 * (va / 2 ^ 16 % 8192))) with
      | .leaf w => some (3, w)
      | _ => none

/-- The leaf that a TLB of the core holds for an address (R292). -/
def tlbFind (tlb : List TlbEntry) (ctx va : Nat) : Option (Nat × W64) :=
  (tlb.find? fun e => e.ctx == ctx && e.page == va / pageBytes e.level).map fun e => (e.level, e.leaf)

/-- The leaves that a core can hit for an address: its own TLB's and its cluster's (R292). -/
def State.heldLeaf (s : State) (core ctx va : Nat) : Option (Nat × W64) :=
  (tlbFind (s.coreBy core).tlb ctx va).or (tlbFind ((s.clusterTlb.filter fun e => e.1 == clusterOf core).map (·.2)) ctx va)

/-- An access of a core misses in both TLBs and its walk has to wait for the home of a table entry (R289, R302). -/
def State.walkBusy (s : State) (core ctx va : Nat) : Bool :=
  (s.heldLeaf core ctx va).isNone && (s.ctxBy ctx).any fun c => s.walkWaits c.table va

/-- The translation that an access of a core uses: the tables as they stand, or a leaf held from before, chosen freely (R294). -/
def State.translateOn (s : State) (core ctx va : Nat) : Option (Nat × W64) :=
  let now := match s.ctxBy ctx with
    | none => none
    | some c => s.walk c.table va
  match s.heldLeaf core ctx va with
  | none => now
  | some old =>
    if now = some old then now
    else if Config.useOld (s.freeCount + va) || (s.ctxBy ctx).any (fun c => s.walkWaits c.table va) then some old else now

/-- A TLB with a leaf that an access has brought. -/
def holdEntry (e : TlbEntry) (tlb : List TlbEntry) : List TlbEntry := if tlb.contains e then tlb else e :: tlb

/-- Keeps a leaf in the core's TLB and in that of its cluster (R292). -/
def State.holdLeaf (s : State) (core ctx va : Nat) (lv : Nat × W64) : State :=
  let e : TlbEntry := ⟨ctx, lv.1, va / pageBytes lv.1, lv.2⟩
  let s1 := s.mapCore core fun c => { c with tlb := holdEntry e c.tlb }
  { s1 with clusterTlb := if s1.clusterTlb.contains (clusterOf core, e) then s1.clusterTlb else (clusterOf core, e) :: s1.clusterTlb }

/-- Both TLBs lose the leaves that an invalidation covers (R294). -/
def State.dropLeaves (s : State) (hit : TlbEntry → Bool) : State :=
  { s.mapCores (fun c => { c with tlb := c.tlb.filter fun t => !hit t }) with clusterTlb := s.clusterTlb.filter fun e => !hit e.2 }

def leafW (w : W64) : Bool := pteBits w 4 1 == 1
def leafSx (w : W64) : Bool := pteBits w 5 1 == 1
def leafLx (w : W64) : Bool := pteBits w 6 1 == 1
def leafTracked (w : W64) : Bool := pteBits w 7 1 == 1
def leafCmp (w : W64) : Bool := pteBits w 8 1 == 1
def leafTag (w : W64) : Nat := pteBits w 9 2
def leafIncast (w : W64) : Bool := pteBits w 13 1 == 1
def leafHome (w : W64) : Nat := pteBits w 14 2
def leafDev (w : W64) : Nat := pteBits w 52 9

/-- The physical address of va under a leaf. -/
def leafPhys (lv : Nat × W64) (va : Nat) : Nat := pteBits lv.2 16 36 * 65536 + va % pageBytes lv.1

def Loc.line (l : Loc) : Nat := l.key / 128
def Loc.die (l : Loc) : Nat := leafHome l.leaf
def Loc.tracked (l : Loc) : Bool := leafTracked l.leaf

/-- Translates an address that has passed the first checks. The bytes of a die's metadata are mapped by no page, not even by a large one whose frame begins below them (R283, R293, log entry 14). -/
def State.locate (s : State) (core ctx va : Nat) : Option Loc :=
  (s.translateOn core ctx va).bind fun lv =>
    if inMetadata (leafPhys lv va) then none
    else some { key := byteKey s.dev (leafDev lv.2) (leafPhys lv va), leaf := lv.2, level := lv.1 }

/-- The outcome of an access check: busy when it waits for a walk. -/
inductive Chk | ok (l : Loc) | trap (c : Cause) | busy
deriving DecidableEq, Repr

/-- The translation part of an access check. -/
def State.checkPage (s : State) (core ctx va : Nat) (store : Bool) : Chk :=
  if s.walkBusy core ctx va then .busy
  else match s.locate core ctx va with
    | none => .trap .xlateAbsent
    | some l => if store && !leafW l.leaf then .trap .xlatePerm else .ok l

/-- The checks of R130 for an access of a core in a context. -/
def State.checkFlat (s : State) (core ctx : Nat) (e : W64) (size : Nat) (store : Bool) : Chk :=
  if 2 ^ 54 ≤ e.toNat then .trap .xlateAbsent
  else if e.toNat % size ≠ 0 then .trap .misalign
  else s.checkPage core ctx e.toNat store

/-- The same for an access that has no alignment of its own (72 bytes of R203). -/
def State.checkFlatAt (s : State) (core ctx : Nat) (e : W64) (align size : Nat) : Chk :=
  if 2 ^ 54 ≤ e.toNat then .trap .xlateAbsent
  else if e.toNat % align ≠ 0 then .trap .misalign
  else if 2 ^ 54 < e.toNat + size then .trap .xlateAbsent
  else match s.checkPage core ctx e.toNat false with
    | .ok l => match s.checkPage core ctx (e.toNat + size - 1) false with
      | .ok _ => .ok l
      | r => r
    | r => r

/-- The page of an access, as lines know it: home die and compression (R284, R285). An idle line takes a change of its page's home die; copies that the old home's die kept fall away with it. -/
def State.touchHome (s : State) (l : Loc) : State :=
  if lineFar l.line then s
  else match s.homeOf l.line with
    | none => s.mapHome l.line fun h => { h with die := l.die, cmp := leafCmp l.leaf }
    | some h =>
      if h.die = l.die ∧ h.cmp = leafCmp l.leaf then s
      else if h.die = l.die then s.mapHome l.line fun h => { h with cmp := leafCmp l.leaf }
      else if s.homeIdle l.line && h.dir == .home then
        let s1 : State := { s with guests := s.guests.filter (fun g => g.line != l.line), proxies := s.proxies.filter fun p => p.line != l.line }
        s1.mapHome l.line fun h =>
          { h with die := l.die, cmp := leafCmp l.leaf, guests := [], dies := dedup ((h.clusters.map (· / 18)).filter (· != l.die)) }
      else s

end Sys2Proof.Machine
end

