-- ==== Sys2Proof/Machine/Lines.lean ====
section
/-! DEFINITION. Lines in a core: L1, stash, K-cache and arrival shelf (R274 to R278, R303 to R305, R345 to R347), fills, the start of a publication (R300, R301) and requests to other devices (R433, R439). -/

namespace Sys2Proof.Machine

/-! ## Requests to other devices -/

def State.peerBy (s : State) (d : Nat) : Option Peer := s.peers.find? (fun p => p.dev == d)
def State.mapPeer (s : State) (d : Nat) (f : Peer → Peer) : State :=
  if s.peers.any (fun p => p.dev == d) then { s with peers := updateFirst (fun p => p.dev == d) f s.peers }
  else { s with peers := s.peers ++ [f (Peer.fresh d)] }

/-- A device that the domain holds: one whose ports or messages have been seen; a record of a device that only a request has named, with no port up, is none (R432). -/
def Peer.held (p : Peer) : Bool := !(p.logged && p.up == 0)

/-- A request that is an atomic of R433: its result is kept in a replay cache (R434). -/
def replayed : RemoteOp → Bool
  | .atomic _ _ | .daub _ _ | .ticket _ => true
  | _ => false

/-- The physical line that a request is for (R431); 0 for a message that names none, or a dispenser that its own device knows (log entry 87). -/
def lineOfOp : RemoteOp → Nat
  | .read l => l
  | .write a _ _ _ | .daub a _ => a / 128
  | .atomic r _ => r.line
  | .ticket r => r.key % spaceBytes / 128
  | .packet p => ((p.runs.head?).map fun r => r.1 / 128).getD 0
  | .wet _ l _ => l
  | _ => 0

/-- The first usable plane from a plane on, wrapping from 15 to 0 (R431). -/
def nextPlane (up : BitVec 16) (p : Nat) : Nat := (((List.range 16).map fun i => (p + i) % 16).find? fun q => up.getLsbD q).getD (p % 16)

/-- The plane on which a request for a line leaves (R431). -/
def planeOf (line : Nat) (up : BitVec 16) : Nat :=
  let l : BitVec 45 := BitVec.ofNat 45 line
  nextPlane up ((l.setWidth 4 ^^^ (l >>> 4).setWidth 4 ^^^ (l >>> 8).setWidth 4 : BitVec 4).toNat)

/-- Room for one more request to a peer: 32,768 outstanding, 256 of them atomics (R433). -/
def Peer.room (p : Peer) (op : RemoteOp) : Bool :=
  let sent := p.out.filter fun r => r.tries != 0
  decide (sent.length < 32768) && (!replayed op || decide ((sent.filter fun r => replayed r.op).length < 256))

/-- Sends a request under the pair's next sequence number and keeps it until it is acknowledged (R433, R434); without room it waits behind the others. One to a device that is unreachable or that the domain does not hold is not sent: it completes as R435 says, and Skepin logs the latter once (R432). -/
def State.sendRequest (s : State) (dst : Nat) (op : RemoteOp) (who : Waiter) : State :=
  let known := s.hasDev && s.peers.any (fun p => p.dev == dst && p.held)
  let p := (s.peerBy dst).getD { Peer.fresh dst with unreachable := true, up := 0 }
  let go := (p.out.all fun r => r.tries != 0) && p.room op
  let plane := planeOf (lineOfOp op) p.up
  let s1 := s.mapPeer dst fun q =>
    { q with next := p.next + 1, out := q.out ++ [⟨p.next, op, who, s.cycle, if go then 1 else 0, plane⟩], up := p.up,
             unreachable := p.unreachable || !known, logged := q.logged || !known }
  if known && !p.unreachable then (if go then s1.out (.request dst p.next op plane) else s1)
  else (if known || p.logged then s1 else s1.log 0x04 noCtx [dst]).send (.retransmitTimeout (Fin.ofNat 512 dst) p.next)

/-- Requests that waited for room go out in their order (R433). -/
def State.sendWaiting (s : State) (dst : Nat) : Nat → State
  | 0 => s
  | n + 1 =>
    match s.peerBy dst with
    | none => s
    | some p =>
      match p.out.find? fun r => r.tries == 0 with
      | none => s
      | some r =>
        if p.room r.op && !p.unreachable then
          ((s.mapPeer dst fun p => { p with out := updateFirst (fun r => r.tries == 0) (fun r => { r with sent := s.cycle, tries := 1 }) p.out }).out
            (.request dst r.seq r.op r.plane)).sendWaiting dst n
        else s

/-! ## Fills in flight -/

/-- A notice or a refusal overtakes a fill in flight: it serves the loads that wait for it and is not installed (R347). -/
def Core.overtake (c : Core) (line : Nat) : Core :=
  { c with fills := c.fills.map fun f => if f.line = line then { f with overtaken := true } else f }

/-- What the core itself does to a line overtakes its fills in flight: their bytes may be older than its own, so that they serve no load; the loads ask again (R297, R305). -/
def Core.voidFills (c : Core) (sel : Nat → Bool) : Core :=
  { c with fills := (c.fills.filter fun f => !(sel f.line && f.served.isSome)).map fun f =>
      if sel f.line then { f with overtaken := true, waiters := [] } else f }

/-- A load has its bytes, or its word is given up: it waits for no fill any more. -/
def Core.leaveFills (c : Core) (k : PodKey × Stream) : Core :=
  { c with fills := (c.fills.map fun f => { f with waiters := f.waiters.filter (· != k) }).filter fun f => !(f.served.isSome && f.waiters.isEmpty) }

/-- The bytes that an overtaken fill holds for a load that waited for it (R347). -/
def Core.servedTo (c : Core) (line : Nat) (k : PodKey × Stream) : Option (List Byte) :=
  (c.fills.find? fun f => f.line == line && f.served.isSome && f.waiters.contains k).bind (·.served)

/-- A fill of the line that has no reply yet. -/
def Core.filling (c : Core) (line : Nat) : Option FillState := c.fills.find? fun f => f.line == line && f.served.isNone

/-- A load joins the loads that wait for a fill in flight; one that a notice has overtaken takes none in, so that the load asks again after it (R347). -/
def Core.joinFill (c : Core) (line : Nat) (k : PodKey × Stream) : Core :=
  let join := fun (f : FillState) => if f.overtaken || f.waiters.contains k then f else { f with waiters := f.waiters ++ [k] }
  { c with fills := updateFirst (fun f => f.line == line && f.served.isNone) join c.fills }

/-- Bytes of a line homed on the host or on another device leave the core, with the marks of their sectors (R404, R439, R460). -/
def State.sendFar (s : State) (core line : Nat) (bs : LineBytes) (bad : List Nat) (job : Nat) (tracked : Bool) : State :=
  let s := (s.outdate core line).mapCore core (·.voidFills (· == line))
  if lineHost line then { (s.commitMarked line bs bad).out (.hostWrite line) with hostPending := s.hostPending + 1 }
  else s.sendRequest (lineDev line) (.write (line % spaceLines * 128) bs bad tracked) (.write core job)

/-- A write of bytes to another device. -/
def Request.isWrite (r : Request) : Bool := match r.who with
  | .write _ _ => true
  | _ => false

/-- Every write of the core to the host or another device has been acknowledged (R307). -/
def State.farAcked (s : State) (core : Nat) : Bool :=
  s.hostPending == 0 && s.peers.all fun p => p.out.all fun r => match r.who with
    | .write c _ => c != core
    | _ => true

/-! ## L1 lines -/

def Core.lineOf (c : Core) (line : Nat) : Option L1Line := c.l1.find? (fun l => l.line == line)
def L1Line.isDirty (l : L1Line) (off : Nat) : Bool := (alookup off l.dirty).isSome
def Core.byteOf (c : Core) (line off : Nat) : Option Byte := (c.lineOf line).bind fun l => alookup off l.bytes

/-- Moves a line to the front: the most recently used. -/
def Core.touch (c : Core) (line : Nat) : Core :=
  match c.lineOf line with
  | none => c
  | some l => { c with l1 := l :: removeFirst (fun l => l.line == line) c.l1 }

/-- Clears the valid bits of bytes that are not dirty (R304). -/
def L1Line.dropClean (l : L1Line) : L1Line := { l with bytes := l.bytes.filter fun e => l.isDirty e.1 }

def Core.dropCleanIf (c : Core) (p : L1Line → Bool) : Core :=
  { c with l1 := (c.l1.map fun l => if p l then l.dropClean else l).filter fun l => !l.bytes.isEmpty }

/-- Applies a notice (R304); it touches no line that the core holds untracked (R314). -/
def Core.dropCleanLine (c : Core) (line : Nat) : Core := c.dropCleanIf fun l => l.line == line && l.tracked

/-- Drops bytes of a line, dirty or clean (R324, R328, R373). -/
def Core.dropBytes (c : Core) (line : Nat) (offs : Nat → Bool) : Core :=
  { c with l1 := (c.l1.map fun l =>
      if l.line = line then { l with bytes := l.bytes.filter (fun e => !offs e.1), dirty := l.dirty.filter (fun e => !offs e.1) } else l).filter (fun l => !l.bytes.isEmpty) }

/-- Bytes of a line that a later store of the core on another path replaces: they are dirty no more (R28, R287). -/
def Core.supersede (c : Core) (line : Nat) (offs : List Nat) : Core :=
  { c with l1 := c.l1.map fun l => if l.line = line then { l with dirty := l.dirty.filter fun e => !offs.contains e.1 } else l }

/-- The core's dirty bytes of a line in its L1. -/
def Core.dirtyBytes (c : Core) (line : Nat) : LineBytes :=
  match c.lineOf line with
  | none => []
  | some l => l.bytes.filter fun e => l.isDirty e.1

/-! ## The stash -/

def Core.stashLine (c : Core) (line : Nat) : List StashByte :=
  ((c.stash.find? (fun l => l.line == line)).map (·.bytes)).getD []

def Core.stashByte (c : Core) (line off : Nat) : Option Byte :=
  ((c.stashLine line).find? (fun b => b.off == off)).map (·.val)

def putStashByte (bs : List StashByte) (b : StashByte) : List StashByte := bs.filter (fun x => x.off != b.off) ++ [b]

/-- The marks of a stash line after bytes with some marks have been put into it: a sector that held no byte, or that they cover whole, has theirs (R404). -/
def Core.stashMarks (c : Core) (line : Nat) (bs : LineBytes) (bad : List Nat) : NMap 1 :=
  if c.stashPoison.isEmpty && bad.isEmpty then []
  else
    let stale := (List.range 4).filter fun i => (c.stashLine line).all fun b => b.off / 32 != i
    setMarks (setMarks c.stashPoison line (stale ++ wholeOf bs) 0) line bad 1

/-- Merges bytes into the core's stash line (R275). -/
def Core.putStash (c : Core) (line slice : Nat) (bs : List StashByte) (bad : List Nat) : Core :=
  let marks := c.stashMarks line (bs.map fun b => (b.off, b.val)) bad
  if c.stash.any (fun l => l.line == line) then
    { c with stash := updateFirst (fun l => l.line == line) (fun l => { l with bytes := bs.foldl putStashByte l.bytes }) c.stash, stashPoison := marks }
  else if bs.isEmpty then c else { c with stash := c.stash ++ [⟨line, slice, bs⟩], stashPoison := marks }

/-- Removes bytes of a stash line; a line without bytes is freed. -/
def Core.dropStash (c : Core) (line : Nat) (offs : Nat → Bool) : Core :=
  { c with stash := (c.stash.map fun l =>
      if l.line = line then { l with bytes := l.bytes.filter fun b => !offs b.off } else l).filter fun l => !l.bytes.isEmpty }

/-- The slice that holds a core's stash of a line: at the home, or on the core's own die for a far line (R275, R439). -/
def stashSlice (core line die : Nat) : Nat := (if lineFar line then dieOf core else die) * 36 + homeSlice line

/-- There is room for a stash line within the limits of R276. -/
def State.stashRoom (s : State) (core line slice : Nat) : Bool :=
  (s.coreBy core).stash.any (fun l => l.line == line)
  || (decide ((s.coreBy core).stash.length < Config.stashPerCore)
      && decide (((s.allCores.flatMap (·.stash)).filter (fun l => l.slice == slice)).length < Config.stashPerSlice))

/-- The home die of a line where a request names none. -/
def State.homeDie (s : State) (line : Nat) : Nat := (s.homeD line).die

/-- The stash lines that stores of the tile path need are there or can be opened, all of them, within the limits of R276. -/
def State.stashFits (s : State) (core : Nat) (ls : List Loc) : Bool :=
  let c := s.coreBy core
  let new := dedup (((ls.filter fun l => l.tracked && !c.stash.any fun x => x.line == l.line)).map fun l => (l.line, stashSlice core l.line l.die))
  decide (c.stash.length + new.length ≤ Config.stashPerCore) && new.all fun e =>
    decide (((s.allCores.flatMap (·.stash)).filter (fun l => l.slice == e.2)).length + (new.filter fun x => x.2 == e.2).length ≤ Config.stashPerSlice)

/-! ## Sending windows (R336, R337) -/

/-- The sector of a line's home slice, numbered over the device. -/
def State.sectorAt (s : State) (line : Nat) : Nat := s.homeDie line * 3 + homeSlice line / 12

/-- The core and line of a request that a home or a proxy keeps waiting. -/
def State.askedBy (s : State) : Msg → Option (Nat × Nat)
  | .atomicAtHome r => some (r.core, r.line)
  | .addstLine r => some (r.core, r.line)
  | .daubAtHome r => some (r.core, r.line)
  | .ticketOperation r => if r.kind == .take then some (r.core, r.key / 128) else none
  | .pendingBytes p line => (s.pubs.find? fun x => x.id == p).map fun x => (x.core, line)
  | _ => none

/-- The requests without a response: fills, requests that wait at a home or a proxy, and lines of publications that a home has not reported. -/
def State.requestsOut (s : State) : List (Nat × Nat) :=
  s.allCores.flatMap (fun c => (c.fills.filter fun f => f.served.isNone && !lineFar f.line).map fun f => (c.n, f.line))
  ++ (s.homes.flatMap (·.waiting) ++ s.proxies.flatMap (·.waiting)).filterMap s.askedBy
  ++ s.pubs.flatMap fun p => (p.parts.filter fun q => q.stage == .pending).map fun q => (p.core, q.line)

/-- A request of a core for a line fits its window of the line's sector. -/
def State.windowRoom (s : State) (core line : Nat) : Bool :=
  let sec := s.sectorAt line
  let w := (((s.coreBy core).windows.find? fun w => w.sector == sec).map (·.size)).getD 64
  lineFar line || decide (Config.cores ≤ core) || decide ((s.requestsOut.filter fun e => e.1 == core && s.sectorAt e.2 == sec).length < w)

/-- A request can leave its core: it fits, and none of the core's stands before it for the same sector. -/
def State.windowOpen (s : State) (core line : Nat) : Bool :=
  s.windowRoom core line && s.inflight.all fun m => match m with
    | .atCore c x _ => !(c == core && s.sectorAt x == s.sectorAt line)
    | _ => true

/-- The mark that a response carries: 24 or more requests stand in front of the sector, and this one passed where they wait (log entry 68). -/
def State.marks (s : State) (line : Nat) : Bool :=
  decide (24 ≤ (s.requestsOut.filter fun e => s.sectorAt e.2 == s.sectorAt line).length) && Config.freeMark s.freeCount

/-- The window of a sector after a response (R337). -/
def nextWindow (now : W64) (marked : Bool) (w : Window) : Window :=
  if marked then
    if w.halved.any fun t => decide ((now - t).toNat < 64) then w
    else if max 4 (w.size / 2) = w.size then w
    else { w with size := max 4 (w.size / 2), halved := some now, clear := 0 }
  else if w.clear + 1 = 32 then if w.size < 64 then { w with size := w.size + 1, clear := 0 } else w
  else { w with clear := w.clear + 1 }

def Core.response (c : Core) (now : W64) (sector : Nat) (marked : Bool) : Core :=
  if c.windows.any (fun w => w.sector == sector) then
    { c with windows := updateFirst (fun w => w.sector == sector) (nextWindow now marked) c.windows }
  else if marked then { c with windows := c.windows ++ [nextWindow now marked ⟨sector, 64, none, 0⟩] }
  else c

/-- The response to a request of a core for a line reaches it. -/
def State.respond (s : State) (core line : Nat) (marked : Bool) : State :=
  if lineFar line || decide (Config.cores ≤ core) then s
  else s.mapCore core (·.response s.cycle (s.sectorAt line) marked)

/-! ## Requests on their way to a home -/

/-- Where a request of a core for some bytes of a line waits, if it has to: at its die's proxy for a write-back (R416), at the home for an operation in progress (R302) or for a merge (R419). none: the home takes it. -/
def State.queued (s : State) (core line : Nat) (offs : List Nat) (m : Msg) : Option State :=
  if s.holdOf line (dieOf core) then some (s.waitAtProxy line (dieOf core) m)
  else if !s.homeIdle line then some (s.waitAtHome line m)
  else if s.needMerge line core offs then some (s.startRecall line m)
  else none

/-- The same for a request that its core sends now: before all it waits there for its window (R336). -/
def State.asked (s : State) (core line : Nat) (offs : List Nat) (m : Msg) : Option State :=
  if s.windowOpen core line then s.queued core line offs m else some (s.send (.atCore core line m))

/-! ## Reads that merge the core's own stash -/

def State.mergedByte (s : State) (core key : Nat) : Byte :=
  ((s.coreBy core).stashByte (key / 128) (key % 128)).getD (s.homeByte key)

/-- A byte of a tracked or untracked page as the tile path finds it is marked: by the core's stash where it holds the byte, else by the home (R404). -/
def State.byteBad (s : State) (core : Nat) (tracked : Bool) (key : Nat) : Bool :=
  let c := s.coreBy core
  if tracked && (c.stashByte (key / 128) (key % 128)).isSome then NMap.get c.stashPoison (key / 32) == 1 else NMap.get s.poison (key / 32) == 1

/-- One of n bytes of a place is marked on the tile path (R404). -/
def State.pathBad (s : State) (core : Nat) (l : Loc) (n : Nat) : Bool :=
  !(s.poison.isEmpty && (s.coreBy core).stashPoison.isEmpty) && (List.range n).any fun i => s.byteBad core l.tracked (l.key + i)

/-- Sectors of a core's dirty bytes of a line that carry a mark (R404). -/
def Core.badIn (c : Core) (line : Nat) (bs : LineBytes) : List Nat :=
  if c.l1Poison.isEmpty && c.stashPoison.isEmpty then []
  else (List.range 4).filter fun i => bs.any fun b => b.1 / 32 == i &&
    if (c.lineOf line).any fun l => l.isDirty b.1 then hasMark c.l1Poison line i
    else (c.stashByte line b.1).isSome && hasMark c.stashPoison line i

/-! ## Room in the L1 -/

/-- Takes the dirty bytes of a line out of the L1: to the stash, or home if it is untracked (R275, R277). -/
def State.evictLine (s : State) (core : Nat) (l : L1Line) : State :=
  let d := l.bytes.filter fun e => l.isDirty e.1
  let bad := (s.coreBy core).badIn l.line d
  let s1 := s.mapCore core fun c => { c with l1 := removeFirst (fun x => x.line == l.line) c.l1, l1Poison := setMarks c.l1Poison l.line [0, 1, 2, 3] 0 }
  if d.isEmpty then s1
  else
    let s1 := s1.mapCore core (·.voidFills (· == l.line))
    if l.tracked then
      s1.mapCore core fun c =>
        c.putStash l.line (stashSlice core l.line (s.homeDie l.line)) (d.map fun e => ⟨e.1, e.2, (alookup e.1 l.dirty).getD 0⟩) bad
    else if lineFar l.line then s1.sendFar core l.line d bad ((l.dirty.map (·.2)).headD 0) false
    else s1.writeUntracked core l.line d bad

/-- A line can leave the L1 now (R276). -/
def State.canEvict (s : State) (core : Nat) (l : L1Line) : Bool :=
  l.dirty.isEmpty || !l.tracked || s.stashRoom core l.line (stashSlice core l.line (s.homeDie l.line))

/-- Frees a way for a line (R274, R276): the least recently used of the set leaves it; where the stash has no room for that one, the least recently used without dirty bytes. none: the access waits. -/
def State.makeRoom (s : State) (core line : Nat) : Option State :=
  let c := s.coreBy core
  if c.l1.length < Config.l1Ways || c.l1.any (fun l => l.line == line) then some s
  else
    let set := c.l1.filter fun l => Config.l1Set l.line % 256 == Config.l1Set line % 256
    if set.length < Config.l1Ways then some s
    else match set.getLast? with
      | none => some s
      | some v =>
        if s.canEvict core v then some (s.evictLine core v)
        else (set.reverse.find? fun l => l.dirty.isEmpty).map (s.evictLine core)

/-- A line that the core holds for a page of the other kind leaves the L1 before an access through this one (R295, R315). none: the access waits. -/
def State.alignLine (s : State) (core line : Nat) (tracked : Bool) : Option State :=
  match (s.coreBy core).lineOf line with
  | none => some s
  | some x => if x.tracked == tracked then some s else if s.canEvict core x then some (s.evictLine core x) else none

/-- The bytes of a line that a fill brings, with the core's own stash of a tracked line merged (R275). -/
def Core.withStash (c : Core) (line : Nat) (tracked : Bool) (data : List Byte) : LineBytes :=
  ((List.range 128).zip data).map fun e => (e.1, if tracked then (c.stashByte line e.1).getD e.2 else e.2)

/-- The marks of a line after a fill (R404): a sector keeps the mark of the bytes that it holds, and takes that of the bytes it receives, be they the image's or the core's own stash bytes. -/
def Core.filledMarks (c : Core) (line : Nat) (tracked : Bool) (img : List Byte) : NMap 1 :=
  let old := ((c.lineOf line).map (·.bytes)).getD []
  if c.l1Poison.isEmpty && c.stashPoison.isEmpty && (imageMarks img).isEmpty then []
  else
    let bad := (List.range 4).filter fun i =>
      (hasMark c.l1Poison line i && old.any fun e => e.1 / 32 == i)
      || (List.range 32).any fun j => (alookup (32 * i + j) old).isNone &&
        if tracked && (c.stashByte line (32 * i + j)).isSome then hasMark c.stashPoison line i else (imageMarks img).contains i
    setMarks (setMarks c.l1Poison line [0, 1, 2, 3] 0) line bad 1

/-- Installs a fill from an image of the line: only bytes whose valid bit is clear are filled (R274). -/
def Core.install (c : Core) (line : Nat) (tracked : Bool) (img : List Byte) : Core :=
  let old := ((c.lineOf line).map (·.bytes)).getD []
  let dirty := ((c.lineOf line).map (·.dirty)).getD []
  let data := if img.isEmpty then List.replicate 128 0 else img
  let bytes := (c.withStash line tracked data).map fun e => (e.1, (alookup e.1 old).getD e.2)
  { c with l1 := ⟨line, tracked, bytes, dirty⟩ :: removeFirst (fun l => l.line == line) c.l1, l1Poison := c.filledMarks line tracked img }

/-- Applies a daub copy: the pushed bytes fill every position that is not dirty (R330); the core's own stash bytes are merged, as in every fill (R275, R305). -/
def Core.applyCopy (c : Core) (line : Nat) (img : List Byte) : Core :=
  ((c.dropCleanLine line).install line true img).voidFills (· == line)

/-- The copy that serves a fill of a tracked line without its home: the guest copy of the core's sector (R280), or the copy of its die (R412). While the home tells the holders of a commit, none does. -/
def State.nearCopy (s : State) (core line : Nat) : Option (List Byte) :=
  match s.homeOf line with
  | none => none
  | some h =>
    if h.op == .notifying then none
    else if dieOf core = h.die then
      (s.guests.find? fun g => g.line == line && g.sector == sectorOf core && h.guests.contains g.sector).map (·.data)
    else (s.proxies.find? fun p => p.line == line && p.die == dieOf core && p.kind == .copy).map (·.bytes.map (·.2))

/-- The image that a fill of a line brings from a near copy or the home, and the presence bits and copies that it leaves (R280, R346, R349, R412). -/
def State.fillFrom (s : State) (core line : Nat) (tracked : Bool) : List Byte × State :=
  if lineHost line || !tracked then (s.lineImage line, s)
  else
    let data := (s.nearCopy core line).getD (s.homeLineData line)
    let img := imageOf s.poison line data
    let s1 := s.markPresent line core
    let h := s1.homeD line
    if dieOf core == h.die && sectorOf core != s.sectorAt line then
      if h.guests.contains (sectorOf core) then
        (img, { s1 with
          guests := updateFirst (fun g => g.line == line && g.sector == sectorOf core)
            (fun g => { g with clusters := dedup (g.clusters ++ [clusterOf core]) }) s1.guests })
      else
        (img, { (s1.mapHome line (fun h => { h with guests := h.guests ++ [sectorOf core] })) with
          guests := s1.guests.filter (fun g => !(g.line == line && g.sector == sectorOf core)) ++ [⟨line, sectorOf core, data, [clusterOf core]⟩] })
    else if dieOf core != h.die && !s1.proxies.any (fun p => p.line == line && p.die == dieOf core) then
      (img, { s1 with proxies := s1.proxies ++ [⟨line, dieOf core, .copy, (List.range 128).zip data, []⟩] })
    else (img, s1)

/-- The home answers a fill now: no operation is in progress, none waits, and the core's die holds no write-back of the line; a line whose write-back is on its way is read from the hold (R302, R416). -/
def State.fillable (s : State) (core line : Nat) : Bool :=
  !s.holdOf line (dieOf core) && match s.homeOf line with
    | none => true
    | some h => h.op == .idle && h.waiting.isEmpty && !(h.dir == .recalling)

/-- Outcome of an access that may have to wait, or that meets poison. -/
inductive Ld | ok (s : State) (bs : List Byte) | wait (s : State) | poison (s : State)

def Core.allValid (c : Core) (line off n : Nat) : Bool := (List.range n).all fun i => (c.byteOf line (off + i)).isSome
def Core.readL1 (c : Core) (line off n : Nat) : List Byte := (List.range n).map fun i => (c.byteOf line (off + i)).getD 0

/-- n bytes of one line after it is in the L1. -/
def State.finishLoad (s : State) (core line off n : Nat) : Ld :=
  let c := s.coreBy core
  if poisoned c.l1Poison (line * 128 + off) n then .poison s
  else .ok (s.mapCore core (·.touch line)) (c.readL1 line off n)

/-- A load that misses asks for a fill of its line: from another device, from a near copy or the home at once, or as a request that waits (R336, R346, R438). -/
def State.startFill (s : State) (core : Nat) (who : PodKey × Stream) (l : Loc) (n : Nat) : Ld :=
  let line := l.line
  let asked := s.mapCore core fun c => { c with fills := c.fills ++ [⟨line, l.tracked, false, [who], none⟩] }
  if lineRemote line then .wait (asked.sendRequest (lineDev line) (.read (line % spaceLines)) (.fill core line))
  else if s.fillable core line || (l.tracked && (s.nearCopy core line).isSome) then
    let a := s.fillFrom core line l.tracked
    ((a.2.respond core line (s.marks line)).mapCore core fun c => c.install line l.tracked a.1).finishLoad core line (l.key % 128) n
  else if !s.windowOpen core line then .wait s
  else if s.holdOf line (dieOf core) then .wait (asked.waitAtProxy line (dieOf core) (.fill ⟨core, line, false⟩))
  else .wait (asked.waitAtHome line (.fill ⟨core, line, false⟩))

/-- The data of the daub copy that a core's shelf holds of a line. -/
def Core.copyOf (c : Core) (line : Nat) : Option (List Byte) :=
  (c.shelf.find? fun e => e.line == line).bind fun e => e.copy.map (·.2)

/-- A load of the generic path by a core, for a stream of a pod (R274, R330, R346, R347, R438). -/
def State.loadGen (s0 : State) (core : Nat) (who : PodKey × Stream) (l : Loc) (n : Nat) : Ld :=
  let line := l.line
  let off := l.key % 128
  match (s0.touchHome l).alignLine core line l.tracked with
  | none => .wait (s0.touchHome l)
  | some s =>
    let c := s.coreBy core
    if c.allValid line off n then s.finishLoad core line off n
    else match (if l.tracked then c.copyOf line else none), c.servedTo line who, c.filling line with
      | some d, _, _ =>
        match s.makeRoom core line with
        | none => .wait s
        | some s =>
          (s.mapCore core fun c => { c.applyCopy line d with shelf := removeFirst (fun e => e.line == line) c.shelf }).finishLoad core line off n
      | none, some d, _ =>
        if imagePoison d off n then .poison s
        else
          let merged := c.withStash line l.tracked d
          .ok s ((List.range n).map fun i => (c.byteOf line (off + i)).getD ((alookup (off + i) merged).getD 0))
      | none, none, some _ => .wait (s.mapCore core (·.joinFill line who))
      | none, none, none =>
        match s.makeRoom core line with
        | none => .wait s
        | some s => s.startFill core who l n

/-- Bytes stored again are no longer the publication's to mark clean. -/
def State.storedAgain (s : State) (core line : Nat) (offs : List Nat) : State :=
  { s with pubs := s.pubs.map fun p =>
      if p.core = core then
        { p with parts := p.parts.map fun q => if q.line = line then { q with clean := q.clean.filter fun o => !offs.contains o } else q }
      else p }

/-- A store of the generic path: the bytes perform in the core (R274, R296). none: the access waits for a way. -/
def State.storeGen (s0 : State) (core job : Nat) (l : Loc) (bs : List Byte) : Option State :=
  let line := l.line
  (((s0.touchHome l).alignLine core line l.tracked).bind fun s => s.makeRoom core line).map fun s =>
    let s := s.storedAgain core line ((List.range bs.length).map (l.key % 128 + ·))
    s.mapCore core fun c =>
      let old := ((c.lineOf line).map (·.bytes)).getD []
      let dirty := ((c.lineOf line).map (·.dirty)).getD []
      let new := (lineSpan l.key bs)
      { c with l1 := ⟨line, l.tracked, new.foldl (fun m e => ainsert e.1 e.2 m) old, new.foldl (fun m e => ainsert e.1 job m) dirty⟩
                 :: removeFirst (fun x => x.line == line) c.l1
               l1Poison := setMarks c.l1Poison line (if old.isEmpty then [0, 1, 2, 3] else wholeOf new) 0 }

/-- A word whose accesses together have written every byte of a sector clears its mark (R404). -/
def Core.coverMarks (c : Core) (ls : List (Nat × LineBytes)) : Core :=
  if c.l1Poison.isEmpty then c else { c with l1Poison := ls.foldl (fun m e => setMarks m e.1 (wholeOf e.2) 0) c.l1Poison }

/-! ## Publication -/

/-- The dirty bytes of a core by line: its L1 bytes over its stash bytes (R300). -/
def Core.dirtyLines (c : Core) : List (Nat × LineBytes) :=
  (dedup ((c.l1.filter (fun l => l.tracked && !l.dirty.isEmpty)).map (·.line) ++ c.stash.map (·.line))).map fun line =>
    (line, ((c.stashLine line).map fun b => (b.off, b.val)).filter (fun e => ((c.dirtyBytes line).all fun d => d.1 != e.1)) ++ c.dirtyBytes line)

/-- Marks bytes of a line clean and frees the stash bytes they occupied (R301, step 5). -/
def Core.markClean (c : Core) (line : Nat) (offs : List Nat) : Core :=
  ((c.dropStash line fun o => offs.contains o).supersede line offs).voidFills (· == line)

/-- The job that wrote a dirty byte of a line. -/
def Core.jobAt (c : Core) (line : Nat) : Nat :=
  (((c.lineOf line).map fun l => l.dirty.map (·.2)).getD [] ++ (c.stashLine line).map (·.job)).headD 0

/-- Starts a publication of some lines: step 1 for each line of the device; bytes of far lines leave as writes (R301, R439). The answer is the publication to wait for, if any. -/
def State.publish (s : State) (core : Nat) (ls : List (Nat × LineBytes)) : Option Nat × State :=
  let far := ls.filter fun e => lineFar e.1
  let near := ls.filter fun e => !lineFar e.1
  let s1 := far.foldl (fun s e => (s.sendFar core e.1 e.2 ((s.coreBy core).badIn e.1 e.2) ((s.coreBy core).jobAt e.1) true).mapCore core (·.markClean e.1 (e.2.map (·.1)))) s
  if near.isEmpty then (none, s1)
  else
    let (id, s2) := s1.fresh
    (some id, { s2 with
      pubs := s2.pubs ++ [⟨id, core, near.map fun e => ⟨e.1, e.2, (s.coreBy core).badIn e.1 e.2, e.2.map (·.1), .sending⟩⟩]
      inflight := s2.inflight ++ near.map fun e => Msg.atCore core e.1 (.pendingBytes id e.1) })

/-- Bytes of a line that a publication under way carries and that have not been stored again since. -/
def State.flying (s : State) (core line : Nat) : List Nat :=
  s.pubs.flatMap fun p => if p.core = core then p.parts.flatMap fun q => if q.line = line then q.clean else [] else []

/-- A publication of every dirty byte of a core (R300): each byte is published once, so those under way go with the publication that carries them (R350). The answer is the last publication to wait for. -/
def State.publishAll (s : State) (core : Nat) : Option Nat × State :=
  let ls := (s.coreBy core).dirtyLines.map fun e => (e.1, e.2.filter fun b => !(s.flying core e.1).contains b.1)
  let r := s.publish core (ls.filter fun e => !e.2.isEmpty)
  (match r.1 with
    | some i => some i
    | none => ((s.pubs.filter fun p => p.core == core).map (·.id)).max?, r.2)

/-- A publication of a core is complete, and every one that it started before (R301). -/
def State.pubDone (s : State) (core id : Nat) : Bool := !s.pubs.any fun p => p.core == core && decide (p.id ≤ id)

/-- One publication is complete. -/
def State.pubGone (s : State) (id : Nat) : Bool := !s.pubs.any fun p => p.id == id

/-! ## Acquire -/

/-- Applies one entry of the shelf (R303, R330). It touches no line that the core holds untracked (R314). -/
def State.applyEntry (s : State) (core : Nat) (e : ShelfEntry) : State :=
  match e.copy with
  | none => s.mapCore core (·.dropCleanLine e.line)
  | some (_, d) =>
    if ((s.coreBy core).lineOf e.line).any (fun l => !l.tracked) then s
    else match s.makeRoom core e.line with
    | none => s.mapCore core (·.dropCleanLine e.line)
    | some s => s.mapCore core fun c => c.applyCopy e.line d

/-- Lines that a core's K-cache has asked for from other devices are not kept when they come. -/
def State.forgetK (s : State) (core : Nat) (sel : Nat → Bool) : State :=
  { s with peers := s.peers.map fun p =>
      { p with out := p.out.map fun r => match r.who with
        | .kfill c line => if c = core ∧ sel line then { r with who := .none } else r
        | _ => r } }

/-- Drops the K-cache of a core (R278). -/
def State.dropK (s : State) (core : Nat) : State := (s.mapCore core fun c => { c with kcache := [] }).forgetK core fun _ => true

/-- An acquire of a scope by a core (R303, R307). -/
def State.acquireOn (s : State) (core : Nat) (sc : Scope) : State :=
  match sc with
  | .pod | .wg => s
  | .dev | .sys =>
    let s1 := (s.coreBy core).shelf.foldl (fun s e => s.applyEntry core e) s
    (s1.mapCore core fun c =>
      let c := { c with shelf := [] }
      if sc = .sys then (c.dropCleanIf fun l => lineFar l.line).voidFills lineFar else c).dropK core

/-! ## The tile path -/

/-- Bytes of the tile path: published bytes with the core's stash, at the home slice; waits behind an operation in progress (R302, R365). -/
def State.tileRead (s : State) (core : Nat) (l : Loc) (n : Nat) : Ld :=
  if !(s.homeIdle l.line && s.homeIdle ((l.key + n - 1) / 128)) then .wait s
  else if s.pathBad core l n then .poison s
  else .ok s ((List.range n).map fun i => if l.tracked then s.mergedByte core (l.key + i) else s.homeByte (l.key + i))

/-- Bytes of one line stored by the tile path, with the marks of their sectors (R404): into the stash of a tracked line, into the home line of an untracked one (R296). An older byte of the same place in the core's L1 is dirty no more, so that the last store in program order stands (R28). The caller has seen to stash room (R276, R491). -/
def State.tileStore (s : State) (core job : Nat) (l : Loc) (ls : LineBytes) (bad : List Nat) : State :=
  let s := (s.touchHome l).mapCore core (·.supersede l.line (ls.map (·.1)))
  if !l.tracked then if lineFar l.line then s.sendFar core l.line ls bad job false else s.writeUntracked core l.line ls bad
  else (s.storedAgain core l.line (ls.map (·.1))).mapCore core fun c =>
    c.putStash l.line (stashSlice core l.line l.die) (ls.map fun e => ⟨e.1, e.2, job⟩) bad

/-- Moves the dirty bytes of lines of the L1 to the stash or home; they stay valid and clean (R320, R371). Lines without stash room are published (R491); the answer is that publication. -/
def State.flushLines (s : State) (core : Nat) (sel : Nat → Nat → Bool) : Option Nat × State :=
  let ls := (s.coreBy core).l1.filter fun l => l.dirty.any fun e => sel l.line e.1
  let step := fun (acc : List (Nat × LineBytes) × State) (l : L1Line) =>
    let d := l.bytes.filter fun e => l.isDirty e.1 && sel l.line e.1
    let bad := (s.coreBy core).badIn l.line d
    let slice := stashSlice core l.line (acc.2.homeDie l.line)
    let clean := fun (s : State) => s.mapCore core (·.supersede l.line (d.map (·.1)))
    if l.tracked then
      if acc.2.stashRoom core l.line slice then
        (acc.1, clean (acc.2.mapCore core fun c => c.putStash l.line slice (d.map fun e => ⟨e.1, e.2, (alookup e.1 l.dirty).getD 0⟩) bad))
      else (acc.1 ++ [(l.line, d)], acc.2)
    else (acc.1, clean (if lineFar l.line then acc.2.sendFar core l.line d bad ((l.dirty.map (·.2)).headD 0) false else acc.2.writeUntracked core l.line d bad))
  let (rest, s1) := ls.foldl step ([], s)
  s1.publish core rest

end Sys2Proof.Machine
end

