-- ==== Sys2Proof/Machine/Jobs.lean ====
section
/-! DEFINITION. Status words and completion records (R220, R221), command rings and their entries (R461, R462, R465), the end of launches, pipelines and jobs, cancellation (R222), the fault promise (R398) and the scraping of set groups (R451, R455). -/

namespace Sys2Proof.Machine

/-! ## Status words -/

/-- A status word (R221). -/
def status (code reason val idx : Nat) : W32 := BitVec.ofNat 32 (code * 2 ^ 24 + reason * 2 ^ 16 + val * 2 ^ 8 + idx)

def stOk : Nat := 0
def errAlign : Nat := 1
def errBounds : Nat := 2
def errFootprint : Nat := 3
def stFault : Nat := 4
def stClosed : Nat := 5
def stIncomplete : Nat := 6
def stCancelled : Nat := 7
def stScraped : Nat := 8

/-- Cause codes (R377). -/
def causeCode : Cause → Nat
  | .illegal => 0x01 | .latchLost => 0x02 | .priv => 0x03 | .misalign => 0x04 | .xlateAbsent => 0x05 | .xlatePerm => 0x06
  | .bI => 0x08 | .bZ => 0x09 | .bO => 0x0A | .bU => 0x0B | .bX => 0x0C
  | .dI => 0x10 | .dZ => 0x11 | .dO => 0x12 | .dU => 0x13 | .dX => 0x14
  | .intDiv0 => 0x18 | .brk => 0x20 | .trap => 0x21 | .coatSpan => 0x28 | .coatAcc => 0x29
  | .barMisuse => 0x30 | .pipeType => 0x31 | .pipeDeadlock => 0x32 | .bridgeUnmatched => 0x33
  | .poison => 0x38 | .matrixReset => 0x39

/-- The status of a unit that a fault ended. -/
def faultStatus (c : Cause) : W32 := status stFault (causeCode c) 0 0

/-! ## Bytes at virtual addresses of a context (R290) -/

/-- The first address of each line that n bytes from an address touch. -/
def spots (va n : Nat) : List Nat := (List.range ((va % 128 + n + 127) / 128)).map fun i => max va ((va / 128 + i) * 128)

/-- An access of the front end to n bytes has to wait: for the walk of a page (R289), or, with home set, for an operation at a home (R302). -/
def State.virtualWaits (s : State) (ctx va n : Nat) (home : Bool) : Bool :=
  (spots va n).any fun a => decide (a < 2 ^ 54) && (s.walkBusy 0 ctx a || (home && (s.locate 0 ctx a).any fun l => !s.homeIdle l.line))

/-- Bytes at a virtual address of a context, or why they cannot be read (R224, R236). The caller has waited. -/
def State.readVirtual (s : State) (ctx va : Nat) : Nat → Except Cause (List Byte)
  | 0 => .ok []
  | n + 1 =>
    match s.checkFlat 0 ctx (BitVec.ofNat 64 va) 1 false with
    | .ok l => if poisoned s.poison l.key 1 then .error Cause.poison else (s.readVirtual ctx (va + 1) n).map (s.homeByte l.key :: ·)
    | .trap c => .error c
    | .busy => .error .xlateAbsent

/-- Writes bytes at a virtual address of a context at dev scope, line by line; the cause of a failing check, with nothing written (R290, R402). The caller has waited. -/
def State.writeVirtual (s : State) (ctx va : Nat) (bs : List Byte) : Option Cause × State :=
  let bad := (spots va bs.length).findSome? fun a => match s.checkFlat 0 ctx (BitVec.ofNat 64 a) 1 true with
    | .ok _ => none
    | .trap c => some c
    | .busy => some .xlateAbsent
  match bad with
  | some c => (some c, s)
  | none =>
    (none, (splitLines va bs).foldl (fun s e => match s.locate 0 ctx (e.1 * 128 + (e.2.headD (0, 0)).1) with
      | some l => (s.touchHome l).writeHomeLine l.line e.2
      | none => s) s)

/-- Reads a tile with the marks of its sectors at a virtual address (R402, R404): a marked byte poisons its sector of the tile, and is no consumer. -/
def State.readTile (s : State) (ctx va n : Nat) : Except Cause Slot :=
  let keys := (List.range n).map fun i => match s.checkFlat 0 ctx (BitVec.ofNat 64 (va + i)) 1 false with
    | .ok l => Except.ok l.key
    | .trap c => .error c
    | .busy => .error Cause.xlateAbsent
  match keys.findSome? fun k => match k with
    | .error c => some c
    | .ok _ => none with
  | some c => .error c
  | none =>
    let ks := keys.filterMap fun k => match k with
      | .ok a => some a
      | .error _ => none
    .ok ⟨ks.map s.homeByte, dedup ((withIndex ks).filterMap fun e => if NMap.get s.poison (e.2 / 32) == 1 then some (e.1 / 32) else none)⟩

/-- Writes a tile with its marks at a virtual address of a context (R402, R404); the cause of a failing check, with nothing written. -/
def State.writeTile (s : State) (ctx va : Nat) (t : Slot) : Option Cause × State :=
  let r := s.writeVirtual ctx va t.data
  match r.1 with
  | some c => (some c, r.2)
  | none =>
    let keys := t.bad.flatMap fun i => (List.range 32).filterMap fun j =>
      if 32 * i + j < t.data.length then (r.2.locate 0 ctx (va + 32 * i + j)).map (·.key) else none
    (none, { r.2 with poison := keys.foldl (fun m k => NMap.set m (k / 32) 1) r.2.poison })

/-! ## Command rings -/

/-- The physical address of entry count c, and its 64 bytes (R461). -/
def Ring.entryAddr (r : Ring) : Nat := r.base + 64 * (r.head.toNat % 2 ^ r.k)
def State.ringEntry (s : State) (r : Ring) : List Byte := s.homeBytes r.entryAddr 64

/-- n bytes of an entry from an offset, as a number. -/
def field (e : List Byte) (off n : Nat) : Nat := natOfBytes ((e.drop off).take n)

/-- The operand bytes of an opcode, as offset and bit mask (R465). -/
def operandMasks : Nat → List (Nat × Nat)
  | 0x01 => ((List.range 28).map fun i => (8 + i, 255)) ++ [(36, 31)] ++ (List.range 8).map fun i => (40 + i, 255)
  | 0x02 => (List.range 8).map (fun i => (8 + i, 255)) ++ [16, 32, 48].flatMap fun b => (List.range 8).map fun i => (b + i, 255)
  | 0x03 => (8, 255) :: (List.range 8).map fun i => (16 + i, 255)
  | 0x04 => (List.range 8).map fun i => (8 + i, 255)
  | 0x05 => (List.range 16).map fun i => (8 + i, 255)
  | 0x06 => (List.range 24).map fun i => (8 + i, 255)
  | 0x07 => (List.range 16).map fun i => (8 + i, 255)
  | 0x08 => (List.range 6).map (fun i => (8 + i, 255)) ++ (List.range 8).map fun i => (16 + i, 255)
  | 0x40 => [(8, 255), (10, 255), (11, 255)] ++ (List.range 24).map fun i => (16 + i, 255)
  | 0x41 => (8, 255) :: (List.range 8).map fun i => (16 + i, 255)
  | 0x42 => (List.range 6).map (fun i => (8 + i, 255)) ++ (List.range 16).map fun i => (16 + i, 255)
  | 0x43 => [(8, 255), (9, 255)] ++ (List.range 8).map fun i => (16 + i, 255)
  | _ => []

/-- Opcode assigned, on a ring that may carry it, and every reserved bit zero (R462, R465). -/
def entryOk (ring : Nat) (e : List Byte) : Bool :=
  let op := field e 2 1
  let m := operandMasks op
  (if ring = 0 then op == 0x05 || (decide (0x40 ≤ op) && decide (op ≤ 0x43)) else decide (1 ≤ op) && decide (op ≤ 8))
  && decide (field e 3 1 ≤ 1)
  && (List.range 56).all fun i =>
      let b := field e (8 + i) 1
      match alookup (8 + i) m with
      | none => b == 0
      | some k => Nat.land b k == b

/-- The command that an entry carries. -/
def commandOf (ring : Nat) (op : Nat) : Option Msg :=
  let r : Fin 256 := Fin.ofNat 256 ring
  match op with
  | 0x01 => some (.launch r) | 0x02 => some (.pipeline r) | 0x03 => some (.cancelCommand r) | 0x04 => some (.jobEnd r)
  | 0x05 => some (.wait r) | 0x06 => some (.translationInvalidate r) | 0x07 => some (.descriptorInvalidate r)
  | 0x08 => some (.setResolve r) | 0x40 => some .contextCreate | 0x41 => some .contextEnd
  | 0x42 => some .ringConfigure | 0x43 => some .domain | _ => none

/-- Writes a ring's head record (R461). -/
def State.writeHead (s : State) (r : Ring) : State :=
  s.writeHome r.headAddr (toBytes r.head 4 ++ [BitVec.ofNat 8 r.state, 0, 0, 0])

/-- A ring stops (R462). -/
def State.stopRing (s : State) (n st : Nat) : State :=
  match s.ringBy n with
  | none => s
  | some r =>
    let s1 := s.mapRing n fun r => { r with state := st, busy := false }
    (s1.writeHead { r with state := st }).log 0x08 (if n = 0 then noCtx else r.ctx) [n, st, r.head.toNat]

/-- Starts the next command of a ring, if it may start (R230, R461, R462). Reading the entry waits behind an operation at its home (R302). -/
def State.ringNext (s : State) (n : Nat) : State :=
  match s.ringBy n with
  | none => s
  | some r =>
    if !r.conf || r.state ≠ 0 || r.busy || r.head = r.tail then s
    else if 2 ^ r.k < (r.tail - r.head).toNat then s.stopRing n 3
    else if !s.homeIdle (r.entryAddr / 128) then s.send (.ringFetch (Fin.ofNat 256 n))
    else
      let e := s.ringEntry r
      if field e 0 2 ≠ (r.q.toNat + r.head.toNat) % 65536 then s.stopRing n 1
      else if !entryOk n e then s.stopRing n 2
      else match commandOf n (field e 2 1) with
        | none => s.stopRing n 2
        | some m => (s.mapRing n fun r => { r with busy := true, entry := e }).send m

/-- Takes the entry that a command carries: head and head record (R461). -/
def State.takeEntry (s : State) (n : Nat) : State :=
  match s.ringBy n with
  | none => s
  | some r => (s.mapRing n fun r => { r with head := r.head + 1, waitLogged := false }).writeHead { r with head := r.head + 1 }

/-- Ring 0 as a write of en = 1 starts it (R463). -/
def Adm.ring (a : Adm) : Ring :=
  { n := 0, conf := true, base := a.base.toNat, headAddr := a.head.toNat, k := a.k.toNat, q := a.q, cls := 0, ctx := 0, tail := 0, head := 0, state := 0,
    busy := false, entry := [], waiting := none, waitLogged := false, msixPending := false }

/-- The command before has started: the next one may start (R230). A ring 0 that was disabled meanwhile stops here, and starts anew if it has been enabled again (R463). -/
def State.ringFree (s : State) (n : Nat) : State :=
  if n = 0 ∧ s.rings.any fun r => r.n == 0 && !r.conf then
    { s with rings := (s.rings.filter fun r => r.n != 0) ++ if s.adm.en then [s.adm.ring] else [] }
  else (s.mapRing n fun r => { r with busy := false }).ringNext n

/-! ## Completion records -/

/-- The bytes of a completion record (R220). -/
def recordBytes (st : W32) (count : Nat) : List Byte := toBytes st 4 ++ [0, 0, 0, 0] ++ toBytes (BitVec.ofNat 64 count) 8

/-- Writes a completion record in a context's address space, or logs why it could not; then the vector (R220, R465). The caller has waited. -/
def State.putRecordNow (s : State) (ctx ring op addr : Nat) (st : W32) (count : Nat) (msix : Bool) : State :=
  let bad := fun (c : Cause) => s.log 0x10 ctx [ring, op, addr % 2 ^ 32, addr / 2 ^ 32, (causeCode c)]
  let dirty := (spots addr 16).any fun a => (s.locate 0 ctx a).any fun l => poisoned s.poison l.key 1
  let s1 :=
    if addr = 0 then s
    else match s.writeVirtual ctx addr (recordBytes st count) with
      | (some c, _) => bad c
      | (none, t) => if dirty then bad .poison else t
  if msix then s1.out (.msix ring) else s1

/-- The record's place can be written at once. -/
def State.recordOpen (s : State) (ctx addr : Nat) : Bool := addr == 0 || !s.virtualWaits ctx addr 16 true

/-- A record of a unit with what stands between it and a release of sys scope now (R220, R307). -/
def State.newRecord (s : State) (ctx ring op addr : Nat) (st : W32) (count : Nat) (msix : Bool) (member : Option Nat) : CompletionRecord :=
  { id := s.nextId, ctx := ctx, ring := ring, op := op, addr := addr, st := st, count := count, msix := msix, member := member,
    pubs := s.pubs.map (·.id), host := s.hostPending
    writes := s.peers.flatMap fun p => (p.out.filter fun r => r.isWrite).map fun r => (p.dev, r.seq) }

/-- The release is complete, and the record can be written. -/
def State.recordReady (s : State) (r : CompletionRecord) : Bool :=
  s.recordOpen r.ctx r.addr
  && r.host == 0 && r.pubs.all s.pubGone
  && r.writes.all fun w => !((s.peerBy w.1).any fun p => p.out.any fun q => q.isWrite && q.seq == w.2)

/-- A record waits for its release. -/
def State.holdRecord (s : State) (r : CompletionRecord) : State := { s with nextId := s.nextId + 1, records := s.records ++ [r] }

def State.putRecord (s : State) (r : CompletionRecord) : State := s.putRecordNow r.ctx r.ring r.op r.addr r.st r.count r.msix

/-- The record of a command that ends no unit: it follows no release, but waits for its place. -/
def State.writeRecord (s : State) (ctx ring op addr : Nat) (st : W32) (count : Nat) (msix : Bool) : State :=
  if s.recordOpen ctx addr then s.putRecordNow ctx ring op addr st count msix
  else s.holdRecord { s.newRecord ctx ring op addr st count msix none with pubs := [], writes := [], host := 0 }

/-- A record of a ring-0 command or of any command named by its ring (R290). -/
def State.writeRingRecord (s : State) (r : Ring) (op addr : Nat) (st : W32) (count : Nat) (msix : Bool) : State :=
  if r.n = 0 then
    let s1 := if addr = 0 then s else s.writeHome addr (recordBytes st count)
    if msix then s1.out (.msix 0) else s1
  else s.writeRecord r.ctx r.n op addr st count msix

/-! ## Jobs -/

/-- Completes a context end once its jobs have ended (R465). -/
def State.ctxMaybeEnd (s : State) (ctx : Nat) : State :=
  match s.ctxBy ctx with
  | none => s
  | some c =>
    match c.ending with
    | none => s
    | some (addr, _, msix) =>
      if s.jobs.any (fun j => j.ctx == ctx && !j.ended) || s.records.any (fun r => r.ctx == ctx) then s
      else
        let s1 := match s.ringBy 0 with
          | none => s
          | some r => s.writeRingRecord r 0x41 addr 0 0 msix
        { s1 with ctxs := s1.ctxs.filter (fun c => c.n != ctx), descCache := s1.descCache.filter (fun e => e.1 != ctx) }.ringFree 0

/-- The record of a job is written; its context may end with it. -/
def State.landJobRecord (s : State) (r : CompletionRecord) : State := (s.putRecord r).ctxMaybeEnd r.ctx

/-- Ends a job that is closed and whose members have all counted (R219, R220). -/
def State.jobMaybeEnd (s : State) (serial : Nat) : State :=
  match s.hostJobBy serial with
  | none => s
  | some j =>
    if j.isOpen || j.ended || j.counted < j.members then s
    else
      let st := match j.faulted with
        | some c => faultStatus c
        | none => if j.cancelled then status stCancelled 0 0 0 else 0
      let s1 := s.mapHostJob serial fun j => { j with ended := true }
      let r := s1.newRecord j.ctx j.ring 0x04 j.record st j.counted j.msix none
      if s1.recordReady r then s1.landJobRecord r else s1.holdRecord r

/-- A member counts in its job (R220). -/
def State.countMember (s : State) (serial : Nat) : State :=
  (s.mapHostJob serial fun j => { j with counted := j.counted + 1 }).jobMaybeEnd serial

/-- The record of a launch or a pipeline is written, or would be: it counts in its job (R220). -/
def State.landRecord (s : State) (r : CompletionRecord) : State :=
  match r.member with
  | none => s.landJobRecord r
  | some j => (s.putRecord r).countMember j

/-- A launch or a pipeline of a job has ended or is refused: its record follows as a release of sys scope (R220). -/
def State.unitRecord (s : State) (ctx ring op addr : Nat) (st : W32) (count : Nat) (msix : Bool) (job : Nat) : State :=
  let r := s.newRecord ctx ring op addr st count msix (some job)
  if s.recordReady r then s.landRecord r else s.holdRecord r

/-- A record whose release is complete is written (R220). -/
def execCompletionRecord (id : Nat) (s : State) : State :=
  match s.records.find? (fun r => r.id == id) with
  | none => s
  | some r => if s.recordReady r then ({ s with records := removeFirst (fun r => r.id == id) s.records } : State).landRecord r else s

/-- The status of a member of a job that a cancellation or a fault has ended while it is still open (R222, log entry 83). -/
def HostJob.over (j : HostJob) : Option W32 :=
  match j.faulted with
  | some c => some (faultStatus c)
  | none => if j.cancelled then some (status stCancelled 0 0 0) else none

/-- The job that a command joins, or a new one (R219); the new member is counted among its members. Launch, pipeline and job end commands alone open a job (DEDUCED, log entry 93). -/
def State.joinJob (s : State) (ctx ring : Nat) (id : W32) : Nat × State :=
  match s.jobs.find? (fun j => j.ctx == ctx && j.id == id && j.isOpen) with
  | some j => (j.serial, s.mapHostJob j.serial fun j => { j with members := j.members + 1 })
  | none =>
    let (n, s1) := s.fresh
    (n, { s1 with jobs := s1.jobs ++
      [{ serial := n, ctx := ctx, id := id, isOpen := true, record := 0, ring := ring, msix := false, members := 1, counted := 0,
         ended := false, cancelled := false, faulted := none }] })

/-! ## Set groups -/

/-- A message of the set protocol to a device: over UALink, or to the hawk of the own device. -/
def State.sendSet (s : State) (dev : Nat) (op : RemoteOp) (own : Msg) (k : SetKey) : State :=
  if dev = s.dev then s.send own else s.sendRequest dev op (.set k)

/-- Gives a waiting SET its status (R452). -/
def State.answerSet (s : State) (who : Option PodKey) (st : W32) : State :=
  match who with
  | none => s
  | some p => s.mapPod p fun p => { p with sTxn := { p.sTxn with replies := [(0, st.setWidth 64)] } }

/-- Scrapes an epoch whose SET has not recorded its decision (R451, R455): the SET ends with the reason; by is the pod of the SCRAPE. -/
def State.scrapeOp (s : State) (o : SetOp) (reason : Nat) (by' : Option PodKey) : State :=
  let s1 := s.answerSet o.who (status stScraped reason 0 o.devs.length)
  let s2 := { s1 with sets := s1.sets.map fun x =>
    if x.key = o.key then { x with stage := .scraping, who := by', scraper := by'.isSome, answered := [] } else x }
  o.devs.foldl (fun s d => s.sendSet d (.setScrape o.key) (.setScrape o.key) o.key) s2

def State.groupOf (s : State) (ctx g : Nat) : Group :=
  (s.groups.find? (fun x => x.ctx == ctx && x.group == g)).getD ⟨ctx, g, 0, [], false⟩

/-- Moves a group to its next epoch (R451). -/
def State.closeEpoch (s : State) (ctx g : Nat) : State :=
  let x := s.groupOf ctx g
  let y : Group := { x with epoch := x.epoch + 1, counts := [], lost := false }
  if s.groups.any (fun x => x.ctx == ctx && x.group == g) then
    { s with groups := updateFirst (fun x => x.ctx == ctx && x.group == g) (fun _ => y) s.groups }
  else { s with groups := s.groups ++ [y] }

/-- What a SCRAPE does when it starts, and what a cancellation or fault does to a group (R222, R451): the open epoch and every earlier one not yet decided. The answer is the devices sent to. -/
def State.scrapeGroup (s : State) (ctx g reason : Nat) (by' : Option PodKey) : List Nat × State :=
  let x := s.groupOf ctx g
  let key : SetKey := ⟨s.dev, ctx, g, x.epoch⟩
  let devs := x.counts.map (·.1)
  let old := s.sets.filter fun o => o.key.ctx == ctx && o.key.group == g && o.stage == .preparing
  let s1 := old.foldl (fun s o => s.scrapeOp o reason by') (s.closeEpoch ctx g)
  let s2 := if devs.isEmpty then s1
    else { s1 with sets := s1.sets ++ [⟨key, devs, [], .scraping, s.cycle, s.cycle, by', by'.isSome, 0, 0⟩] }
  (dedup (old.flatMap (·.devs) ++ devs),
   devs.foldl (fun s d => s.sendSet d (.setScrape key) (.setScrape key) key) s2)

/-! ## Ending units -/

/-- Engine jobs that waited for a job, a copy unit or a landing slot look again (R353, R354, R363). -/
def State.nudge (s : State) : State :=
  s.sendAll (s.allCores.flatMap fun c =>
    (c.jobs.filter fun j => !j.started).map (fun j => Msg.jobStart c.n j.id) ++ (c.slotQueue.take 1).map fun j => Msg.landingSlotGrant c.n j)

/-- Removes workgroups with their pods, engine jobs and steps; a core without workgroups serves no context (R227). -/
def State.dropWgs (s : State) (sel : Wg → Bool) : State :=
  let ids := (s.allWgs.filter sel).map (·.id)
  let gone := fun (n : Nat) => ids.contains n
  let keep := s.allWgs.filter fun w => !gone w.id
  let lost := s.late.filter fun c => gone c.wg
  let core := fun (c : Core) =>
    { c with
      jobs := c.jobs.filter (fun j => !gone j.wg)
      slotQueue := c.slotQueue.filter fun i => c.jobs.all fun j => !(j.id == i && gone j.wg)
      steps := c.steps.filter (fun m => !gone m.wg)
      ka := match c.ka with
        | none => none
        | some k => if gone k.wg then none else some k
      ctx := if keep.any (fun w => w.resident && w.core == c.n) then c.ctx else none
      fills := (c.fills.map fun f => { f with waiters := f.waiters.filter fun k => !gone k.1.wg }).filter fun f => !(f.served.isSome && f.waiters.isEmpty) }
  let s1 : State := { s with
    pod := if s.pod.live && gone s.pod.key.wg then Pod.empty else s.pod
    pods := s.pods.filter (fun p => !gone p.key.wg)
    wg := if gone s.wg.id then Wg.empty else s.wg
    wgs := s.wgs.filter (fun w => !gone w.id)
    core := core s.core, cores := s.cores.map core
    turns := s.turns.filter (fun t => !gone t.1.wg)
    pipelines := s.pipelines.map fun l =>
      { l with pipes := l.pipes.map fun p =>
          { p with pushers := p.pushers.filter (fun k => !gone k.wg), poppers := p.poppers.filter (fun k => !gone k.wg) } }
    late := s.late.filter fun c => !gone c.wg
    sets := s.sets.map fun o => { o with who := match o.who with
      | some k => if gone k.wg then none else some k
      | none => none } }
  (lost.foldl (fun s c => (s.out (.answer c.src c.seq [1])).log 0x03 noCtx [c.src, c.core]) s1).nudge

/-- The key by which a transfer names the incast dispenser of its destination (R446): no byte has it. -/
def incastKey : Nat := spaceBytes

/-- A transfer as the waiter for a ticket: no workgroup has the number 0. -/
def xferKey (id : Nat) : PodKey := ⟨0, id⟩

/-- Serves the incast tickets of transfers that end early (R446) and drops the transfers. -/
def State.dropXfers (s : State) (sel : Xfer → Bool) : State :=
  let gone := s.xfers.filter sel
  let s1 := { s with xfers := s.xfers.filter fun x => !sel x }
  gone.foldl (fun s x =>
    if x.ticket.isNone then s
    else s.sendRequest x.dev (.ticket ⟨x.core, xferKey x.id, incastKey, .serve⟩) .none) s1

/-- Discards everything that launches hold in the machine (R222, R344, R398). -/
def State.dropLaunches (s : State) (ids : List Nat) : State :=
  let s1 := (s.dropWgs fun w => ids.contains w.launch).dropXfers fun x => ids.contains x.launch
  { s1 with
    seeds := s1.seeds.filter (fun r => !ids.contains r.launch)
    seedPods := s1.seedPods.filter (fun r => !ids.contains r.launch)
    rounds := s1.rounds.filter (fun r => !ids.contains r.launch)
    inflight := s1.inflight.filter fun m => match m with
      | .reductionContribution c => !ids.contains c.launch
      | _ => true
    deliveries := s1.deliveries.filter (fun r => !ids.contains r.launch) }

/-- Scrapes the set groups that launches have written, those that have completed among them (R222, R398, R455). -/
def State.scrapeWet (s : State) (sel : Launch → Bool) : State :=
  (dedup ((s.launches.filter sel).flatMap (·.wetGroups))).foldl (fun s g => (s.scrapeGroup g.1 g.2 0x05 none).2) s

/-- Discards the dirty bytes of a job that have not been sent, in the L1 and in the stash; the lines that it had made dirty keep none but other jobs' dirty bytes (R275, R317, R346). -/
def State.dropDirty (s : State) (job : Nat) : State :=
  s.mapCores fun c =>
    let stashed := fun (line : Nat) => c.stash.any fun l => l.line == line && l.bytes.any fun b => b.job == job
    let c1 : Core := { c with
      l1 := (c.l1.map fun l =>
        let mine := l.dirty.any (fun e => e.2 == job) || stashed l.line
        let lost := fun (o : Nat) => match alookup o l.dirty with
          | some j => j == job
          | none => mine
        { l with bytes := l.bytes.filter (fun e => !lost e.1), dirty := l.dirty.filter (fun e => e.2 != job) }).filter (fun l => !l.bytes.isEmpty)
      stash := (c.stash.map fun l => { l with bytes := l.bytes.filter fun b => b.job != job }).filter fun l => !l.bytes.isEmpty }
    c1.voidFills fun line => stashed line || c.l1.any fun l => l.line == line && l.dirty.any fun e => e.2 == job

/-- A launch that is no stage ends with a status: its record, its place in its job, its ring (R220, R230). -/
def State.finishLaunch (s : State) (id : Nat) (st : W32) : State :=
  match s.launchBy id with
  | none => s
  | some l =>
    if l.done then s
    else
      let s1 := s.mapLaunch id fun l => { l with done := true }
      if l.pipeline.isSome then s1
      else
        let s2 := s1.unitRecord l.ctx l.ring 0x01 l.record st l.count l.msix l.job
        if l.next < l.gx * l.gy * l.gz then s2.ringFree l.ring else s2

/-- The peers of a pipeline's bridges learn of its end (R457). -/
def State.closeBridges (s : State) (l : Pipeline) : State :=
  l.pipes.foldl (fun s p => match p.bridge with
    | none => s
    | some b => s.sendRequest b.peer (.bridgeClose (BitVec.ofNat 32 b.tag)) .none) s

/-- A pipeline ends with a status (R220, R258); a move that was under way is none any more (R240). -/
def State.finishPipeline (s : State) (id : Nat) (st : W32) : State :=
  match s.plBy id with
  | none => s
  | some l =>
    if l.state = .done then s
    else
      let s1 := s.mapPl id fun l => { l with state := .done, move := none, pipes := l.pipes.map fun p => { p with slots := [], spilled := 0 } }
      let s2 := l.stages.foldl (fun s g => s.mapLaunch g.launch fun l => { l with done := true }) s1
      let s3 := (s2.closeBridges l).unitRecord l.ctx l.ring 0x02 l.record st l.count l.msix l.job
      if l.state = .waiting then s3.ringFree l.ring else s3

/-! ## Ending units before their time (R222, R398) -/

/-- A pod that stands stopped inside its coat (R392). -/
def Pod.stopped (p : Pod) : Bool := p.stopReq && p.coat.isSome

/-- The lane stream is inside a word: one that waits for a full-empty bit is not (R186), nor one that will run again from its coat (R392). -/
def Pod.midLane (p : Pod) : Bool :=
  match p.queue with
  | [] => false
  | b :: _ => !(p.lFe && p.lHeld) && !p.stopped && (b.rep != 0 || p.lTxn.outstanding != 0 || !p.lTxn.replies.isEmpty)

/-- A stream is inside a word that has had an effect or has asked for one. -/
def Pod.midWord (p : Pod) : Bool :=
  p.midLane || p.sTxn.outstanding != 0 || p.lTxn.outstanding != 0 || (!p.sTxn.replies.isEmpty && !p.stopped)

/-- The pod stands at a word boundary on each stream, or runs no more. -/
def Pod.between (p : Pod) : Bool := p.exited || p.dead || !p.midWord

/-- Lane blocks that a pod whose unit ends will not run: all but the word that it is inside of. -/
def Pod.trimmed (p : Pod) : Pod :=
  if p.dying then { p with queue := if p.midLane then p.queue.take 1 else [] } else p

/-- The pod stops where it is: no word of it issues any more (R267, R398). -/
def Pod.cleared (p : Pod) : Pod :=
  { p with queue := [], sTxn := Txn.empty, lTxn := Txn.empty, held := .none, lHeld := false, lFe := false, dying := true, dead := true }

/-- The pods of some launches. -/
def State.podsOf (s : State) (ids : List Nat) : List Pod :=
  let ws := (s.allWgs.filter fun w => ids.contains w.launch).map (·.id)
  s.allPods.filter fun p => ws.contains p.key.wg

/-- Every pod of the units stands at a word boundary. -/
def State.endingReady (s : State) (e : Ending) : Bool := (s.podsOf e.launches).all Pod.between

/-- What becomes of units whose pods have stopped: everything that they hold is discarded, and their records are written (R222, R398). -/
def State.perform (s : State) (e : Ending) : State :=
  let s1 := (s.dropLaunches e.launches).scrapeWet fun l => e.launches.contains l.id || e.job == some l.job
  let s2 := match e.job with
    | some j => s1.dropDirty j
    | none => s1
  let s3 := e.pls.foldl (fun s id => s.finishPipeline id e.st) s2
  let s4 := e.launches.foldl (fun s id => s.finishLaunch id e.st) s3
  (match e.job with
    | some j => s4.jobMaybeEnd j
    | none => s4).send .placementDecision

/-- Ends the units whose pods have all stopped, in the order in which their ends began. -/
def State.runEndings (s : State) : State :=
  s.endings.foldl (fun s e => if s.endingReady e then ({ s with endings := removeFirst (fun x => x == e) s.endings } : State).perform e else s) s

/-- Begins to end units: nothing of them is placed any more, and their pods stop at their next word boundary. -/
def State.beginEnding (s : State) (e : Ending) : State :=
  let ws := (s.allWgs.filter fun w => e.launches.contains w.launch).map (·.id)
  let s1 : State := { s with
    launches := s.launches.map fun l => if e.launches.contains l.id then { l with ending := true } else l
    pipelines := s.pipelines.map fun l => if e.pls.contains l.id then { l with ending := true } else l
    endings := s.endings ++ [e] }
  (s1.mapPods fun p => if ws.contains p.key.wg then ({ p with dying := true } : Pod).trimmed else p).runEndings

/-- Ends a pipeline before its time. -/
def State.endPipeline (s : State) (id : Nat) (st : W32) : State :=
  match s.plBy id with
  | none => s
  | some l => if l.state = .done || l.ending then s else s.beginEnding ⟨l.stages.map (·.launch), [id], none, st⟩

/-- Ends a launch before its time; the launch of a stage takes its pipeline with it (R222). -/
def State.endLaunch (s : State) (id : Nat) (st : W32) : State :=
  match s.launchBy id with
  | none => s
  | some l =>
    match l.pipeline with
    | some (pl, _) => s.endPipeline pl st
    | none => if l.done || l.ending then s else s.beginEnding ⟨[id], [], none, st⟩

/-- Ends every member of a job. -/
def State.endJob (s : State) (serial : Nat) (st : W32) : State :=
  s.beginEnding ⟨(s.launches.filter fun l => l.job == serial && !l.done).map (·.id),
    (s.pipelines.filter fun l => l.job == serial && !(l.state == .done)).map (·.id), some serial, st⟩

/-- The fault promise (R398): the job ends with the cause. One that is being ended ends as it began to. -/
def State.faultJob (s : State) (serial : Nat) (c : Cause) : State :=
  match s.hostJobBy serial with
  | none => s.endJob serial (faultStatus c)
  | some j =>
    if j.ended || j.faulted.isSome || j.cancelled then s
    else (s.mapHostJob serial fun j => { j with faulted := some c }).endJob serial (faultStatus c)

/-- The cancellation of a job (R222). A job that has ended, faulted or been cancelled is left alone; no pod of such a job is left to run on (log entry 83). -/
def State.cancelJob (s : State) (serial : Nat) : State :=
  match s.hostJobBy serial with
  | none => s
  | some j =>
    if j.ended || j.faulted.isSome || j.cancelled then s
    else (s.mapHostJob serial fun j => { j with cancelled := true }).endJob serial (status stCancelled 0 0 0)

/-- The pod in focus stops, and its job faults (R398). -/
def State.faultPod (s : State) (c : Cause) : State :=
  let s1 : State := { s with pod := s.pod.cleared }
  match s1.curLaunch with
  | some l => s1.faultJob l.job c
  | none => s1.dropWgs fun w => w.id == s1.wg.id

end Sys2Proof.Machine
end

