-- ==== Sys2Proof/Machine/Ops.lean ====
section
/-! DEFINITION. Named operations of the pod in focus: registers, holding and moving on, coats, taking a trap (R378 to R381) and returning from one (R382), checked accesses, and the waits of releases (R299, R301, R307). -/

namespace Sys2Proof.Machine

/-! ## Scalar and mask registers -/

/-- The bank stands for s56 to s63 in the handler (R12). -/
def Pod.banked (p : Pod) (n : Nat) : Bool := p.inHandler && decide (56 ≤ n)

/-- A scalar register: s0 reads zero (R8). -/
def State.readS (s : State) (n : Nat) : W64 :=
  if n = 0 then 0 else if s.pod.banked n then NMap.get s.pod.bankS n else NMap.get s.pod.s n

/-- A lane mask: k0 reads the live lanes (R8). -/
def State.readK (s : State) (n : Nat) : W32 := if n = 0 then s.pod.liveMask else NMap.get s.pod.k n

/-- Closes the pod's coat and frees its journal entries (R386, R391). -/
def State.closeCoat (s : State) : State :=
  match s.pod.coat with
  | none => s
  | some _ =>
    { s with pod := { s.pod with coat := none }
             wg := { s.wg with journal := s.wg.journal.filter fun e => e.pod != s.pod.key.pod } }

/-- The same for a pod by its name. -/
def State.closeCoatOf (s : State) (k : PodKey) : State :=
  (s.mapPod k fun p => { p with coat := none }).mapWg k.wg fun w => { w with journal := w.journal.filter fun e => e.pod != k.pod }

/-- A live-in scalar register of the open coat (R384, R389). -/
def Pod.liveInS (p : Pod) (n : Nat) : Bool :=
  match p.coat with
  | none => false
  | some c => c.liveS.getLsbD n && !p.banked n

def Pod.liveInK (p : Pod) (n : Nat) : Bool :=
  match p.coat with
  | none => false
  | some c => c.km.getLsbD n

/-- Writes a scalar register: s0 ignores writes (R8); naming a live-in register closes the coat (R386). -/
def State.writeS (s : State) (n : Nat) (x : W64) : State :=
  if n = 0 then s
  else
    let s := if s.pod.liveInS n then s.closeCoat else s
    if s.pod.banked n then { s with pod := { s.pod with bankS := NMap.set s.pod.bankS n x } }
    else { s with pod := { s.pod with s := NMap.set s.pod.s n x } }

/-- Writes a lane mask: k0 ignores writes (R8). -/
def State.writeK (s : State) (n : Nat) (x : W32) : State :=
  if n = 0 then s
  else
    let s := if s.pod.liveInK n then s.closeCoat else s
    { s with pod := { s.pod with k := NMap.set s.pod.k n x } }

/-- Writes a status word, zero-extended (R221). -/
def State.writeStatus (s : State) (n : Nat) (w : W32) : State := s.writeS n (w.setWidth 64)

/-! ## Moving on and holding -/

/-- The S-stream goes on behind a word of len bytes (R18). -/
def State.advance (s : State) (len : Nat) : State :=
  { s with pod := { s.pod with pc := s.pod.pc + BitVec.ofNat 64 len, held := .none, sTxn := Txn.empty } }

/-- The S-stream goes on at an address. -/
def State.jump (s : State) (pc : W64) : State :=
  { s with pod := { s.pod with pc := pc, held := .none, sTxn := Txn.empty } }

/-- The coat that a wait opens: every register is live-in (R388). -/
def State.implicitCoat (s : State) : Coat :=
  { entry := s.pod.pc, liveS := BitVec.allOnes 64, vB := 0, vN := s.wg.grant.regs, km := BitVec.allOnes 16, allO := true,
    fsr := s.pod.fsr, ten := s.pod.ten, brnd := s.pod.brnd, drnd := s.pod.drnd }

/-- Takes the pod out of the waits that a held word registered. -/
def State.unwait (s : State) (k : PodKey) : State :=
  { s.mapCores (fun c => (c.leaveFills (k, .s)).leaveFills (k, .l)) with
    pipelines := s.pipelines.map fun l =>
      { l with pipes := l.pipes.map fun p => { p with pushers := p.pushers.filter (· != k), poppers := p.poppers.filter (· != k) } }
    homes := s.homes.map fun h => { h with sleepers := h.sleepers.filter fun e => e.1 != k } }

/-- The stream of a pod whose request a message carries: an operation that waits for its home on this device and has not begun. -/
def Msg.requestOf (k : PodKey) : Msg → Option Stream
  | .atomicAtHome r => if r.pod == k then some r.stream else none
  | .addstLine r => if r.pod == k then some .s else none
  | .ticketOperation r => if r.pod == k then some .s else none
  | .daubAtHome r => if r.pod == k then some .l else none
  | .atCore _ _ m => m.requestOf k
  | _ => none

/-- Withdraws the requests of a pod that wait for a home: none of them has had an effect (R268, R332). -/
def State.withdraw (s : State) (k : PodKey) : State :=
  let all := s.inflight ++ s.homes.flatMap (·.waiting) ++ s.proxies.flatMap (·.waiting)
  let n := fun (st : Stream) => (all.filter fun m => m.requestOf k == some st).length
  let keep := fun (m : Msg) => (m.requestOf k).isNone
  let s1 := s.mapPod k fun p =>
    { p with sTxn := { p.sTxn with outstanding := p.sTxn.outstanding - n .s }, lTxn := { p.lTxn with outstanding := p.lTxn.outstanding - n .l } }
  { s1 with inflight := s1.inflight.filter keep, homes := s1.homes.map fun h => { h with waiting := h.waiting.filter keep }
            proxies := s1.proxies.map fun p => { p with waiting := p.waiting.filter keep } }

/-- A pod stops inside its coat: it leaves every wait, and the word will run again (R268, R392). -/
def State.leaveWaits (s : State) (k : PodKey) : State := (s.unwait k).withdraw k

/-- Holds the S-stream at its word. A wait on a condition opens an implicit coat once the lane blocks are done (R388); a pod that has been asked to stop stops in it (R392). -/
def State.holdS (s : State) (h : Hold) : State :=
  let s := { s with pod := { s.pod with held := h } }
  if !(h == .none || h == .plain) && s.pod.coat.isNone && !s.pod.inHandler && s.pod.queue.isEmpty then
    let s1 : State := { s with pod := { s.pod with coat := some s.implicitCoat, count := 0 } }
    if s.pod.stopReq then s1.leaveWaits s.pod.key else s1
  else s

def State.holdL (s : State) : State := { s with pod := { s.pod with lHeld := true } }
def State.holdOn (s : State) : Stream → State
  | .s => s.holdS .plain
  | .l => s.holdL

/-- Runs k once every earlier lane block is complete (R30). -/
def State.afterLanes (s : State) (k : State → State) : State :=
  if s.pod.queue.isEmpty then k s else s.holdS .plain

/-! ## Traps -/

/-- Completes the SFU words in flight: registers and flags (R379). -/
def Pod.drainSfu (p : Pod) : Pod :=
  p.sfu.foldl (fun p o => { p with v := NMap.setMany p.v o.vw, o := NMap.setMany p.o o.ow, fsr := p.fsr ||| o.flags }) { p with sfu := [] }

/-- Taking a trap (R380): a trap in the handler or without one faults the job; otherwise the pod enters its handler. aside is the set-aside queue, len the length of a trapping S word, rep the repetition that trapped (R378). -/
def State.takeTrap (s : State) (c : Cause) (lane : Bool) (spc lpc : W64) (mask : W32) (addr : W64) (len rep : Nat)
    (aside : List Block) : State :=
  if s.pod.inHandler || s.desc.handler = 0 then s.faultPod c
  else
    let s := s.unwait s.pod.key
    let s := if c = .coatSpan then s.closeCoat else s
    let p := s.pod.drainSfu
    { s with pod := { p with
        shadow := p.b
        tcause := BitVec.ofNat 8 (causeCode c), tspc := spc, tlpc := lpc, tmask := mask, taddr := addr
        trapLane := lane, trapLen := len, trapRep := rep, tlpcEntry := lpc, setAside := aside
        spanTrap := c == .coatSpan
        queue := [], inHandler := true, pc := s.desc.handler
        held := .none, lHeld := false, lFe := false, sTxn := Txn.empty, lTxn := Txn.empty } }

/-- A trap of the S word at the program counter: earlier lane blocks complete first, and the word has no effect (R114). -/
def State.trapS (s : State) (len : Nat) (c : Cause) (addr : W64) : State :=
  if s.pod.queue.isEmpty then s.takeTrap c false s.pod.pc 0 0 addr len 0 [] else s.holdS .plain

/-- The address of an L word (R20). -/
def State.lAddr (s : State) (word : Nat) : W64 := s.desc.lbase + BitVec.ofNat 64 (12 * word)

/-- The L word that holds the byte at an address (R20), which may lie before the base (log entry 78). -/
def State.lWord (s : State) (a : W64) : Nat := ((a - s.desc.lbase).toInt / 12 % 2 ^ 64).toNat

/-- The word that a stream holds has had an effect, or has asked for one: it has issued and cannot begin again. -/
def Txn.sent (t : Txn) : Bool := decide (t.outstanding ≠ 0) || !t.replies.isEmpty || t.phase == 3 || t.phase == 4

/-- A trap of the lane word at the head of the queue, at repetition rep (R378, R90). It waits until an S word that has issued is complete; the S-stream goes ahead meanwhile. -/
def State.trapL (s : State) (c : Cause) (mask : W32) (addr : W64) (rep : Nat) : State :=
  if s.pod.sTxn.sent then ({ s with pod := { s.pod with lFe := true } } : State).holdL
  else match s.pod.queue with
    | [] => s
    | b :: r => s.takeTrap c true s.pod.pc (s.lAddr b.word) mask addr 4 rep ({ b with rep := rep } :: r)

/-- The return from a trap (R382): trapped is what the word at tlpc is: whether it is LEND, and its H bit. -/
def State.trapReturn (s : State) (skip : Bool) (isLend hBit : Bool) : State :=
  let p := s.pod
  let p1 := { p with b := p.shadow, inHandler := false, count := if p.spanTrap then 0 else p.count, spanTrap := false,
                     held := Hold.none, sTxn := Txn.empty }
  if !p.trapLane then
    { s with pod := { p1 with pc := p.tspc + BitVec.ofNat 64 (if skip then p.trapLen else 0), queue := [], setAside := [] } }
  else
    let word := s.lWord p.tlpc
    let same := p.tlpc = p.tlpcEntry
    let q := match p.setAside with
      | [] => []
      | b :: r =>
        let run := if same then b.hRun else 0
        if skip then
          if isLend then r else { b with word := word + 1, rep := 0, hRun := if hBit then run + 1 else 0 } :: r
        else if same then { b with rep := p.trapRep } :: r
        else { b with word := word, rep := 0, hRun := 0 } :: r
    { s with pod := { p1 with pc := p.tspc, queue := q, setAside := [] } }

/-! ## Checked accesses of the S-stream -/

/-- The checks of R131 for a scratchpad offset. -/
def checkScratch (window : Nat) (e : W64) (size : Nat) : Option Cause :=
  if e.toNat % size ≠ 0 then some .misalign
  else if window < e.toNat + size then some .xlateAbsent
  else none

/-- A word whose access has passed its checks keeps the place found until it is complete (R114). -/
def State.keepLoc (s : State) (e : W64) (l : Loc) : State :=
  { s with pod := { s.pod with sTxn := { s.pod.sTxn with locs := s.pod.sTxn.locs ++ [(e, l)] } } }

/-- A flat access of the S-stream under R130, checked when the word comes to it. -/
def State.flat (s : State) (len : Nat) (e : W64) (size : Nat) (store : Bool) (k : Loc → State → State) : State :=
  match s.pod.sTxn.locs.find? fun x => x.1 == e with
  | some x => k x.2 s
  | none =>
    match s.checkFlat s.core.n s.wg.ctx e size store with
    | .trap c => s.trapS len c e
    | .busy => s.holdS .plain
    | .ok l => k l ((s.holdLeaf s.core.n s.wg.ctx e.toNat (l.level, l.leaf)).keepLoc e l)

/-- A scratchpad access of the S-stream under R131. -/
def State.scratchAt (s : State) (len : Nat) (e : W64) (size : Nat) (k : State → State) : State :=
  match checkScratch s.wg.grant.scratch e size with
  | some c => s.trapS len c e
  | none => k s

/-- A load of the S-stream on the generic path; poison faults the job (R404). -/
def State.loadS (s : State) (l : Loc) (n : Nat) (k : List Byte → State → State) : State :=
  match s.loadGen s.core.n (s.pod.key, .s) l n with
  | .ok s bs => k bs s
  | .wait s => s.holdS .plain
  | .poison s => s.faultPod .poison

/-- Bytes of the window, for a load (R404). -/
def State.loadScratch (s : State) (off n : Nat) (k : List Byte → State → State) : State :=
  if poisoned s.wg.scratchPoison off n then s.faultPod .poison
  else k (NMap.bytes s.wg.scratch off n) s

/-- Writes bytes of the window; sectors written whole lose their mark (R404). -/
def Wg.putScratch (w : Wg) (off : Nat) (bs : List Byte) : Wg :=
  { w with scratch := NMap.setBytes w.scratch off bs
           scratchPoison := clearPoison w.scratchPoison ((List.range bs.length).map (off + ·)) }

/-- A word whose accesses together have written every byte of a sector clears its mark (R404). -/
def Wg.covered (w : Wg) (offs : List Nat) : Wg :=
  if w.scratchPoison.isEmpty then w else { w with scratchPoison := clearPoison w.scratchPoison offs }

/-! ## Barrier objects -/

/-- A barrier object (R249). -/
structure Bar where
  phase : W32
  expected : Nat
  arrivals : Nat
  expBytes : Nat
  arrBytes : Nat
deriving DecidableEq, Repr

def Wg.bar (w : Wg) (off : Nat) : Bar :=
  let b := NMap.bytes w.scratch off 16
  { phase := BitVec.ofNat 32 (natOfBytes (b.take 4)), expected := natOfBytes ((b.drop 4).take 2), arrivals := natOfBytes ((b.drop 6).take 2),
    expBytes := natOfBytes ((b.drop 8).take 4), arrBytes := natOfBytes (b.drop 12) }

def Bar.bytes (o : Bar) : List Byte :=
  toBytes o.phase 4 ++ toBytes (BitVec.ofNat 16 o.expected) 2 ++ toBytes (BitVec.ofNat 16 o.arrivals) 2
  ++ toBytes (BitVec.ofNat 32 o.expBytes) 4 ++ toBytes (BitVec.ofNat 32 o.arrBytes) 4

/-- The completion rule (R250). -/
def Bar.complete (o : Bar) : Bar :=
  if o.expected ≠ 0 ∧ o.arrivals = o.expected ∧ o.expBytes ≤ o.arrBytes then
    { o with arrBytes := o.arrBytes - o.expBytes, expBytes := 0, arrivals := 0, phase := o.phase + 1 }
  else o

def Wg.putBar (w : Wg) (off : Nat) (o : Bar) : Wg := w.putScratch off o.bytes

/-- After a store at the port, the completion rule is applied to each known object that it touched (R250). -/
def Wg.settle (w : Wg) (off n : Nat) : Wg :=
  (w.objects.filter fun x => decide (x < off + n) && decide (off < x + 16)).foldl
    (fun w x => if (w.bar x).complete = w.bar x then w else w.putBar x (w.bar x).complete) w

def Wg.portStore (w : Wg) (off : Nat) (bs : List Byte) : Wg := (w.putScratch off bs).settle off bs.length

def State.storeScratch (s : State) (off : Nat) (bs : List Byte) : State := { s with wg := s.wg.portStore off bs }

/-- A release of a scope waits for the stores of earlier lane blocks as well; the hold of an S word sees to that (R29, R299). -/
def releaseOrders : Order → Bool
  | .rel | .acqrel => true
  | _ => false
def acquireOrders : Order → Bool
  | .acq | .acqrel => true
  | _ => false

/-! ## Releases and acquires -/

def State.txn (s : State) : Stream → Txn
  | .s => s.pod.sTxn
  | .l => s.pod.lTxn

def State.setTxn (s : State) (st : Stream) (t : Txn) : State :=
  match st with
  | .s => { s with pod := { s.pod with sTxn := t } }
  | .l => { s with pod := { s.pod with lTxn := t } }

/-- Part ph of a word: starts a publication, waits for it and for more, and goes on with k. The parts of one word are numbered 0, 2, 4. -/
def State.awaitPub (s : State) (st : Stream) (ph : Nat) (start : State → Option Nat × State) (more : State → Bool)
    (k : State → State) : State :=
  let t := s.txn st
  if ph + 2 ≤ t.phase then k s
  else if t.phase = ph + 1 then
    if (match t.pub with | none => true | some i => s.pubDone s.core.n i) && more s then k (s.setTxn st { t with phase := ph + 2, pub := none })
    else s.holdOn st
  else
    let r := start s
    if r.1.isNone && more r.2 then k (r.2.setTxn st { t with phase := ph + 2, pub := none })
    else (r.2.setTxn st { t with phase := ph + 1, pub := r.1 }).holdOn st

/-- A release of a scope as part ph of a word (R299, R307). -/
def State.release (s : State) (st : Stream) (ph : Nat) (sc : Scope) (k : State → State) : State :=
  match sc with
  | .pod | .wg => k s
  | .dev => s.awaitPub st ph (fun s => s.publishAll s.core.n) (fun s => s.pod.daubOut == 0) k
  | .sys => s.awaitPub st ph (fun s => s.publishAll s.core.n) (fun s => s.pod.daubOut == 0 && s.farAcked s.core.n) k

/-- An acquire of a scope by the pod in focus (R303, R307). -/
def State.acquire (s : State) (sc : Scope) : State := s.acquireOn s.core.n sc

end Sys2Proof.Machine
end

