-- ==== Sys2Proof/Machine/Box.lean ====
section
/-! DEFINITION. Boxes of a layout entry (R137, R208 to R210, R272, R291): elements, their addresses, the checks before a move, and the reads and writes of the tile path on the workgroup and core in focus. -/

namespace Sys2Proof.Machine

def LayEntry.bits (e : LayEntry) (lo len : Nat) : Nat := e.ctl.toNat / 2 ^ lo % 2 ^ len
def LayEntry.space (e : LayEntry) : Nat := e.bits 0 2
def LayEntry.rank (e : LayEntry) : Nat := e.bits 2 3
def LayEntry.fmtCode (e : LayEntry) : Nat := e.bits 5 5
def LayEntry.fmt (e : LayEntry) : Fmt := (Fmt.ofCode e.fmtCode).getD (.ty .i32)
def LayEntry.perm (e : LayEntry) : Nat := e.bits 10 8
/-- Box size in a dimension. -/
def LayEntry.box (e : LayEntry) (d : Nat) : Nat := e.bits (18 + 8 * d) 8 + 1
def LayEntry.extent (e : LayEntry) (d : Nat) : Nat := (e.ext.getD d 0).toNat
def LayEntry.strideOf (e : LayEntry) (d : Nat) : Nat := (e.stride.getD (d - 1) 0).toNat
def LayEntry.volume (e : LayEntry) : Nat := e.box 0 * e.box 1 * e.box 2 * e.box 3 * e.box 4

/-- Scale bytes of a group of 32 elements (R191). -/
def scaleBytes : Fmt → Nat
  | .mx8 => 1
  | .w4 | .w3 => 2
  | .ty _ => 0

/-- The permutation of R272. -/
def swz (perm x : Nat) : Nat := Nat.xor x (Nat.land (x / 2 ^ (8 + perm / 16) % 16) (perm % 16) * 16)

/-- Source coordinates of box element L (R208); org are the origins, zero above the rank. -/
def LayEntry.coords (e : LayEntry) (org : List Int) (l : Nat) : List Int :=
  let x0 := l % e.box 0
  let l1 := l / e.box 0
  let x1 := l1 % e.box 1
  let l2 := l1 / e.box 1
  let x2 := l2 % e.box 2
  let l3 := l2 / e.box 2
  let x3 := l3 % e.box 3
  let x4 := l3 / e.box 3
  (List.range 5).map fun d => org.getD d 0 + Int.ofNat ([x0, x1, x2, x3, x4].getD d 0)

def LayEntry.inside (e : LayEntry) (c : List Int) : Bool :=
  (List.range e.rank).all fun d => decide (0 ≤ c.getD d 0) && decide (c.getD d 0 < Int.ofNat (e.extent d))

/-- Byte address of an inside element, modulo 2^64, and which nibble of it for a 4-bit format. -/
def LayEntry.address (e : LayEntry) (c : List Int) : Nat × Nat :=
  let n := fun d => (c.getD d 0).toNat
  let outer := (List.range 4).foldl (fun a d => if d + 1 < e.rank then a + n (d + 1) * e.strideOf (d + 1) else a) 0
  if e.fmt.bits = 4 then ((e.base.toNat + n 0 / 2 + outer) % 2 ^ 64, n 0 % 2)
  else ((e.base.toNat + n 0 * (e.fmt.bits / 8) + outer) % 2 ^ 64, 0)

/-- Bytes of an element as an access. -/
def LayEntry.size (e : LayEntry) : Nat := if e.fmt.bits = 4 then 1 else e.fmt.bits / 8

/-- A box element: its dense index, and its place when it is inside. -/
structure Elem where
  l : Nat
  place : Option (Nat × Nat)
deriving DecidableEq, Repr

def LayEntry.elems (e : LayEntry) (org : List Int) : List Elem :=
  (List.range e.volume).map fun l =>
    let c := e.coords org l
    ⟨l, if e.inside c then some (e.address c) else none⟩

/-- The scale of the group that begins at box element L, where it is inside (R209): its address modulo 2^64. -/
def LayEntry.scaleAt (e : LayEntry) (org : List Int) (l : Nat) : Option Nat :=
  let c := e.coords org l
  if e.fmt.scaled && e.inside c then
    let n := fun d => (c.getD d 0).toNat
    let x := fun d => e.extent d
    let s := (((n 4 * x 3 + n 3) * x 2 + n 2) * x 1 + n 1) * (x 0 / 32) + n 0 / 32
    some ((e.scale.toNat + s * scaleBytes e.fmt) % 2 ^ 64)
  else none

/-- Every place a move through the entry touches, in the order of its checks (R210): address, bytes. Only elements that pass keep are moved. -/
def LayEntry.places (e : LayEntry) (org : List Int) (keep : Nat → Bool) (scales : Bool) : List (Nat × Nat) :=
  (e.elems org).flatMap fun x =>
    (match x.place with
     | some p => if keep x.l then [(p.1, e.size)] else []
     | none => []) ++
    (if scales && x.l % 32 == 31 then
      match e.scaleAt org (x.l - 31) with
      | some a => [(a, scaleBytes e.fmt)]
      | none => []
     else [])

/-- What a move asks of its pages beside R130: a local page, a tag that fits a scaled format (R291, R437), and for ADDST a tracked one (R324). -/
def pageAllows (own : Nat) (e : LayEntry) (needTracked : Bool) (leaf : W64) : Bool :=
  leafDev leaf == own
  && (!e.fmt.scaled || leafTag leaf == 0 || (leafTag leaf == e.fmtCode - 15))
  && (!needTracked || leafTracked leaf)

/-- A place of a move waits for a walk before it can be checked (R289, R302). -/
def State.placesWait (s : State) (e : LayEntry) (ps : List (Nat × Nat)) : Bool :=
  e.space != 1 && ps.any fun p => decide (p.1 < 2 ^ 54) && s.walkBusy s.core.n s.wg.ctx p.1

/-- The first failing check of a move (R210): its cause and address. The caller has waited. -/
def State.checkPlaces (s : State) (e : LayEntry) (ps : List (Nat × Nat)) (store needTracked : Bool) : Option (Cause × W64) :=
  ps.findSome? fun p =>
    let a := BitVec.ofNat 64 p.1
    if e.space = 1 then (checkScratch s.wg.grant.scratch a p.2).map fun c => (c, a)
    else match s.checkFlat s.core.n s.wg.ctx a p.2 store with
      | .trap c => some (c, a)
      | .busy => none
      | .ok l => if pageAllows s.dev e needTracked l.leaf then none else some (.xlatePerm, a)

/-- Where a byte of a move lies: a window byte, or a byte key with its leaf. -/
inductive Where | win (off : Nat) | mem (l : Loc) | none
deriving DecidableEq, Repr

def State.whereIs (s : State) (e : LayEntry) (a : Nat) : Where :=
  if e.space = 1 then .win (swz e.perm a)
  else match s.locate s.core.n s.wg.ctx a with
    | some l => .mem l
    | none => .none

/-- The move has to wait behind an operation at a home, or meets poison (R302, R404). -/
def State.boxWaits (s : State) (e : LayEntry) (ps : List (Nat × Nat)) : Bool :=
  ps.any fun p => match s.whereIs e p.1 with
    | .mem l => !s.homeIdle l.line
    | _ => false

def State.boxPoison (s : State) (e : LayEntry) (ps : List (Nat × Nat)) : Bool :=
  ps.any fun p => match s.whereIs e p.1 with
    | .mem l => s.pathBad s.core.n l p.2
    | .win o => poisoned s.wg.scratchPoison o p.2
    | .none => false

/-- n bytes at an address of a box, on the tile path or at the scratchpad port: one access, which uses one translation (R294). -/
def State.boxRead (s : State) (e : LayEntry) (a n : Nat) : List Byte :=
  match s.whereIs e a with
  | .win _ => (List.range n).map fun i => NMap.get s.wg.scratch (swz e.perm (a + i))
  | .mem l => (List.range n).map fun i => if l.tracked then s.mergedByte s.core.n (l.key + i) else s.homeByte (l.key + i)
  | .none => List.replicate n 0

/-- The stash takes all that a move writes to its places (R276, R491). -/
def State.placesFit (s : State) (e : LayEntry) (ps : List (Nat × Nat)) : Bool :=
  e.space == 1 || s.stashFits s.core.n (ps.filterMap fun p => match s.whereIs e p.1 with
    | .mem l => some l
    | _ => none)

/-- One access of a move: its address, its bytes, and whether they carry a mark (R404). -/
structure Put where
  addr : Nat
  bytes : List Byte
  bad : Bool
deriving DecidableEq, Repr

/-- The places that accesses of a move to memory write. -/
def State.putLocs (s : State) (ws : List Put) : List (Loc × Put) :=
  ws.filterMap fun x => (s.locate s.core.n s.wg.ctx x.addr).map fun l => (l, x)

/-- Bytes that accesses store to one line, a later one winning. -/
def bytesAt (ws : List (Loc × Put)) (line : Nat) : LineBytes :=
  (ws.filter fun x => x.1.line == line).foldl (fun m x => (lineSpan x.1.key x.2.bytes).foldl (fun m b => ainsert b.1 b.2 m) m) []

/-- Sectors of a line that accesses store marked bytes to. -/
def badAt (ws : List (Loc × Put)) (line : Nat) : List Nat :=
  dedup ((ws.filter fun x => x.1.line == line && x.2.bad).map fun x => x.1.key % 128 / 32)

/-- Stores bytes at the scratchpad port: cells as offsets and bytes, the marks of their sectors, and the completion rule for the objects that they touch (R250, R404). -/
def Wg.putCells (w : Wg) (cells : List (Nat × Byte)) (bad : List Nat) : Wg :=
  let w1 : Wg := { w with
    scratch := NMap.setMany w.scratch cells
    scratchPoison := bad.foldl (fun m i => NMap.set m i 1) (if w.scratchPoison.isEmpty then [] else clearPoison w.scratchPoison (cells.map (·.1))) }
  (w.objects.filter fun x => cells.any fun c => decide (x ≤ c.1) && decide (c.1 < x + 16)).foldl (fun w x => w.settle x 16) w1

/-- The cells of accesses of a move to the scratchpad (R272). -/
def putCellsOf (e : LayEntry) (ws : List Put) : List (Nat × Byte) :=
  ws.flatMap fun x => ((List.range x.bytes.length).zip x.bytes).map fun b => (swz e.perm (x.addr + b.1), b.2)

/-- Sectors of the scratchpad that accesses store marked bytes to. -/
def putBadOf (e : LayEntry) (ws : List Put) : List Nat := dedup ((ws.filter (·.bad)).map fun x => swz e.perm x.addr / 32)

/-- Writes the accesses of a move: into the stash or home lines, or at the scratchpad port. -/
def State.boxStore (s : State) (job : Nat) (e : LayEntry) (ws : List Put) : State :=
  if e.space = 1 then { s with wg := s.wg.putCells (putCellsOf e ws) (putBadOf e ws) }
  else
    let ls := s.putLocs ws
    (dedup (ls.map fun x => x.1.line)).foldl (fun s line =>
      match ls.find? fun x => x.1.line == line with
      | some x => s.tileStore s.core.n job x.1 (bytesAt ls line) (badAt ls line)
      | none => s) s

/-- The bytes of a box element, a nibble as one byte. -/
def State.readElem (s : State) (e : LayEntry) (p : Nat × Nat) : List Byte :=
  let bs := s.boxRead e p.1 e.size
  if e.fmt.bits = 4 then bs.map fun b => if p.2 = 0 then b &&& 15 else b >>> 4 else bs

/-- Adds an element to the accesses of a move; the other nibble of its byte keeps its value. -/
def State.addElem (s : State) (e : LayEntry) (ws : List Put) (p : Nat × Nat) (bs : List Byte) (bad : Bool) : List Put :=
  if e.fmt.bits = 4 then
    let was := ws.find? fun x => x.addr == p.1
    let old := ((was.map (·.bytes)).getD (s.boxRead e p.1 1)).getD 0 0
    let b := bs.getD 0 0
    let new : Put := ⟨p.1, [if p.2 = 0 then (old &&& 0xF0) ||| (b &&& 15) else (old &&& 15) ||| (b <<< 4)], bad || was.any (·.bad)⟩
    if was.isSome then updateFirst (fun x => x.addr == p.1) (fun _ => new) ws else ws ++ [new]
  else ws ++ [⟨p.1, bs, bad⟩]

/-- Poison marks of the sectors of consecutive bytes, as a list of sector numbers. -/
def marksOf (m : NMap 1) (lo n : Nat) : List Nat :=
  ((List.range (n / 32)).filter fun i => NMap.get m (lo / 32 + i) == 1)

/-! ## Tiles -/

/-- Bytes of a tile register (R189). -/
def Wg.tileBytes (w : Wg) (t off n : Nat) : List Byte := NMap.bytes w.tile (t * 2048 + off) n

/-- A write to a tile register releases the operand latch (R199). -/
def Core.releaseKa (c : Core) (wg t : Nat) : Core :=
  { c with ka := match c.ka with
      | none => none
      | some k => if k.wg = wg ∧ k.tile = t then none else some k }

/-- Writes consecutive bytes of a tile of the workgroup in focus. -/
def State.putTile (s : State) (t off : Nat) (bs : List Byte) : State :=
  { s with
    wg := { s.wg with
      tile := NMap.setBytes s.wg.tile (t * 2048 + off) bs
      tilePoison := clearPoison s.wg.tilePoison ((List.range bs.length).map (t * 2048 + off + ·)) }
    core := s.core.releaseKa s.wg.id t }

/-- Nibbles packed two to a byte, the even one lower (R190). -/
def packNibbles : List Byte → List Byte
  | [] => []
  | [a] => [a]
  | a :: b :: r => (a ||| (b <<< 4)) :: packNibbles r

/-- The bytes of element l of dense data, a nibble as one byte (R208). -/
def LayEntry.datum (e : LayEntry) (data : NMap 8) (l : Nat) : List Byte :=
  if e.fmt.bits = 4 then
    let b := NMap.get data (l / 2)
    [if l % 2 = 0 then b &&& 15 else b >>> 4]
  else NMap.bytes data (l * e.size) e.size

/-- Dense data of a box: elements outside the extents are zero (R208). -/
def State.readBox (s : State) (e : LayEntry) (org : List Int) : List Byte :=
  let bs := (e.elems org).flatMap fun x => match x.place with
    | some p => s.readElem e p
    | none => List.replicate e.size 0
  if e.fmt.bits = 4 then packNibbles bs else bs

/-- The accesses that write dense data to the inside elements of a box (R208); bad are the sectors of the data that carry a mark. -/
def State.boxPuts (s : State) (e : LayEntry) (org : List Int) (data : NMap 8) (bad : Nat → Bool) : List Put :=
  (e.elems org).foldl (fun ws x => match x.place with
    | some p => s.addElem e ws p (e.datum data x.l) (bad (x.l * e.fmt.bits / 256))
    | none => ws) []

/-- The workgroup's layout entry, when valid. -/
def Wg.entry (w : Wg) (n : Nat) : Option LayEntry := alookup n w.lay

/-- Coordinates of a box from s_a on (R206). A register past s63 reads as 0, for the words in which no rule refuses it (DESIGN CHOICE, log entry 95). -/
def State.coordsFrom (s : State) (a rank : Nat) : List Int :=
  (List.range 5).map fun d => if d < rank then (s.readS (a + d)).toInt else 0

/-- Runs a change with another workgroup and its core in focus. -/
def State.onWg (s : State) (id : Nat) (f : State → State) : State :=
  if s.wg.id = id then f s
  else
    let back := s.wg.id
    let s1 := f (s.focusWg id)
    if back = 0 then s1 else s1.focusWg back

end Sys2Proof.Machine
end

