-- ==== Sys2Proof/Machine/Coherence.lean ====
section
/-! DEFINITION. Steps of homes, shelves, guests, proxies and HBM4E controllers (R301 to R306, R345 to R350, R412 to R423, R285, R374). -/

namespace Sys2Proof.Machine

/-! ## Sets that a publication or an acknowledgement completes -/

/-- A device has acknowledged a commit or a scrape (R452): the SET is done when every device has. -/
def State.setAcked (s : State) (k : SetKey) (dev : Nat) : State :=
  match s.sets.find? (fun o => o.key == k) with
  | none => s
  | some o =>
    let ans := if o.answered.contains dev then o.answered else o.answered ++ [dev]
    if o.stage == .preparing then s
    else if o.devs.all ans.contains then
      let s1 : State := { s with sets := s.sets.filter fun o => o.key != k }
      if o.stage == .committing then
        let s2 := s1.answerSet o.who (status stOk 0 (o.devs.length / 256) (o.devs.length % 256))
        { s2 with skepin := { s2.skepin with decisions := s2.skepin.decisions.filter fun e =>
            !(e.code == 0x05 && e.ctx == k.ctx && e.detail.take 2 == [BitVec.ofNat 32 k.group, k.epoch.setWidth 32]) } }
      else s1
    else { s with sets := updateFirst (fun o => o.key == k) (fun o => { o with answered := ans }) s.sets }

/-- A device that has applied or discarded a set tells its source (R452). -/
def State.tellSetDone (s : State) (k : SetKey) : State :=
  if k.src = s.dev then s.setAcked k s.dev else s.sendRequest k.src (.setDone k) .none

/-- A set whose publication is complete has been applied (R453). -/
def State.hawkApplied (s : State) (pub : Nat) : State :=
  (s.hawk.filter fun h => h.pub == some pub).foldl
    (fun s h => ({ s with hawk := s.hawk.filter fun x => x.key != h.key } : State).tellSetDone h.key) s

/-! ## Cross-die directory -/

/-- The die from which a publication comes: sets of the hawk act as from the home die. -/
def pubDie (core : Nat) (h : HomeLine) : Nat := if core < Config.cores then dieOf core else h.die

/-- The home has taken the bytes of one line of a publication as pending; notices leave (R349). -/
def State.takePending (s : State) (p : Publication) (q : PubPart) : State :=
  let s1 : State := { s with pubs := s.pubs.map fun x =>
    if x.id = p.id then { x with parts := x.parts.map fun y => if y.line = q.line then { y with stage := .pending } else y } else x }
  let s2 := s1.mapHome q.line fun h => { h with pend := q.bytes }
  s2.notify q.line (.pending p.id) [p.core] (if p.core < Config.cores then [clusterOf p.core] else []) []

/-- An earlier publication of a core has not yet reached the home of a line: the two go there in order (R301). -/
def State.sendsBefore (s : State) (core line pub : Nat) : Bool :=
  s.pubs.any fun p => p.core == core && decide (p.id < pub) && p.parts.any fun q => q.line == line && q.stage == .sending

/-- Step 1 of a publication reaches the home of a line (R301, R349, R415, R417). -/
def execPendingBytes (pub line : Nat) (s : State) : Res :=
  ok <| match s.pubs.find? (fun p => p.id == pub) with
  | none => s
  | some p =>
    match p.parts.find? (fun q => q.line == line && q.stage == .sending) with
    | none => s
    | some q =>
      let h := s.homeD line
      let d := pubDie p.core h
      let offs := q.bytes.map (·.1)
      if s.sendsBefore p.core line pub then s.send (.pendingBytes pub line)
      else if s.holdOf line d then s.waitAtProxy line d (.pendingBytes pub line)
      else if !s.homeIdle line then s.waitAtHome line (.pendingBytes pub line)
      else match h.dir with
        | .home =>
          if d ≠ h.die ∧ h.dies.all (· == d) ∧ h.clusters.all (fun c => c / 18 == d) ∧ h.guests.isEmpty then
            (s.mapHome line fun h => { h with op := .pending pub, dir := .owned d, dies := [d] }).send (.ownershipGrant d line pub)
          else s.takePending p q
        | .owned o =>
          if d = o then s.takePending p q
          else
            let own := ((s.proxies.find? fun x => x.line == line && x.die == o).map (·.bytes)).getD []
            let mask := (own.filter fun e => e.2 != NMap.get s.mem (line * 128 + e.1)).map (·.1)
            if offs.any mask.contains then s.startRecall line (.pendingBytes pub line)
            else
              let s1 : State := { s with proxies := s.proxies.map fun x =>
                if x.line = line ∧ x.die = o then { x with kind := .priv, bytes := x.bytes.filter fun e => mask.contains e.1 } else x }
              let s2 := s1.mapHome line fun h => { h with dir := .priv, masks := [(o, mask), (d, offs)] }
              if d = h.die then s2.takePending p q
              else (s2.mapHome line fun h => { h with op := .pending pub }).send (.ownershipGrant d line pub)
        | .priv =>
          if h.masks.any (fun e => e.1 != d && e.2.any offs.contains) then s.startRecall line (.pendingBytes pub line)
          else
            let s1 := s.mapHome line fun h =>
              { h with masks := ainsert d (dedup ((alookup d h.masks).getD [] ++ offs)) h.masks }
            if d = h.die then s1.takePending p q
            else (s1.mapHome line fun h => { h with op := .pending pub }).send (.ownershipGrant d line pub)
        | .recalling | .wbWait _ => s.waitAtHome line (.pendingBytes pub line)

/-- A proxy takes the owned line or a part of it, then carries out the publication (R415, R417, R422). -/
def execOwnershipGrant (die line pub : Nat) (s : State) : Res :=
  ok <| match s.pubs.find? (fun p => p.id == pub) with
  | none => s
  | some p =>
    match p.parts.find? (fun q => q.line == line && q.stage == .sending), s.homeOf line with
    | some q, some h =>
      let whole := h.dir == .owned die
      let offs := if whole then List.range 128 else (alookup die h.masks).getD []
      let old := ((s.proxies.find? fun x => x.line == line && x.die == die).map (·.bytes)).getD []
      let bytes := offs.map fun o => (o, (alookup o old).getD (s.homeByte (line * 128 + o)))
      let s1 : State := { s with proxies := s.proxies.filter (fun x => !(x.line == line && x.die == die)) ++
        [⟨line, die, if whole then .owned else .priv, bytes, []⟩] }
      (s1.mapHome line fun h => { h with dies := if h.dies.contains die then h.dies else h.dies ++ [die] }).takePending p q
    | _, _ => s

/-- The shelf of a core takes a notice, or applies it at once when it is full (R304, R346, R347). -/
def execNotice (core line : Nat) (s : State) : Res :=
  ok <| (s.mapCore core fun c =>
    let c := c.overtake line
    if c.shelf.any (fun e => e.line == line) then
      { c with shelf := updateFirst (fun e => e.line == line) (fun e => { e with copy := none }) c.shelf }
    else if c.shelf.length < Config.shelfEntries then { c with shelf := c.shelf ++ [⟨line, none⟩] }
    else c.dropCleanLine line).send (.noticeAcknowledge line)

/-- Die bits of a line once its presence is known anew (R414). -/
def State.diesNow (s : State) (h : HomeLine) (clusters : List Nat) : List Nat :=
  dedup ((clusters.map (· / 18) ++ (s.proxies.filter (fun (p : Proxy) => p.line == h.line)).map (fun (p : Proxy) => p.die)).filter (· != h.die))

/-- One acknowledgement reaches the home; the last one reports a publication, or ends an operation, when a daub's sender hears what the named cores have answered (R301, R331, R349). -/
def execNoticeAcknowledge (line : Nat) (s : State) : Res :=
  ok <| match s.homeOf line with
  | none => s
  | some h =>
    if 1 < h.acks then s.mapHome line fun h => { h with acks := h.acks - 1 }
    else match h.op with
      | .pending pub => (s.mapHome line fun h => { h with acks := 0, op := .reported pub }).send (.homeReport pub line)
      | .notifying =>
        ((s.mapHome line fun h =>
          { h with acks := 0, op := .idle, spare := [], answers := [], clusters := h.after, guests := [], dies := s.diesNow h h.after }).sendAll
          (h.answers.map fun a => Msg.daubAnswer a.1 line a.2)).releaseHome line
      | _ => s

/-- The publishing core hears from a home; when all have reported it sends its commits (R301, step 4). -/
def execHomeReport (pub line : Nat) (s : State) : Res :=
  ok <| match s.pubs.find? (fun p => p.id == pub) with
  | none => s
  | some p =>
    let s := s.respond p.core line (s.marks line)
    let parts := p.parts.map fun q => if q.line = line ∧ q.stage = .pending then { q with stage := PubStage.reported } else q
    if parts.all fun q => q.stage == .reported then
      { s with pubs := s.pubs.map fun x => if x.id = pub then { x with parts := parts.map fun q => { q with stage := .committing } } else x
               inflight := s.inflight ++ parts.map fun q => Msg.commit pub q.line }
    else { s with pubs := s.pubs.map fun x => if x.id = pub then { x with parts := parts } else x }

/-- The home merges its pending bytes in one step and confirms (R301, R349). -/
def execCommit (pub line : Nat) (s : State) : Res :=
  ok <| match s.homeOf line with
  | none => s
  | some h =>
    if h.op = .reported pub then
      let own := ((s.pubs.find? fun p => p.id == pub).map (·.core)).getD Config.cores
      let bad := (((s.pubs.find? fun p => p.id == pub).bind fun p => p.parts.find? fun q => q.line == line).map (·.bad)).getD []
      let s1 := (s.commitMarked line h.pend bad).outdate own line
      let s2 := s1.mapHome line fun h =>
        { h with op := .idle, spare := [], pend := [], clusters := h.after, guests := [], dies := s1.diesNow h h.after }
      (s2.send (.commitConfirm pub line)).releaseHome line
    else s

/-- The core marks the published bytes clean; the last line completes the publication (R301, step 5). -/
def execCommitConfirm (pub line : Nat) (s : State) : Res :=
  ok <| match s.pubs.find? (fun p => p.id == pub) with
  | none => s
  | some p =>
    match p.parts.find? (fun q => q.line == line && q.stage == .committing) with
    | none => s
    | some q =>
      let rest := p.parts.filter fun x => x.line != line
      let s1 := if p.core < Config.cores then s.mapCore p.core (·.markClean line q.clean) else s
      if rest.isEmpty then ({ s1 with pubs := s1.pubs.filter fun x => x.id != pub } : State).hawkApplied pub
      else { s1 with pubs := s1.pubs.map fun x => if x.id = pub then { x with parts := rest } else x }

/-! ## Fills and evictions -/

/-- The reply to a fill leaves, with the mark that its request has taken on the way (R337). -/
def State.replyFill (s : State) (r : FillReq) : State :=
  let a := s.fillFrom r.core r.line ((((s.coreBy r.core).filling r.line).map (·.tracked)).getD true)
  a.2.send (.fillReply r.core r.line a.1 (s.marks r.line))

/-- A fill reaches its home, or the proxy of its die; a line that another die owns is answered by its owner (R349, R416, R419, R422). -/
def execFill (r : FillReq) (s : State) : Res :=
  ok <|
    if s.holdOf r.line (dieOf r.core) then s.waitAtProxy r.line (dieOf r.core) (.fill r)
    else if !s.fillable r.core r.line then s.waitAtHome r.line (.fill r)
    else match (s.homeD r.line).dir with
      | .owned d => if d ≠ dieOf r.core then s.send (.forwardedFill r) else s.replyFill r
      | _ => s.replyFill r

/-- The owner's proxy answers a forwarded fill from the line as it stands there, or from the hold of its write-back (R416, R423). -/
def execForwardedFill (r : FillReq) (s : State) : Res :=
  ok (if s.fillable r.core r.line then s.replyFill r else s.waitAtHome r.line (.fill r))

/-- A core receives a fill: it installs it, unless something has overtaken it or no way is free, when only the waiting loads are served (R346, R347). Responses are always taken (R334). Its image carries the marks of the line (R404); one without data brings poison (R435). -/
def execFillReply (core line : Nat) (data : List Byte) (marked : Bool) (s : State) : Res :=
  ok <|
    let s := s.respond core line marked
    let others := fun (c : Core) => c.fills.filter fun f => !(f.line == line && f.served.isNone)
    match (s.coreBy core).filling line with
    | none => s
    | some f =>
      let serve := fun (s : State) => s.mapCore core fun c =>
        { c with fills := others c ++ if f.waiters.isEmpty then [] else [{ f with overtaken := true, served := some data }] }
      if f.overtaken then serve s
      else match (s.alignLine core line f.tracked).bind fun s => s.makeRoom core line with
        | none => serve s
        | some s => s.mapCore core fun c => { c.install line f.tracked data with fills := others c }

/-- The L1 evicts a line of a tracked page: its dirty bytes go to the stash, within the limits (R275, R276). -/
def execEvictionBytes (core line : Nat) (s : State) : Res :=
  ok <| match (s.coreBy core).lineOf line with
  | none => s
  | some l => if l.tracked && s.canEvict core l then s.evictLine core l else s

/-- The L1 evicts a line of an untracked page: its dirty bytes go home by mask (R277). -/
def execUntrackedWriteBack (core line : Nat) (s : State) : Res :=
  ok <| match (s.coreBy core).lineOf line with
  | none => s
  | some l => if l.tracked then s else s.evictLine core l

/-- A guest slice drops its copy and tells the clusters that it served (R280, R349). -/
def execGuestInvalidation (sector line : Nat) (s : State) : Res :=
  ok <|
    let cls := ((s.guests.find? fun g => g.line == line && g.sector == sector).map (·.clusters)).getD []
    let cs := coresOf cls (s.homeD line).spare
    let s1 : State := { s with guests := s.guests.filter fun g => !(g.line == line && g.sector == sector) }
    (s1.mapHome line fun h => { h with acks := h.acks + cs.length, guests := h.guests.filter (· != sector) }).sendAll
      (cs.map (fun c => Msg.notice c line) ++ [.noticeAcknowledge line])

/-- A die's copy of a line falls away. -/
def State.dropCopy (s : State) (die line : Nat) : State :=
  { s with proxies := s.proxies.filter fun p => !(p.line == line && p.die == die && p.kind == .copy) }

/-- A proxy relays a notice to the holders of its die and drops its own copy (R420). -/
def execRelayedNotice (die line : Nat) (s : State) : Res :=
  ok <|
    let h := s.homeD line
    let cs := coresOf (h.clusters.filter fun c => c / 18 == die) h.spare
    ((s.dropCopy die line).mapHome line fun h => { h with acks := h.acks + cs.length }).sendAll
      (cs.map (fun c => Msg.notice c line) ++ [.noticeAcknowledge line])

/-- A proxy relays daub copies to the named cores of its die and drops its own copy (R420). -/
def execRelayedCopy (die line : Nat) (seq : W32) (data : List Byte) (sender : PodKey) (targets : List Nat) (s : State) : Res :=
  ok <| ((s.dropCopy die line).mapHome line fun h => { h with acks := h.acks + targets.length }).sendAll
    (targets.map (fun c => Msg.daubCopy c line seq data sender) ++ [.noticeAcknowledge line])

/-! ## Daub copies -/

def satInc (x : BitVec 12) : BitVec 12 := if x = BitVec.allOnes 12 then x else x + 1

/-- A named shelf accepts or refuses a daub copy (R304, R329, R346); a refusal overtakes a fill in flight (R347). Its home gathers the answers; those to a copy of another device's line go to the sender at once (R441). -/
def execDaubCopy (core line : Nat) (seq : W32) (data : List Byte) (sender : PodKey) (s : State) : Res :=
  ok <|
    let c := s.coreBy core
    let acc := c.shelf.any (fun e => e.line == line) || decide (c.shelf.length < Config.shelfEntries)
    let merge := fun (e : ShelfEntry) => match e.copy with
      | some (m, _) => if m.toNat < seq.toNat then { e with copy := some (seq, data) } else e
      | none => { e with copy := some (seq, data) }
    let s1 := s.mapCore core fun c =>
      if c.shelf.any (fun e => e.line == line) then { c with shelf := updateFirst (fun e => e.line == line) merge c.shelf }
      else if acc then { c with shelf := c.shelf ++ [⟨line, some (seq, data)⟩] }
      else (c.overtake line).dropCleanLine line
    if lineRemote line then s1.send (.daubAnswer sender line acc)
    else (s1.mapHome line fun h => { h with answers := h.answers ++ [(sender, acc)] }).send (.noticeAcknowledge line)

/-- The sender counts an answer (R331). -/
def execDaubAnswer (sender : PodKey) (_line : Nat) (accepted : Bool) (s : State) : Res :=
  ok <| s.mapPod sender fun p =>
    { p with daubOut := p.daubOut - 1
             daubAcc := if accepted then satInc p.daubAcc else p.daubAcc
             daubRef := if accepted then p.daubRef else satInc p.daubRef }

/-! ## HBM4E -/

/-- Codes are kept exclusive-or 3, so that a block that nothing has written holds code 0x3 (R285, R474). -/
def codeKey (c : BitVec 4) : BitVec 4 := c ^^^ 3

/-- The page of a block has compression enabled, as the accesses to its lines have found it; a block that no access has reached through a page has none (R285, log entry 84). -/
def State.blockCmp (s : State) (block : Nat) : Bool := s.homes.any fun h => h.line / 4 == block && h.cmp

/-- Stores lines of a block and its metadata code (R285). -/
def State.storeBlock (s : State) (block : Nat) (bs : List (Nat × Byte)) : State :=
  let hbm := bs.foldl (fun m e => NMap.set m e.1 e.2) s.hbm
  let now := NMap.bytes hbm (block * 512) 512
  let code : BitVec 4 := if now.all (· == 0) then 3 else if !s.blockCmp block then 0 else
    let c := Config.compressedCode now
    if c = 3 then 0 else c.setWidth 4
  { s with hbm := hbm, hmeta := NMap.set s.hmeta block (codeKey code) }

/-- A write-back of a block: queued at the controller, then stored with its metadata (R285). -/
def execHbmWriteBack (block : Nat) (s : State) : Res :=
  ok <|
    if s.wbQueue.any (fun e => e.1 == block) then
      let bs := ((s.wbQueue.find? fun e => e.1 == block).map (·.2)).getD []
      ({ s with wbQueue := removeFirst (fun e => e.1 == block) s.wbQueue } : State).storeBlock block (bs.map fun e => (block * 512 + e.1, e.2))
    else if block * 512 < Config.hostBase then
      { s with wbQueue := s.wbQueue ++ [(block, (List.range 512).map fun i => (i, s.homeByte (block * 512 + i)))] }
    else s

/-- A discard reaches the homes and controllers of a range: zeros in one commit, queued write-backs cut, blocks set (R286, R373, R374). It waits behind operations in progress there; one whose job has been discarded has no effect (R368). -/
def State.discard (s : State) (job : Option (Nat × Nat)) (lo len : Nat) : State :=
    let hit := fun (a : Nat) => decide (lo ≤ a) && decide (a < lo + len)
    let lines := (List.range ((lo % 128 + len + 127) / 128)).map (lo / 128 + ·)
    if job.any fun j => !(s.coreBy j.1).jobs.any fun x => x.id == j.2 then s
    else if lines.any fun l => !s.homeIdle l then s.send (.discardArrival job lo len)
    else
      let s1 := lines.foldl (fun s l =>
        s.writeHomeLine l ((List.range 128).filterMap fun o => if hit (l * 128 + o) then some (o, 0) else none)) s
      let s2 : State := { s1 with wbQueue := s1.wbQueue.map fun e => (e.1, e.2.filter fun b => !hit (e.1 * 512 + b.1)) }
      let blocks := (List.range ((lo % 512 + len + 511) / 512)).map (lo / 512 + ·)
      blocks.foldl (fun s b =>
        s.storeBlock b ((List.range 512).filterMap fun i => if hit (b * 512 + i) then some (b * 512 + i, 0) else none)) s2

def execDiscardArrival (lo len : Nat) (s : State) : Res := ok (s.discard none lo len)

/-! ## Write-backs and merges between dies -/

/-- The owner's proxy evicts the line or its part: the bytes that differ from the home's, or its part, go to the home, and it keeps them until the home has acknowledged (R416, R421, R422). -/
def execOwnerWriteBack (die line : Nat) (s : State) : Res :=
  ok <| match s.proxies.find? fun p => p.die == die && p.actsFor line with
  | none => s
  | some p =>
    if !s.homeIdle line then s
    else
      let bs := if p.kind == .owned then p.bytes.filter fun e => e.2 != NMap.get s.mem (line * 128 + e.1) else p.bytes
      let s1 : State := { s with proxies := s.proxies.map fun x => if x.line = line ∧ x.die = die then { x with kind := .hold, bytes := bs } else x }
      (s1.mapHome line fun h => { h with dir := .wbWait die }).send (.ownerBytes die line bs)

/-- The home takes a write-back as the final copy: it merges the bytes by mask and acknowledges (R416, R421). -/
def execOwnerBytes (die line : Nat) (bytes : LineBytes) (s : State) : Res :=
  ok <|
    let s1 : State := { s with
      mem := NMap.setMany s.mem (bytes.map fun e => (line * 128 + e.1, e.2)),
      proxies := s.proxies.map fun x => if x.line = line ∧ x.die = die then { x with bytes := [] } else x }
    let left := s1.proxies.any fun x => x.line == line && x.kind == .priv
    ((s1.mapHome line fun h =>
      { h with dir := if left then .priv else .home, masks := if left then h.masks.filter fun e => e.1 != die else [] }).send
      (.writeBackAck die line)).releaseHome line

/-- The write-back is acknowledged: the hold ends and its requests go on to the home (R416, R422). -/
def execWriteBackAck (die line : Nat) (s : State) : Res :=
  ok <| match s.proxies.find? (fun p => p.line == line && p.die == die && p.kind == .hold) with
  | none => s
  | some p => ({ s with proxies := s.proxies.filter fun x => !(x.line == line && x.die == die) } : State).sendAll p.waiting

/-- A proxy returns its part of a line (R418). -/
def execRecall (die line : Nat) (s : State) : Res :=
  ok <| match s.proxies.find? fun p => p.die == die && p.actsFor line with
  | none => s.send (.recalledPart die line [])
  | some p => s.send (.recalledPart die line p.bytes)

/-- The home merges a part; after the last one the waiting operations go on (R418). -/
def execRecalledPart (die line : Nat) (bytes : LineBytes) (s : State) : Res :=
  ok <| match s.homeOf line with
  | none => s
  | some h =>
    let s1 : State := { s with
        mem := NMap.setMany s.mem (bytes.map fun e => (line * 128 + e.1, e.2)),
        proxies := s.proxies.filter fun x => !(x.line == line && x.die == die) }
    if 1 < h.parts then s1.mapHome line fun h => { h with parts := h.parts - 1 }
    else (s1.mapHome line fun h => { h with parts := 0, dir := .home, masks := [] }).releaseHome line

end Sys2Proof.Machine
end

