-- ==== Sys2Proof/Machine/Placement.lean ====
section
/-! DEFINITION. Placement of workgroups (R226 to R231), pods at their start (R9, R243, R389), the end of workgroups, launches and stages (R219, R238), the seed gatherer's pods (R242), the pipeline's shares (R237 to R240) and pre-emption (R392 to R395). -/

namespace Sys2Proof.Machine

/-! ## Fit -/

/-- Main register bytes of a workgroup (R226). -/
def Grants.regBytes (g : Grants) : Nat := g.pods * g.regs * 128
/-- Accumulator spaces with the journal (R226, R391). -/
def Grants.accNeed (g : Grants) : Nat := g.accs + min 16 g.accs

/-- What a core has left for a workgroup (R226): used are the grants of those resident. -/
def fitsWith (used : List Grants) (g : Grants) : Bool :=
  let sum := fun (f : Grants → Nat) => (used.map f).sum + f g
  decide (sum (·.pods) ≤ Config.podSlots) && decide (sum Grants.regBytes ≤ Config.regBytes)
  && decide (sum (·.scratch) ≤ Config.scratchKiB * 1024) && decide (sum (·.tiles) ≤ Config.tileRegs)
  && decide (sum Grants.accNeed ≤ Config.accSpaces) && decide (sum (·.lays) ≤ Config.layEntries)
  && decide (sum (·.algs) ≤ Config.algSlots)

def State.onCore (s : State) (n : Nat) : List Wg := s.allWgs.filter fun w => w.resident && w.core == n

/-- Grants in use on a core; a seed pod's workgroup has one pod (R243). -/
def State.used (s : State) (n : Nat) : List Grants := (s.onCore n).map (·.grant)

/-- A base for a window of a core: the first free place of the size, none where no gap is large enough (R270). -/
def windowGap (ws : List Wg) (size : Nat) : Option Nat :=
  (0 :: ws.map fun w => w.base + w.grant.scratch).find? fun b =>
    decide (b + size ≤ Config.scratchKiB * 1024) && ws.all fun w => decide (b + size ≤ w.base) || decide (w.base + w.grant.scratch ≤ b)

def windowBase (ws : List Wg) (size : Nat) : Nat := (windowGap ws size).getD 0

/-- A core of a pipeline's stage holds that stage and nothing else (R237). -/
def State.stageCore (s : State) (n : Nat) : Option Nat :=
  (s.pipelines.find? fun l => !(l.state == .done) && l.stages.any fun g => g.cores.contains n).map (·.id)

def State.fits (s : State) (n ctx : Nat) (g : Grants) : Bool :=
  ((s.coreBy n).ctx.isNone || (s.coreBy n).ctx == some ctx) && (s.stageCore n).isNone && fitsWith (s.used n) g
  && (windowGap (s.onCore n) g.scratch).isSome

def dieCores (d : Nat) : List Nat := (List.range Config.coresPerDie).map (d * Config.coresPerDie + ·)

/-- The fitting core of a die with the fewest workgroups, the lowest number on a tie (R228). -/
def State.pickOnDie (s : State) (d ctx : Nat) (g : Grants) : Option Nat :=
  ((dieCores d).filter fun n => s.fits n ctx g).foldl (fun best n => match best with
    | none => some n
    | some b => if (s.onCore n).length < (s.onCore b).length then some n else some b) none

/-- The core for workgroup w of a launch (R228). -/
def State.pickCore (s : State) (dies : List Nat) (w ctx : Nat) (g : Grants) : Option Nat :=
  let n := dies.length
  (List.range n).findSome? fun i => s.pickOnDie (dies.getD ((w + i) % n) 0) ctx g

/-! ## Starting pods -/

/-- A pod as it starts (R9, R13, R389). recs are the records of a seed pod. -/
def Pod.start (k : PodKey) (l : Launch) (entry : W64) (recs : Option (List (List W32))) : Pod :=
  let n := match recs with
    | none => 32
    | some r => r.length
  let v : List (Nat × W32) := match recs with
    | none => []
    | some r => ((List.range r.length).zip r).flatMap fun e => ((List.range 16).zip e.2).map fun x => (x.1 * 32 + e.1, x.2)
  { Pod.empty with
    key := k, live := true, s := NMap.set [] 1 l.args, liveMask := BitVec.ofNat 32 (2 ^ n - 1), v := NMap.setMany [] v,
    pc := entry, ten := l.d.ten, brnd := l.d.brnd, drnd := l.d.drnd,
    coat := some { entry := entry, liveS := 2, vB := 0, vN := if recs.isSome then 16 else 0, km := 0, allO := false,
                   fsr := 0, ten := l.d.ten, brnd := l.d.brnd, drnd := l.d.drnd } }

/-- Places a new workgroup with its pods on a core (R9, R17, R227). -/
def State.startWg (s : State) (core : Nat) (l : Launch) (x y z : W32) (seed : Option (Nat × List (List W32))) : State :=
  let (id, s1) := s.fresh
  let g : Grants := if seed.isSome then { l.d.grant with pods := 1 } else l.d.grant
  let entry := match seed with
    | none => l.d.entry
    | some (e, _) => l.d.entry + (l.d.seedOff.getD e 0).signExtend 64
  let w : Wg := { Wg.empty with
    id := id, resident := true, core := core, launch := l.id, ctx := l.ctx, x := x, y := y, z := z, seedPod := seed.isSome,
    grant := g, order := id, base := windowBase (s.onCore core) g.scratch,
    alg := (List.range g.algs).map fun i => (i, AlgTable.real) }
  let s2 := s1.mapCore core fun c => { c with ctx := some l.ctx }
  { s2 with wgs := s2.wgs ++ [w], pods := s2.pods ++ (List.range g.pods).map fun i => Pod.start ⟨id, i⟩ l entry (seed.map (·.2)) }

/-- Grid coordinates of workgroup w (R228). -/
def Launch.coord (l : Launch) (w : Nat) : W32 × W32 × W32 :=
  (BitVec.ofNat 32 (w % l.gx), BitVec.ofNat 32 (w / l.gx % l.gy), BitVec.ofNat 32 (w / (l.gx * l.gy)))

def State.startGrid (s : State) (core : Nat) (l : Launch) (w : Nat) : State :=
  let c := l.coord w
  s.startWg core l c.1 c.2.1 c.2.2 none

/-! ## Seeds -/

/-- Forms a pod from the oldest records of a bin (R242, R243). -/
def State.formSeed (s : State) (die launch entry n : Nat) : State :=
  let mine := fun (r : SeedRec) => r.die == die && r.launch == launch && r.entry == entry
  let recs := ((s.seeds.filter mine).take n).map (·.words)
  let serial := match s.launchBy launch with
    | none => 0
    | some l => (alookup die l.seedSerial).getD 0
  let rest := (s.seeds.filter mine).drop n ++ s.seeds.filter (fun (r : SeedRec) => !mine r)
  let s1 := s.mapLaunch launch fun l => { l with seedSerial := ainsert die (serial + 1) l.seedSerial }
  ({ s1 with seeds := rest, seedPods := s1.seedPods ++ [⟨die, launch, entry, serial, recs⟩] } : State).send .placementDecision

/-- Forms full pods of a bin while it holds 32 records (R242). -/
def State.formFull (s : State) (die launch entry : Nat) : State :=
  if 32 ≤ (s.seeds.filter fun r => r.die == die && r.launch == launch && r.entry == entry).length then s.formSeed die launch entry 32 else s

/-- A bin's oldest record is 5,400 cycles old: a partial pod forms (R242). -/
def execSeedBinTimeout (die launch entry : Nat) (s : State) : Res :=
  ok <| match s.seeds.find? (fun r => r.die == die && r.launch == launch && r.entry == entry) with
  | none => s
  | some r => if 5400 ≤ s.since r.arrived then s.formSeed die launch entry 32 else s

/-! ## The end of workgroups, launches and stages -/

/-- A launch has quiesced: each of its bins forms a partial pod (R242). A workgroup of the grid that is saved has not exited; a seed pod that is saved is not resident. -/
def State.quiesce (s : State) (id : Nat) : State :=
  if s.allWgs.any fun w => w.launch == id && (w.resident || !w.seedPod) then s
  else (dedup ((s.seeds.filter fun r => r.launch == id).map fun r => (r.die, r.entry))).foldl (fun s b => s.formSeed b.1 id b.2 32) s

/-- Nothing of a launch is left to run. -/
def State.launchEmpty (s : State) (id : Nat) : Bool :=
  !s.allWgs.any (fun w => w.launch == id) && !s.seeds.any (fun r => r.launch == id) && !s.seedPods.any fun r => r.launch == id

/-- A launch that is no stage completes when its grid has run and its bins are empty; quiescing forms partial pods (R219, R242). -/
def State.launchMaybeDone (s : State) (id : Nat) : State :=
  match s.launchBy id with
  | none => s
  | some l =>
    if l.done || l.ending || l.pipeline.isSome || l.next < l.gx * l.gy * l.gz then s
    else
      let s1 := s.quiesce id
      if s1.launchEmpty id then s1.finishLaunch id 0 else s1

/-- Closes the output pipes of a stage that completes, as PCLOSE does (R263): their waiters and bridges hear of it. -/
def State.closeOutputs (s : State) (pl stage : Nat) : State :=
  let mine := fun (p : Pipe) => p.producer == stage && !(p.bridge.any fun b => b.side == .inn)
  let is := match s.plBy pl with
    | none => []
    | some l => (withIndex l.pipes).filterMap fun (e : Nat × Pipe) => if mine e.2 then some e.1 else none
  (s.mapPl pl fun l => { l with pipes := l.pipes.map fun p => if mine p then { p with closed := true } else p }).sendAll
    (is.flatMap fun i => [Msg.pipePushAccept pl i, Msg.pipePopAccept pl i])

/-- A finishing stage without workgroups and seeds completes; so does the pipeline after its last stage (R219, R238, R263). -/
def State.stageMaybeDone (s : State) (pl stage : Nat) : State :=
  match s.plBy pl with
  | none => s
  | some l =>
    match l.stages.drop stage with
    | [] => s
    | g :: _ =>
      if g.done || !g.finishing || l.ending then s
      else
        let s := s.quiesce g.launch
        if !s.launchEmpty g.launch then s
        else
        let s1 := (s.mapPl pl fun l =>
          { l with stages := setAt l.stages stage { g with done := true, cores := [] }, count := l.count + 1 }).closeOutputs pl stage
        if (s1.plBy pl).any fun l => l.stages.all fun g => g.done then s1.finishPipeline pl 0 else s1

/-- Places a stage's workgroups on a core that it has received, with the lowest indices not in use (R238). -/
def State.fillStageCore (s : State) (l : Launch) (wpc core : Nat) : State :=
  let busy := (s.allWgs.filter fun w => w.launch == l.id && !w.seedPod).map fun w => w.x.toNat
  let free := ((List.range l.gx).filter fun i => !busy.contains i).take wpc
  free.foldl (fun s i => s.startWg core l (BitVec.ofNat 32 i) 0 0 none) s

/-- A stage receives a core (R237, R240). -/
def State.giveCore (s : State) (pl stage core : Nat) : State :=
  match s.plBy pl with
  | none => s
  | some p =>
    match p.stages.drop stage with
    | [] => s
    | g :: _ =>
      let s1 := s.mapPl pl fun p => { p with stages := setAt p.stages stage { g with cores := g.cores ++ [core] } }
      match s1.launchBy g.launch with
      | none => s1
      | some l => s1.fillStageCore l g.wpc core

/-- A stage may receive cores (R238). -/
def Pipeline.takes (p : Pipeline) (stage : Nat) : Bool := (p.stages.drop stage).head?.any fun g => !g.finishing && !g.done

/-- The last workgroup of a stage's core has exited: the core leaves the stage, and passes on when a move has chosen it and its recipient still takes cores (R238, R240). -/
def State.leaveCore (s : State) (pl stage core : Nat) : State :=
  match s.plBy pl with
  | none => s
  | some p =>
    match p.stages.drop stage with
    | [] => s
    | g :: _ =>
      if s.allWgs.any (fun w => w.launch == g.launch && w.core == core && w.resident) then s
      else
        let s1 := s.mapPl pl fun p => { p with stages := setAt p.stages stage { g with cores := g.cores.filter (· != core) } }
        match p.move with
        | some (source, target, c) =>
          if source = stage ∧ c = core then
            let s2 := s1.mapPl pl fun p => { p with move := none }
            if p.takes target then s2.giveCore pl target core else s2
          else s1
        | none => s1

/-- Pod-cycles in this interval of the pods of some workgroups: all, blocked, starved (R239). -/
def State.podCycles (s : State) (ids : List Nat) : Nat × Nat × Nat :=
  let ps := s.allPods.filter fun p => ids.contains p.key.wg
  ((ps.map (·.residentC)).sum, (ps.map (·.blockedC)).sum, (ps.map (·.starvedC)).sum)

/-- A workgroup leaves its stage: the interval keeps its pod-cycles (R239). -/
def State.keepCycles (s : State) (w : Wg) : State :=
  match (s.launchBy w.launch).bind (·.pipeline) with
  | none => s
  | some (pl, _) =>
    let c := s.podCycles [w.id]
    s.mapPl pl fun p => { p with stages := p.stages.map fun g =>
      if g.launch = w.launch then { g with past := (g.past.1 + c.1, g.past.2.1 + c.2.1, g.past.2.2 + c.2.2) } else g }

/-- A workgroup whose last pod has exited ends (R219, R220, R238). -/
def State.endWg (s : State) (id : Nat) : State :=
  match s.wgBy id with
  | none => s
  | some w =>
    let s1 := ((s.keepCycles w).dropWgs fun x => x.id == id).mapLaunch w.launch fun l => { l with count := l.count + 1 }
    let s2 := match s1.launchBy w.launch with
      | none => s1
      | some l =>
        match l.pipeline with
        | none => s1.launchMaybeDone l.id
        | some (pl, st) =>
          let s2 := if w.yielded || w.seedPod then s1
            else s1.mapPl pl fun p => { p with stages := p.stages.map fun (g : Stage) => if g.launch = l.id then { g with finishing := true } else g }
          (if w.seedPod then s2 else s2.leaveCore pl st w.core).stageMaybeDone pl st
    s2.send .placementDecision

/-! ## Pre-emption -/

/-- Asks workgroups to stop (R392). -/
def State.requestStop (s : State) (sel : Wg → Bool) : State :=
  let ids := (s.allWgs.filter fun w => w.resident && sel w).map (·.id)
  let mark := fun (w : Wg) => if ids.contains w.id then { w with stopReq := true } else w
  let s1 : State := { (s.mapPods fun p => if ids.contains p.key.wg then { p with stopReq := true } else p) with
    wg := mark s.wg, wgs := s.wgs.map mark }
  ((s1.allPods.filter fun p => ids.contains p.key.wg && p.stopped).map (·.key)).foldl State.leaveWaits s1

/-- A pod has reached its stopping point (R392): a coat is open, the debugger does not hold it, and no request of it is without an answer. -/
def Pod.atStop (p : Pod) : Bool := p.exited || (!p.dying && p.coat.isSome && !p.halted && p.sTxn.outstanding == 0 && p.lTxn.outstanding == 0)

/-- What a save keeps of a pod (R394). -/
def Pod.saved (p : Pod) : Pod :=
  match p.coat with
  | none => p
  | some c =>
    { Pod.empty with
      key := p.key, live := p.live, exited := p.exited, liveMask := p.liveMask
      s := p.s.filter fun e => c.liveS.getLsbD e.1
      k := p.k.filter fun e => c.km.getLsbD e.1
      v := p.v.filter fun e => decide (c.vB ≤ e.1 / 32) && decide (e.1 / 32 < c.vB + c.vN)
      o := if c.allO then p.o else []
      bankS := p.bankS, bankV := p.bankV
      fsr := c.fsr, ten := c.ten, brnd := c.brnd, drnd := c.drnd, pc := c.entry, coat := some c
      pending := p.pending, tcopies := p.tcopies }

/-- The save of a workgroup can go on: its pods stand at their stopping points, its steps have their results (R393, steps 1 and 2), what it publishes has committed (step 4). -/
def State.saveReady (s : State) (w : Wg) : Bool :=
  w.resident && w.stopReq
  && (!w.saving || (match w.savePub with
    | none => true
    | some i => s.pubDone w.core i))
  && (s.allPods.filter fun p => p.key.wg == w.id).all Pod.atStop
  && !(s.coreBy w.core).steps.any (fun m => m.wg == w.id)
  && !(s.coreBy w.core).jobs.any fun j => j.wg == w.id && j.stepSent

/-- Puts the journaled tiles back (R393, step 3). -/
def Wg.restoreJournal (w : Wg) : Wg :=
  { w with
    acc := w.journal.foldl (fun m e => NMap.setMany m ((List.range 256).map fun i => (e.acc * 256 + i, e.cells.getD i 0))) w.acc
    accPoison := w.journal.foldl (fun m e => (List.range 32).foldl (fun m i => NMap.set m (e.acc * 32 + i) (if e.bad.contains i then 1 else 0)) m) w.accPoison
    journal := [] }

/-- The bytes of the save area that hold a workgroup of a core: 1,703,936 for each core (R393, R465); what they are is the FJ9's own (log entry 16). -/
def saveBytes : Nat := 1703936

def State.writeSave (s : State) (w : Wg) : State :=
  let base := ((s.ctxBy w.ctx).map (·.save)).getD 0 + saveBytes * w.core
  let es := ((Config.saveImage s.freeCount).filter fun e => decide (e.1 < saveBytes)).map fun e => (base + e.1, e.2)
  (dedup (es.map (·.1 / 128))).foldl
    (fun s line => s.writeHomeLine line ((es.filter fun e => e.1 / 128 == line).map fun e => (e.1 % 128, e.2))) { s with freeCount := s.freeCount + 1 }

/-- The last steps of a save (R393, steps 5 and 6; R394): the state goes to the save area, and the core's resources are freed. -/
def State.finishSave (s : State) (w : Wg) : State :=
  let s1 := (s.keepCycles w).writeSave w
  let s2 := s1.mapWg w.id fun w => { w with resident := false, stopReq := false, saving := false, savePub := none, arrived := [] }
  let s3 := (s2.mapPods fun p => if p.key.wg = w.id then p.saved else p).mapCore w.core fun c =>
    { c with
      ka := match c.ka with
        | none => none
        | some k => if k.wg = w.id then none else some k
      ctx := if s2.allWgs.any (fun w' => w'.resident && w'.core == w.core) then c.ctx else none }
  ({ s3 with turns := s3.turns.filter fun t => t.1.wg != w.id } : State).send .placementDecision

/-- Saves a workgroup (R393): first its jobs are cancelled, its journal is put back and the core's stores are published; when that has committed, the rest. -/
def execPreemptSave (wg : Nat) (s : State) : Res :=
  ok <| match s.wgBy wg with
  | none => s
  | some w =>
    if !s.saveReady w then s
    else
      if w.saving then s.finishSave w else
      let jobs := (s.coreBy w.core).jobs.filter fun j => j.wg == wg
      let stale := fun (m : Msg) => match m with
        | .jobStart _ j | .landingSlotGrant _ j | .landing _ j | .memoryWrite _ j | .jobStatusLand _ j => jobs.any fun x => x.id == j
        | _ => false
      let s1 : State := { (s.mapCore w.core fun c =>
          { c with jobs := c.jobs.filter (fun j => j.wg != wg), slotQueue := c.slotQueue.filter fun i => !jobs.any fun x => x.id == i }) with
        inflight := s.inflight.filter fun m => !stale m }
      let r := s1.nudge.publishAll w.core
      let s2 := r.2.mapWg wg fun w => { w.restoreJournal with saving := true, savePub := r.1, savedJobs := jobs }
      match r.1 with
      | some _ => s2
      | none => match s2.wgBy wg with
        | none => s2
        | some w => s2.finishSave w

/-- A job that a restore submits again starts from its beginning (R395). -/
def Job.again (j : Job) : Job :=
  { j with started := false, slots := 0, asked := false, tr := 0, done := 0, landed := 0, flags := 0, pub := none, fault := none }

/-- Words at keys lo to lo + n - 1, all of them free values: number m names the first. -/
def freeMap {w : Nat} (m lo n : Nat) : NMap w :=
  NMap.setMany [] ((List.range n).map fun i => (lo + i, (Config.freeWord (m + i)).setWidth w))

/-! ## Regions of a job card (R356) -/

/-- A number from bytes in two's complement. -/
def signedField (b : List Byte) (off n : Nat) : Int := (BitVec.ofNat (8 * n) (field b off n)).toInt

/-- The origins of a descriptor, dimension 0 first (R356). -/
def descOrg (b : List Byte) : List Int := [signedField b 0 4, signedField b 4 4, signedField b 8 2, signedField b 10 2, signedField b 12 2]

def parseRegion (b : List Byte) : Region :=
  { kind := match field b 15 1 % 4 with
      | 0 => .unused
      | 1 => .read
      | 2 => .write
      | _ => .tile
    entry := field b 14 1 % 64, org := descOrg b, raw := b }

/-- What R394 keeps of a pod whose save area the host has written: free values, the resume address and the snapshot among them (R393); a rounding mode is one that its special value can hold (R56). Numbers below 17,000 from n on. -/
def Pod.taint (p : Pod) (n : Nat) : Pod :=
  let word := fun (i w : Nat) => (Config.freeWord (n + i)).setWidth w
  let c : Coat := { (p.coat.getD ⟨0, 0, 0, 0, 0, false, 0, 0, 0, 0⟩) with
    entry := word 0 64, fsr := word 1 10, ten := word 2 10
    brnd := BitVec.ofNat 3 ((word 3 64).toNat % 5), drnd := BitVec.ofNat 3 ((word 4 64).toNat % 7) }
  { p with s := freeMap (n + 16) 1 63, k := freeMap (n + 80) 1 15, o := freeMap (n + 96) 0 512, v := freeMap (n + 1024) 0 8192
           bankS := freeMap (n + 10000) 56 8, bankV := freeMap (n + 11000) 7680 512, pc := c.entry, coat := some c
           fsr := c.fsr, ten := c.ten, brnd := c.brnd, drnd := c.drnd
           pending := (withIndex p.pending).map fun e => { e.2 with reg := (word (12000 + e.1) 64).toNat % 64 }
           tcopies := (withIndex p.tcopies).map fun e =>
             { e.2 with opnd := word (13000 + e.1) 64, card := (List.range 64).map fun i => word (13100 + 64 * e.1 + i) 8 } }

/-- The same of an engine job: its card as formed (R394). -/
def Job.taint (j : Job) (n : Nat) : Job :=
  { j with regions := (List.range 4).map fun i => parseRegion ((List.range 16).map fun k => (Config.freeWord (n + 16 * i + k)).setWidth 8) }

/-- The same of a workgroup: its window with the full-empty bits, tiles, accumulators, layout entries and algebra slots. -/
def Wg.taint (w : Wg) (n : Nat) : Wg :=
  let word := fun (i k : Nat) => (Config.freeWord (n + i)).setWidth k
  { w with
    scratch := freeMap n 0 w.grant.scratch, fe := freeMap (n + 2 ^ 20) 0 (w.grant.scratch / 16)
    tile := freeMap (n + 2 ^ 21) 0 (w.grant.tiles * 2048), acc := freeMap (n + 2 ^ 22) 0 (w.grant.accs * 256)
    lay := (List.range w.grant.lays).map fun i =>
      let at' := 2 ^ 23 + 16 * i
      (i, { base := word at' 64, ctl := word (at' + 1) 64, ext := (List.range 5).map fun j => word (at' + 2 + j) 32,
            stride := (List.range 4).map fun j => word (at' + 7 + j) 32, scale := word (at' + 11) 64 })
    alg := (List.range w.grant.algs).map fun i =>
      let at' := 2 ^ 24 + 128 * i
      (i, { dim := 2 ^ ((word at' 64).toNat % 4), conj := word (at' + 1) 8, tab := freeMap (n + at' + 2) 0 64 }) }

/-- The causes of R377, with which the job of a spoilt save may fault (R393). -/
def causes : List Cause :=
  [.illegal, .latchLost, .priv, .misalign, .xlateAbsent, .xlatePerm, .bI, .bZ, .bO, .bU, .bX, .dI, .dZ, .dO, .dU, .dX, .intDiv0, .brk, .trap,
   .coatSpan, .coatAcc, .barMisuse, .pipeType, .pipeDeadlock, .bridgeUnmatched, .poison, .matrixReset]

/-- A workgroup that was saved in an area the host has written since: it resumes with free values, or its job faults with some cause; which of them is free as well (R393). -/
def State.spoilt (s : State) (w : Wg) : State :=
  let n := s.freeCount
  let s1 : State := { s with freeCount := n + 2 ^ 26 }
  if Config.useOld n then
    ((s1.mapPods fun p => if p.key.wg = w.id then p.taint (n + 2 ^ 25 + 17000 * p.key.pod) else p).mapWg w.id (·.taint n)).mapCores fun c =>
      { c with jobs := c.jobs.map fun j => if j.wg = w.id then j.taint (n + 2 ^ 25 + 2 ^ 24 + 64 * j.serial % 2 ^ 24) else j }
  else match s1.launchBy w.launch with
    | some l => s1.faultJob l.job (causes.getD ((Config.freeWord n).toNat % causes.length) .illegal)
    | none => s1

/-- Places a saved workgroup again (R395). -/
def State.restoreWg (s : State) (w : Wg) (core : Nat) : State :=
  if (s.wgBy w.id).isNone then s
  else
    let (order, s1) := s.fresh
    let s2 := s1.mapWg w.id fun w =>
      { w with resident := true, core := core, order := order, base := windowBase (s.onCore core) w.grant.scratch, savedJobs := [], tainted := false }
    let s3 := s2.mapCore core fun c => { c with ctx := some w.ctx, jobs := c.jobs ++ w.savedJobs.map Job.again }
    let s4 : State := { s3 with late := s3.late.filter fun c => c.wg != w.id }
    let s5 := (s3.late.filter fun c => c.wg == w.id).foldl (fun s c =>
      (s.mapWg w.id fun w => w.portStore c.offset (toBytes (ofBytes 64 (NMap.bytes w.scratch c.offset 8) + c.add) 8)).out (.answer c.src c.seq [0])) s4
    let s6 := s5.sendAll (w.savedJobs.map (fun j => Msg.jobStart core j.id) ++
      (s5.deliveries.filter fun d => d.wg == some w.id).map fun d => Msg.reductionDelivery d.die d.launch d.group)
    if w.tainted then s6.spoilt w else s6

/-! ## Pipelines -/

/-- Room of pipes on a die, line by slice (R281, R282). -/
def slotBytes (fmtBits rows cols : Nat) : Nat := rows * cols * fmtBits / 8

def Pipe.slotSize (p : Pipe) : Nat := slotBytes (((Fmt.ofCode p.fmt).getD (.ty .i8)).bits) p.rows p.cols

/-- Lines that pipes take of each slice of a die; pipes are given with their index. -/
def roomUsed (ps : List (Nat × Pipe)) (die slice : Nat) : Nat :=
  (ps.map fun e =>
    if e.2.home = die then
      ((List.range e.2.depth).filter fun i => (i + 7 * e.1) % Config.slicesPerDie == slice).length * ((e.2.slotSize + 127) / 128)
    else 0).sum

def roomFits (ps : List (Nat × Pipe)) : Bool :=
  (List.range 4).all fun d => (List.range Config.slicesPerDie).all fun sl => decide (roomUsed ps d sl ≤ Config.pipeRoomPerSlice)

/-- Pipes that hold room now (R281). -/
def State.pipesHeld (s : State) : List (Nat × Pipe) :=
  (s.pipelines.filter fun l => l.state == .running || l.state == .draining || l.state == .preempted).flatMap fun l => withIndex l.pipes

/-- The free core for a stage: fits wpc workgroups, serves nothing else, lowest number on the stage's dies (R237). -/
def State.freeStageCore (s : State) (l : Launch) (wpc : Nat) (taken : List Nat) : Option Nat :=
  (l.dies.flatMap dieCores).find? fun n =>
    !taken.contains n && (s.stageCore n).isNone && ((s.coreBy n).ctx.isNone || (s.coreBy n).ctx == some l.ctx)
    && (s.onCore n).isEmpty && fitsWith (List.replicate (wpc - 1) l.d.grant) l.d.grant

/-- Cores for stages, one for each mention of a stage, in order; none if some stage cannot have one (R237). -/
def State.findCores (s : State) : List (Nat × Stage) → List Nat → Option (List (Nat × Nat))
  | [], _ => some []
  | (i, g) :: r, t =>
    match s.launchBy g.launch with
    | none => none
    | some l =>
      match s.freeStageCore l g.wpc t with
      | none => none
      | some n => (s.findCores r (n :: t)).map ((i, n) :: ·)

/-- Cores for stages with their shares, in ascending stage order (R237). -/
def State.findShares (s : State) (gs : List (Nat × Stage × Nat)) : Option (List (Nat × Nat)) :=
  s.findCores (gs.flatMap fun e => List.replicate e.2.2 (e.1, e.2.1)) []

/-- Admits a waiting pipeline with every stage's min share at once (R237, R282). -/
def State.admitPipeline (s : State) (p : Pipeline) : Option State :=
  if !roomFits (s.pipesHeld ++ withIndex p.pipes) then none
  else (s.findShares ((withIndex p.stages).map fun e => (e.1, e.2, e.2.min))).map fun cs =>
    let s1 := s.mapPl p.id fun p => { p with state := .running, admitted := s.cycle, interval := s.cycle, quiet := s.cycle }
    let s2 := cs.foldl (fun s c => s.giveCore p.id c.1 c.2) s1
    let s3 := (withIndex p.pipes).foldl (fun s e => match e.2.bridge with
      | none => s
      | some b => s.sendRequest b.peer (.bridgeOpen (BitVec.ofNat 32 b.tag) b.side b.peer) (.bridge p.id e.1)) s2
    let s4 := s3.mapPl p.id fun p => { p with pipes := p.pipes.map fun q => { q with bridge := q.bridge.map fun b => { b with since := s.cycle } } }
    s4.ringFree p.ring

/-- Every workgroup of a pipeline that was pre-empted has been saved. -/
def State.allSaved (s : State) (p : Pipeline) : Bool := !s.allWgs.any fun w => w.resident && p.stages.any fun g => g.launch == w.launch

/-- Places a pre-empted or drained pipeline again as a whole, each stage with the share it held, its saved workgroups first (R401). -/
def State.readmit (s : State) (p : Pipeline) : Option State :=
  if !s.allSaved p then none
  else (s.findShares ((withIndex p.stages).filterMap fun e => if e.2.done then none else some (e.1, e.2, e.2.share))).map fun cs =>
    let s1 := s.mapPl p.id fun p => { p with state := .running, quiet := s.cycle, stages := p.stages.map fun g => { g with cores := [] } }
    cs.foldl (fun s c =>
      match s.plBy p.id with
      | none => s
      | some q =>
        match q.stages.drop c.1 with
        | [] => s
        | g :: _ =>
          let s1 := s.mapPl p.id fun q => { q with stages := setAt q.stages c.1 { g with cores := g.cores ++ [c.2] } }
          let ws := (s1.allWgs.filter fun w => w.launch == g.launch && !w.resident && !w.seedPod).take g.wpc
          ws.foldl (fun s w => s.restoreWg w c.2) s1) s1

/-- A running pipeline takes a further core for its lowest stage below initial (R237). -/
def State.growPipeline (s : State) (p : Pipeline) : Option State :=
  (withIndex p.stages).findSome? fun e =>
    if e.2.finishing || e.2.done || e.2.initial ≤ e.2.cores.length then none
    else match s.launchBy e.2.launch with
      | none => none
      | some l => (s.freeStageCore l e.2.wpc []).map fun n => s.giveCore p.id e.1 n

/-! ## Decisions -/

/-- The next unit of a launch: saved workgroups, seed pods, then grid workgroups (R228, R229, R231, R243). Saved workgroups go back in the order of their records, each on the core that a first placement would choose, a seed pod on its die (DESIGN CHOICE, log entry 92). -/
def State.placeLaunch (s : State) (l : Launch) : Option State :=
  if l.ending || l.pipeline.any (fun e => !((s.plBy e.1).any fun p => p.state == .running)) then none else
  let mine := s.allWgs.filter fun w => w.launch == l.id && (l.pipeline.isNone || w.seedPod)
  let saved := mine.filter fun w => !w.resident
  let wholeFits := fun (s : State) (ws : List Wg) =>
    ws.foldl (fun acc w => match acc with
      | none => none
      | some (s : State) => (s.pickCore l.dies w.x.toNat l.ctx w.grant).map fun n => s.restoreWg w n) (some s)
  match saved with
  | w :: r =>
    if l.whole then (if mine.any (·.resident) then none else wholeFits s (w :: r))
    else (s.pickCore (if w.seedPod then [dieOf w.core] else l.dies) w.x.toNat l.ctx w.grant).map fun n => s.restoreWg w n
  | [] =>
    match s.seedPods.find? (fun r => r.launch == l.id) with
    | some r =>
      (s.pickCore [r.die] 0 l.ctx { l.d.grant with pods := 1 }).map fun n =>
        ({ s with seedPods := removeFirst (fun x => x == r) s.seedPods } : State).startWg n l (BitVec.ofNat 32 r.serial) (BitVec.ofNat 32 r.entry)
          (BitVec.allOnes 32) (some (r.entry, r.recs))
    | none =>
      let total := l.gx * l.gy * l.gz
      if l.pipeline.isSome || total ≤ l.next then none
      else
        let count := if l.whole then total - l.next else 1
        let placed := (List.range count).foldl (fun acc i => match acc with
          | none => none
          | some (s : State) => (s.pickCore l.dies (l.next + i) l.ctx l.d.grant).map fun n => s.startGrid n l (l.next + i)) (some s)
        placed.map fun s =>
          let s1 := s.mapLaunch l.id fun l => { l with next := l.next + count }
          if l.next + count = total then s1.ringFree l.ring else s1

/-- The unit that a ring has to place in a class. -/
def State.tryRing (s : State) (cls ring : Nat) : Option State :=
  match s.launches.findSome? (fun l => if l.ring = ring ∧ l.cls = cls ∧ !l.done then s.placeLaunch l else none) with
  | some s => some s
  | none => s.pipelines.findSome? fun p =>
    if p.ring = ring ∧ p.cls = cls ∧ !p.ending then
      match p.state with
      | .waiting => s.admitPipeline p
      | .preempted => s.readmit p
      | .running => s.growPipeline p
      | _ => none
    else none

/-- Rings round-robin from the one after the last served (R230). -/
def ringOrder (last : Nat) : List Nat := (List.range 256).map fun i => (last + 1 + i) % 256

/-- One placement in some classes: the highest that can place (R230). -/
def State.placeOne (s : State) (classes : List Nat) : Option State :=
  classes.findSome? fun c =>
    (ringOrder ((alookup c s.served).getD 0)).findSome? fun r =>
      if s.launches.any (fun l => l.ring == r) || s.pipelines.any (fun p => p.ring == r) then
        (s.tryRing c r).map fun s => { s with served := ainsert c r s.served }
      else none

/-- A class-0 launch that waits to place a unit, a stage with a seed pod to place among them, and a class-0 pipeline that waits to be placed (R231). -/
def State.urgentLaunch (s : State) (l : Launch) : Bool :=
  l.cls == 0 && !l.done && !l.ending
  && ((l.pipeline.isNone && decide (l.next < l.gx * l.gy * l.gz)) || s.seedPods.any (fun r => r.launch == l.id)
      || s.allWgs.any (fun w => w.launch == l.id && !w.resident && (l.pipeline.isNone || w.seedPod)))

def Pipeline.urgent (p : Pipeline) : Bool := p.cls == 0 && !p.ending && (p.state == .waiting || p.state == .preempted)

/-- The dies on which the class-0 units that wait may be placed. -/
def State.urgentDies (s : State) : List Nat :=
  (s.launches.filter s.urgentLaunch).flatMap (·.dies)
  ++ (s.pipelines.filter Pipeline.urgent).flatMap fun p => p.stages.flatMap fun g => ((s.launchBy g.launch).map (·.dies)).getD []

def State.classOf (s : State) (w : Wg) : Nat := ((s.launchBy w.launch).map (·.cls)).getD 3

/-- The pipeline of a workgroup. -/
def State.pipelineOf (s : State) (w : Wg) : Option Nat := (s.launchBy w.launch).bind fun (l : Launch) => l.pipeline.map fun e => e.1

/-- Of two workgroups, the one to pre-empt first: the lower class, then the one placed later (R231). -/
def State.sooner (s : State) (w b : Wg) : Bool :=
  decide (s.classOf b < s.classOf w) || (s.classOf b == s.classOf w && decide (b.order < w.order))

def State.insertVictim (s : State) (w : Wg) : List Wg → List Wg
  | [] => [w]
  | b :: r => if s.sooner w b then w :: b :: r else b :: s.insertVictim w r

/-- The workgroups that may be pre-empted, in the order of R231. -/
def State.victims (s : State) : List Wg :=
  (s.allWgs.filter fun w => w.resident && !w.stopReq && s.classOf w != 0 && s.urgentDies.contains (dieOf w.core)).foldl (fun r w => s.insertVictim w r) []

/-- The workgroups that are pre-empted with one: all of a co-resident launch or of a pipeline (R231). -/
def State.withIt (s : State) (w x : Wg) : Bool :=
  match s.launchBy w.launch with
  | none => x.id == w.id
  | some l => if l.pipeline.isSome then s.pipelineOf x == s.pipelineOf w else if l.whole then x.launch == l.id else x.id == w.id

/-- The state as it would be with some workgroups saved. -/
def State.without (s : State) (ids : List Nat) : State :=
  let off := fun (w : Wg) => if ids.contains w.id then { w with resident := false } else w
  let pls := (s.allWgs.filter fun w => ids.contains w.id).filterMap s.pipelineOf
  let s1 : State := { s with
    wg := off s.wg, wgs := s.wgs.map off
    pipelines := s.pipelines.map fun p => if pls.contains p.id then { p with stages := p.stages.map fun g => { g with cores := [] } } else p }
  s1.mapCores fun c => if s1.allWgs.any (fun w => w.resident && w.core == c.n) then c else { c with ctx := none }

/-- A unit of class 0 could be placed. -/
def State.placesZero (s : State) : Bool := (s.placeOne [0]).isSome

/-- Workgroups to pre-empt until a class-0 unit fits; none if all of them do not make it fit (R231). -/
def State.choose (s : State) : List Wg → List Nat → Option (List Nat)
  | [], _ => none
  | w :: r, ids =>
    let more := if ids.contains w.id then ids else ids ++ ((s.allWgs.filter fun x => x.resident && s.withIt w x).map (·.id))
    if (s.without more).placesZero then some more else s.choose r more

/-- Pre-empts workgroups; the pipelines among them as a whole (R231, R240). A move of the balancer that is not complete is dropped (DESIGN CHOICE, log entry 91). -/
def State.preemptAll (s : State) (ids : List Nat) : State :=
  let pls := (s.allWgs.filter fun w => ids.contains w.id).filterMap s.pipelineOf
  let s1 : State := { s with
    pipelines := s.pipelines.map fun p =>
      if pls.contains p.id then { p with state := .preempted, stages := p.stages.map fun g => { g with share := g.cores.length, cores := [] }, move := none } else p }
  s1.requestStop fun w => ids.contains w.id

/-- Places a unit of classes 1 to 3 on cores other than some: no context has the number 64. -/
def State.placeRest (s : State) (kept : List Nat) : Option State :=
  let was := s.allCores
  ((s.mapCores fun c => if kept.contains c.n then { c with ctx := some 64 } else c).placeOne [1, 2, 3]).map fun s1 =>
    s1.mapCores fun c => if kept.contains c.n then { c with ctx := ((was.find? fun d => d.n == c.n).map (·.ctx)).getD none } else c

/-- Pre-empts for a class-0 unit that cannot be placed, unless what is being saved already makes it fit (R231). -/
def State.preemptFor (s : State) (going : List Nat) : State :=
  if s.urgentDies.isEmpty || (s.without going).placesZero then s
  else match s.choose s.victims going with
    | some ids => s.preemptAll (ids.filter fun i => !going.contains i)
    | none => s

/-- A placement decision (R230, R231): a unit of class 0 is placed, or room is made for it; else a unit of another class. What a pre-emption frees is kept for the class-0 unit (log entry 21). -/
def execPlacementDecision (s : State) : Res :=
  ok <| match s.placeOne [0] with
  | some s1 => s1.send .placementDecision
  | none =>
    let leaving := fun (s : State) => s.allWgs.filter fun w => w.resident && w.stopReq
    let s1 := s.preemptFor ((leaving s).map (·.id))
    match s1.placeRest (if s1.urgentDies.isEmpty then [] else (leaving s1).map (·.core)) with
    | some s2 => s2.send .placementDecision
    | none => s1

/-! ## The balancer -/

inductive Balance | starved | blocked | neither
deriving DecidableEq, Repr

/-- Pod-cycles of a stage in the interval: all, blocked, starved (R239). -/
def State.stageCycles (s : State) (g : Stage) : Nat × Nat × Nat :=
  let c := s.podCycles ((s.allWgs.filter fun w => w.launch == g.launch).map (·.id))
  (c.1 + g.past.1, c.2.1 + g.past.2.1, c.2.2 + g.past.2.2)

def classify (all blocked starved : Nat) : Balance :=
  if all ≤ 2 * starved ∧ blocked < starved then .starved
  else if all ≤ 2 * blocked ∧ starved < blocked then .blocked
  else .neither

/-- Fullness of a stage as occupied, depth and the total of occupied input slots (R239, R240). -/
def fullness (l : Pipeline) (stage : Nat) (b : Balance) : Nat × Nat × Nat :=
  let ins := l.pipes.filter fun p => p.consumer == stage
  let total := (ins.map fun p => p.slots.length).sum
  if ins.isEmpty then (if b == .blocked then 0 else 1, 1, 0)
  else
    let best := ins.foldl (fun (a : Nat × Nat) p => if a.1 * p.depth < p.slots.length * a.2 then (p.slots.length, p.depth) else a) (0, 1)
    (best.1, best.2, total)

/-- The balancer measures and may choose a move (R239, R240). -/
def execBalancerInterval (pl : Nat) (s : State) : Res :=
  ok <| match s.plBy pl with
  | none => s
  | some l =>
    if !l.balancer || s.since l.interval < 4096 then s
    else
      let ms := (withIndex l.stages).map fun e =>
        let c := s.stageCycles e.2
        (e.1, e.2, classify c.1 c.2.1 c.2.2, c.2.2)
      let donor := (ms.filter fun m => m.2.2.1 == .starved && decide (m.2.1.min < m.2.1.cores.length) && !m.2.1.finishing && !m.2.1.done).foldl
        (fun best m => match best with
          | none => some m
          | some (b : Nat × Stage × Balance × Nat) => if b.2.2.2 < m.2.2.2 then some m else some b) none
      let cand := fun (d : Nat) => (ms.filter fun m => m.1 != d && m.2.2.1 == .neither && decide (m.2.1.cores.length < m.2.1.max)
          && !m.2.1.finishing && !m.2.1.done && decide (0 < (fullness l m.1 m.2.2.1).1)).foldl
        (fun best m => match best with
          | none => some m
          | some (b : Nat × Stage × Balance × Nat) =>
            let fb := fullness l b.1 b.2.2.1
            let fm := fullness l m.1 m.2.2.1
            if fb.1 * fm.2.1 < fm.1 * fb.2.1 ∨ (fb.1 * fm.2.1 = fm.1 * fb.2.1 ∧ fb.2.2 < fm.2.2) then some m else some b) none
      let move := if l.move.isSome || !(l.state == .running) then l.move else match donor with
        | none => none
        | some d => match cand d.1 with
          | none => none
          | some r => d.2.1.cores.getLast?.map fun c => (d.1, r.1, c)
      let ids := (s.allWgs.filter fun w => l.stages.any fun g => g.launch == w.launch).map (·.id)
      (s.mapPl pl fun l => { l with interval := l.interval + 4096, move := move, stages := l.stages.map fun g => { g with past := (0, 0, 0) } }).mapPods fun p =>
        if ids.contains p.key.wg then { p with residentC := 0, blockedC := 0, starvedC := 0 } else p

/-! ## Pipe deadlock -/

def Pod.pipeWait (p : Pod) : Bool := match p.held with
  | .pushFull _ | .popEmpty _ => true
  | _ => false

def State.stagePods (s : State) (l : Pipeline) : List Pod :=
  let ids := (s.allWgs.filter fun w => w.resident && l.stages.any fun g => g.launch == w.launch).map (·.id)
  s.allPods.filter fun p => ids.contains p.key.wg && !p.exited

/-- Every resident pod of the pipeline waits in a pipe word (R400). -/
def State.allPipeWait (s : State) (l : Pipeline) : Bool := (s.stagePods l).all Pod.pipeWait

/-- The monitor declares deadlock and the drain begins (R400, R401). A move of the balancer that is not complete is dropped (DESIGN CHOICE, log entry 91). -/
def execPipeDeadlockDeclare (pl : Nat) (s : State) : Res :=
  ok <| match s.plBy pl with
  | none => s
  | some l =>
    if !(l.state == .running) || s.since l.quiet < 65536 || !s.allPipeWait l then s
    else
      let push := (List.range l.pipes.length).filter fun i => (s.stagePods l).any fun p => p.held == .pushFull i
      (s.mapPl pl fun l =>
        { l with state := .draining, pushWait := push, move := none
                 stages := l.stages.map fun g => { g with share := g.cores.length } }).requestStop
        fun w => l.stages.any fun g => g.launch == w.launch

/-- The pipe that a drain chooses (R401): of those on which a push waited the fullest, and of these the first. -/
def Pipeline.spillPipe (l : Pipeline) : Option Nat :=
  l.pushWait.foldl (fun b i => match b with
    | none => some i
    | some j => if ((l.pipes[j]?).map fun (p : Pipe) => p.slots.length).getD 0 < ((l.pipes[i]?).map fun (p : Pipe) => p.slots.length).getD 0 then some i else some j) none

/-- The address of the slot that the next spilled tile takes (R401). -/
def Pipe.spillTo (p : Pipe) (a : Nat) : Nat := a + p.spills % p.depth * p.slotSize

/-- The write of the spilled tile has to wait (R289, R302). -/
def State.drainWaits (s : State) (l : Pipeline) : Bool :=
  ((l.spillPipe.bind fun i => l.pipes[i]?).bind fun p => p.spill.map fun a => s.virtualWaits l.ctx (p.spillTo a) p.slotSize true).getD false

/-- After the saves, one tile is spilled and the pipeline waits to be placed again; or its job faults (R401, R402). -/
def execPipeDrainSpill (pl : Nat) (s : State) : Res :=
  ok <| match s.plBy pl with
  | none => s
  | some l =>
    if !(l.state == .draining) || !(s.stagePods l).isEmpty || s.drainWaits l then s
    else
      let first := (l.stages.map (·.launch)).headD 0
      let note := fun (s : State) (i n : Nat) => s.log 0x01 l.ctx [first, i, n]
      match l.spillPipe with
      | none => (note s 0xFFFFFFFF 0).faultJob l.job .pipeDeadlock
      | some i =>
        match l.pipes[i]? with
        | none => (note s i 0).faultJob l.job .pipeDeadlock
        | some p =>
          let bad := fun (s : State) (c : Cause) => (note s i p.spills).faultJob l.job c
          match p.spill, p.slots with
          | some a, t :: rest =>
            if p.depth ≤ p.spilled then bad s .pipeDeadlock
            else
              let w := s.writeTile l.ctx (p.spillTo a) t
              match w.1 with
              | some c => bad w.2 c
              | none =>
                (note (w.2.mapPl pl fun l =>
                  { l with state := .preempted, quiet := s.cycle, stages := l.stages.map fun g => { g with cores := [] }
                           pipes := setAt l.pipes i { p with slots := rest, spilled := p.spilled + 1, spills := p.spills + 1 } }) i (p.spills + 1)).send .placementDecision
          | _, _ => bad s .pipeDeadlock

end Sys2Proof.Machine
end

