-- ==== Sys2Proof/Machine/FrontEnd.lean ====
section
/-! DEFINITION. Doorbells, the registers of ring 0 and the commands of the rings (R223 to R225, R235, R236, R461 to R465, R493). -/

namespace Sys2Proof.Machine

/-! ## Descriptors -/

/-- The fields of a descriptor (R223). -/
def parseDesc (b : List Byte) : Desc :=
  let c := field b 40 8
  let g := field b 32 8
  { entry := BitVec.ofNat 64 (field b 0 8), lbase := BitVec.ofNat 64 (field b 8 8), handler := BitVec.ofNat 64 (field b 16 8)
    grant := { pods := g % 32, regs := g / 32 % 64 * 8, scratch := g / 2048 % 1024 * 1024, tiles := g / 2097152 % 64,
               accs := g / 2 ^ 27 % 512, lays := g / 2 ^ 36 % 128, algs := g / 2 ^ 43 % 8 }
    cls := c % 4, brnd := BitVec.ofNat 3 (c / 4), drnd := BitVec.ofNat 3 (c / 32), ten := BitVec.ofNat 10 (c / 256)
    seedmask := BitVec.ofNat 16 (c / 2 ^ 18)
    seedOff := (List.range 16).map fun e => BitVec.ofNat 32 (field b (64 + 4 * e) 4) }

/-- The largest number of workgroups that an empty core holds (R226). -/
def perCore (g : Grants) : Nat :=
  ((List.range 17).filter fun k => decide (0 < k) && fitsWith (List.replicate (k - 1) g) g).length

/-- The checks of R224 after the descriptor has been read; none when all pass. -/
def descCheck (b : List Byte) (d : Desc) (grid : Nat × Nat × Nat) : Option (Nat × Nat × Nat) :=
  let c := field b 40 8
  let g := field b 32 8
  if d.entry.toNat % 4 ≠ 0 ∨ d.handler.toNat % 4 ≠ 0 ∨ d.lbase.toNat % 128 ≠ 0 then some (errAlign, 0x51, 0)
  else match (List.range 16).find? fun e => d.seedmask.getLsbD e && decide ((d.seedOff.getD e 0).toNat % 4 ≠ 0) with
    | some e => some (errAlign, 0x52, e)
    | none =>
      if field b 48 16 ≠ 0 ∨ field b 24 8 ≠ 0 ∨ c / 2 ^ 34 ≠ 0 ∨ g / 2 ^ 46 ≠ 0 then some (errBounds, 0x53, 0)
      else if d.grant.pods = 0 ∨ 16 < d.grant.pods ∨ d.grant.regs < 32 ∨ 256 < d.grant.regs ∨ 768 * 1024 < d.grant.scratch ∨ 32 < d.grant.tiles
          ∨ 256 < d.grant.accs ∨ 64 < d.grant.lays ∨ 4 < d.grant.algs then some (errBounds, 0x54, 0)
      else if 4 < d.brnd.toNat ∨ 6 < d.drnd.toNat then some (errBounds, 0x55, 0)
      else if grid.1 = 0 ∨ grid.2.1 = 0 ∨ grid.2.2 = 0 then some (errBounds, 0x56, 0)
      else if !fitsWith [] d.grant then some (errFootprint, 0x57, 0)
      else none

/-- Reads a descriptor through the front end's cache (R464): one that has been cached may still stand for what the host has written since. -/
def State.readDesc (s : State) (ctx addr : Nat) : Except Cause (List Byte) × State :=
  match s.readVirtual ctx addr 128 with
  | .error c => (.error c, s)
  | .ok now =>
    match s.descCache.find? fun e => e.1 == ctx && e.2.1 == addr with
    | some e => (.ok (if e.2.2 = now then now else if Config.useOld (s.freeCount + addr) then e.2.2 else now), s)
    | none => (.ok now, { s with descCache := (if s.descCache.length < 256 then s.descCache else s.descCache.drop 1) ++ [(ctx, addr, now)] })

/-- The dies of a mask; 0 names all four (R228). -/
def diesOf (mask : Nat) : List Nat :=
  if mask % 16 = 0 then [0, 1, 2, 3] else (List.range 4).filter fun d => mask / 2 ^ d % 2 == 1

/-! ## Commands -/

/-- The ring's head entry. -/
def State.headEntry (s : State) (n : Nat) : Option (Ring × List Byte) :=
  match s.ringBy n with
  | none => none
  | some r => if (r.conf || n == 0) && r.busy && r.waiting.isNone then some (r, r.entry) else none

/-- A command whose operand lies outside its range (R465): its record says so, and the ring goes on. -/
def State.badOperand (s : State) (r : Ring) (e : List Byte) (rec' off : Nat) : State :=
  ((s.takeEntry r.n).writeRingRecord r (field e 2 1) rec' (status errBounds 0xB0 0 off) 0 (field e 3 1 == 1)).ringFree r.n

/-- The status of a launch or a pipeline that joins a job which has been cancelled or has faulted and is still open (R222, log entry 83). -/
def State.overStatus (s : State) (job : Nat) : Option W32 := (s.hostJobBy job).bind HostJob.over

/-- The launch command (R224, R225). -/
def execLaunch (ring : Fin 256) (s : State) : Res :=
  ok <| match s.headEntry ring.val with
  | none => s
  | some (r, e) =>
    if s.virtualWaits r.ctx (field e 8 8) 128 true then s.send (.launch ring)
    else
    let s1 := s.takeEntry r.n
    let (job, s2) := s1.joinJob r.ctx r.n (BitVec.ofNat 32 (field e 4 4))
    let addr := field e 8 8
    let record := field e 40 8
    let msix := field e 3 1 == 1
    let refuse := fun (s : State) (st : W32) => (s.unitRecord r.ctx r.n 0x01 record st 0 msix job).ringFree r.n
    match s2.overStatus job with
    | some st => refuse s2 st
    | none =>
    if addr % 128 ≠ 0 then refuse s2 (status errAlign 0x50 0 0)
    else
      let (rd, s3) := s2.readDesc r.ctx addr
      match rd with
      | .error c => refuse s3 (faultStatus c)
      | .ok b =>
        let d := parseDesc b
        let grid := (field e 24 4, field e 28 4, field e 32 4)
        let whole := field e 36 1 / 16 % 2 == 1
        let dies := diesOf (field e 36 1)
        match descCheck b d grid with
        | some (c, why, i) => refuse s3 (status c why 0 i)
        | none =>
          let total := grid.1 * grid.2.1 * grid.2.2
          if whole ∧ dies.length * Config.coresPerDie * perCore d.grant < total then refuse s3 (status errFootprint 0x58 0 0)
          else
            ({ s3 with
              nextLaunch := (s3.nextLaunch + 1) % 2 ^ 32
              launches := s3.launches ++
                [{ id := s3.nextLaunch, ctx := r.ctx, ring := r.n, job := job, d := d, cls := max d.cls r.cls,
                   args := BitVec.ofNat 64 (field e 16 8), gx := grid.1, gy := grid.2.1, gz := grid.2.2, dies := dies, whole := whole,
                   next := 0, count := 0, record := record, msix := msix, pipeline := none, ending := false, done := false, seedSerial := [],
                   wetGroups := [] }] } : State).send .placementDecision

/-- A stage entry of a plan record (R235). -/
structure PlanStage where
  desc : Nat
  args : Nat
  min : Nat
  initial : Nat
  max : Nat
  wpc : Nat
  dies : Nat
  reserved : Bool
deriving DecidableEq, Repr

def parseStage (b : List Byte) : PlanStage :=
  { desc := field b 0 8, args := field b 8 8, min := field b 16 2, initial := field b 18 2, max := field b 20 2, wpc := field b 22 1,
    dies := field b 23 1 % 16, reserved := decide (field b 23 1 / 16 = 0) && decide (field b 24 40 = 0) }

/-- A pipe entry of a plan record (R235). -/
def parsePipe (b : List Byte) : Pipe × Bool :=
  ({ producer := field b 0 1, consumer := field b 1 1, fmt := field b 2 1, rows := field b 3 1, cols := field b 4 2, depth := field b 6 2,
     home := field b 8 1, spill := if field b 9 1 % 2 = 1 then some (field b 16 8) else none, slots := [], closed := false, spilled := 0,
     spills := 0, pushers := [], poppers := [], bridge := none },
   decide (field b 9 1 / 2 = 0) && decide (field b 10 6 = 0) && decide (field b 24 8 = 0))

/-- The room check 0x68 (R282): the first pipe at which its die's total no longer fits an empty die. -/
def roomFails (ps : List Pipe) : Option Nat :=
  (List.range ps.length).find? fun i =>
    !((List.range Config.slicesPerDie).all fun sl =>
      decide (roomUsed (withIndex (ps.take (i + 1))) ((ps.map (·.home)).getD i 0) sl ≤ Config.pipeRoomPerSlice))

/-- The checks of R236 on the plan record: status, reason and index of the first that fails. -/
def planCheck (addr : Nat) (h : List Byte) (ss : List PlanStage) (ps : List (Pipe × Bool)) : Option (Nat × Nat × Nat) :=
  let sN := field h 1 1
  let pN := field h 2 1
  let find := fun (n : Nat) (bad : Nat → Bool) => (List.range n).find? bad
  let st := fun (i : Nat) => ss.getD i ⟨0, 0, 0, 0, 0, 0, 0, true⟩
  let pp := fun (i : Nat) => ps.getD i (parsePipe [])
  if addr % 128 ≠ 0 then some (errAlign, 0x60, 0)
  else match find ps.length fun i => match (pp i).1.spill with
      | some a => decide (a % 128 ≠ 0)
      | none => false with
    | some i => some (errAlign, 0x60, i)
    | none =>
      if field h 0 1 ≠ 1 ∨ field h 3 1 / 4 ≠ 0 ∨ field h 4 4 / 2 ≠ 0 ∨ field h 16 48 ≠ 0 then some (errBounds, 0x61, 0)
      else match find ss.length fun i => !(st i).reserved with
      | some i => some (errBounds, 0x61, i)
      | none => match find ps.length fun i => !(pp i).2 with
      | some i => some (errBounds, 0x61, i)
      | none =>
        if sN = 0 ∨ 8 < sN ∨ pN = 0 ∨ 16 < pN then some (errBounds, 0x62, 0)
        else match find sN fun i =>
            let x := st i
            decide (x.min = 0) || decide (x.initial < x.min) || decide (x.max < x.initial) || decide (288 < x.max) || decide (x.wpc = 0) || decide (16 < x.wpc) with
        | some i => some (errBounds, 0x63, i)
        | none => match find pN fun i =>
            let x := (pp i).1
            decide (sN ≤ x.producer) || decide (sN ≤ x.consumer) || decide (x.producer = x.consumer) || decide (3 < x.home)
            || decide (x.depth = 0) || decide (256 < x.depth) || decide (x.cols = 0) || decide (4096 < x.cols) || decide (x.rows = 0)
            || (Fmt.ofCode x.fmt).isNone with
        | some i => some (errBounds, 0x64, i)
        | none => match find pN fun i =>
            let x := (pp i).1
            let bits := x.rows * x.cols * ((Fmt.ofCode x.fmt).getD (.ty .i8)).bits
            decide (8 * 8192 < bits) || decide (bits % 128 ≠ 0) with
        | some i => some (errFootprint, 0x65, i)
        | none =>
          if 288 < (ss.map (·.min)).sum then some (errFootprint, 0x66, 0)
          else match roomFails (ps.map (·.1)) with
          | some i => some (errFootprint, 0x68, i)
          | none => none

/-- Reads and checks the descriptors of the stages in order (R236): the descriptors, or the status of the refusal. -/
def State.stageDescs (s : State) (ctx : Nat) : List (Nat × PlanStage) → Except W32 (List Desc) × State
  | [] => (.ok [], s)
  | (i, x) :: r =>
    if x.desc % 128 ≠ 0 then (.error (status errAlign 0x50 0 i), s)
    else
      let (rd, s1) := s.readDesc ctx x.desc
      match rd with
      | .error c => (.error (status stFault (causeCode c) 0 i), s1)
      | .ok b =>
        let d := parseDesc b
        match descCheck b d (1, 1, 1) with
        | some (c, why, j) => (.error (status c why j i), s1)
        | none =>
          let (rest, s2) := s1.stageDescs ctx r
          (rest.map (d :: ·), s2)

/-- Entries of a plan record, n bytes each; where one cannot be read, why and which (R236). -/
def State.readEntries (s : State) (ctx base n : Nat) : List Nat → Except (Cause × Nat) (List (List Byte))
  | [] => .ok []
  | i :: r => match s.readVirtual ctx (base + n * i) n with
    | .error c => .error (c, i)
    | .ok b => (s.readEntries ctx base n r).map (b :: ·)

/-- A bridge operand of the pipeline command (R456, R465). -/
def bridgeOf (e : List Byte) (off : Nat) : Nat × Nat × Nat × Nat :=
  (field e off 1, field e (off + 1) 1, field e (off + 2) 2, field e (off + 4) 4)

/-- Some part of a plan record, or a descriptor that it names, has to be waited for before it can be read. -/
def State.planWaits (s : State) (ctx addr : Nat) : Bool :=
  s.virtualWaits ctx addr 64 true || match s.readVirtual ctx addr 64 with
    | .error _ => false
    | .ok h =>
      let sN := if field h 1 1 ≤ 8 then field h 1 1 else 0
      let pN := if field h 1 1 ≤ 8 ∧ field h 2 1 ≤ 16 then field h 2 1 else 0
      s.virtualWaits ctx (addr + 64) (64 * sN + 32 * pN) true || (List.range sN).any fun i => match s.readVirtual ctx (addr + 64 + 64 * i) 8 with
        | .error _ => false
        | .ok d => s.virtualWaits ctx (natOfBytes d) 128 true

/-- The pipeline command (R236, R456). -/
def execPipeline (ring : Fin 256) (s : State) : Res :=
  ok <| match s.headEntry ring.val with
  | none => s
  | some (r, e) =>
    if s.planWaits r.ctx (field e 8 8) then s.send (.pipeline ring)
    else
    let s1 := s.takeEntry r.n
    let (job, s2) := s1.joinJob r.ctx r.n (BitVec.ofNat 32 (field e 4 4))
    let addr := field e 8 8
    let msix := field e 3 1 == 1
    match s2.readVirtual r.ctx addr 64 with
    | .error c =>
      match s2.readVirtual r.ctx (addr + 8) 8 with
      | .error _ => ((if msix then (s2.log 0x10 r.ctx [r.n, 0x02, addr % 2 ^ 32, addr / 2 ^ 32, causeCode c]).out (.msix r.n)
          else s2.log 0x10 r.ctx [r.n, 0x02, addr % 2 ^ 32, addr / 2 ^ 32, causeCode c]).countMember job).ringFree r.n
      | .ok b => (s2.unitRecord r.ctx r.n 0x02 (natOfBytes b)
          ((s2.overStatus job).getD (if addr % 128 = 0 then faultStatus c else status errAlign 0x60 0 0)) 0 msix job).ringFree r.n
    | .ok h =>
      let record := field h 8 8
      let refuse := fun (s : State) (st : W32) => (s.unitRecord r.ctx r.n 0x02 record st 0 msix job).ringFree r.n
      let sN := field h 1 1
      let pN := field h 2 1
      let sR := if sN ≤ 8 then sN else 0
      let pR := if sN ≤ 8 ∧ pN ≤ 16 then pN else 0
      match s2.overStatus job with
      | some st => refuse s2 st
      | none =>
      if addr % 128 ≠ 0 then refuse s2 (status errAlign 0x60 0 0)
      else match s2.readEntries r.ctx (addr + 64) 64 (List.range sR), s2.readEntries r.ctx (addr + 64 + 64 * sR) 32 (List.range pR) with
      | .error e, _ => refuse s2 (status stFault (causeCode e.1) 0 e.2)
      | _, .error e => refuse s2 (status stFault (causeCode e.1) 0 e.2)
      | .ok sb, .ok pb =>
        let ss := sb.map parseStage
        let ps := pb.map parsePipe
        let bs := ([16, 32, 48].map (bridgeOf e)).filter fun b => b.2.1 != 0
        match planCheck addr h ss ps with
        | some (c, why, i) => refuse s2 (status c why 0 i)
        | none =>
          if bs.any fun b => decide (2 < b.2.1) then refuse s2 (status errBounds 0xB0 0 (match [16, 32, 48].find? fun o => decide (2 < field e (o + 1) 1) with | some o => o + 1 | none => 17))
          else if bs.any fun b => decide (511 < b.2.2.1) then refuse s2 (status errBounds 0xB0 0 (match [16, 32, 48].find? fun o => decide (511 < field e (o + 2) 2) with | some o => o + 2 | none => 18))
          else if bs.any (fun b => decide (pN ≤ b.1)) || decide ((dedup (bs.map (·.1))).length ≠ bs.length) then refuse s2 (status errBounds 0xA8 0 0)
          else
            let (rd, s3) := s2.stageDescs r.ctx (withIndex ss)
            match rd with
            | .error st => refuse s3 st
            | .ok ds =>
              match (List.range sN).find? fun i =>
                  let d := ds.getD i Desc.zero
                  !fitsWith (List.replicate ((ss.map (·.wpc)).getD i 1 - 1) d.grant) d.grant with
              | some i => refuse s3 (status errFootprint 0x67 0 i)
              | none =>
                let (pl, s4) := s3.fresh
                let cls := max (field h 3 1 % 4) r.cls
                let ls := (withIndex (ss.zip ds)).map fun x : Nat × (PlanStage × Desc) =>
                  { id := (s4.nextLaunch + x.1) % 2 ^ 32, ctx := r.ctx, ring := r.n, job := job, d := x.2.2, cls := cls,
                    args := BitVec.ofNat 64 x.2.1.args, gx := x.2.1.max * x.2.1.wpc, gy := 1, gz := 1, dies := diesOf x.2.1.dies,
                    whole := false, next := 0, count := 0, record := 0, msix := false, pipeline := some (pl, x.1), ending := false, done := false,
                    seedSerial := [], wetGroups := [] : Launch }
                let gs := (withIndex ss).map fun x : Nat × PlanStage =>
                  { launch := (s4.nextLaunch + x.1) % 2 ^ 32, min := x.2.min, initial := x.2.initial, max := x.2.max, wpc := x.2.wpc,
                    cores := [], finishing := false, done := false, share := x.2.min, past := (0, 0, 0) : Stage }
                let pipes := (withIndex (ps.map (·.1))).map fun x : Nat × Pipe =>
                  { x.2 with bridge := (bs.find? fun b => b.1 == x.1).map fun b =>
                      { side := if b.2.1 = 1 then BridgeEnd.out else .inn, peer := b.2.2.1, tag := b.2.2.2, isOpen := false,
                        since := s4.cycle, credits := 0, closed := false } }
                ({ s4 with
                  nextLaunch := (s4.nextLaunch + sN) % 2 ^ 32
                  launches := s4.launches ++ ls
                  pipelines := s4.pipelines ++
                    [{ id := pl, ctx := r.ctx, ring := r.n, job := job, cls := cls, balancer := field h 4 4 % 2 == 1, stages := gs,
                       pipes := pipes, record := record, msix := msix, state := .waiting, ending := false, admitted := 0, interval := 0, quiet := 0,
                       move := none, count := 0, pushWait := [] }] } : State).send .placementDecision

/-- The cancel command (R222, R465). At levels 0 and 1 a record address of 0 names the first unit of the context that has no record (DESIGN CHOICE, log entry 94). -/
def execCancelCommand (ring : Fin 256) (s : State) : Res :=
  ok <| match s.headEntry ring.val with
  | none => s
  | some (r, e) =>
    let lv := field e 8 1
    let a := field e 16 8
    let st := status stCancelled 0 0 0
    if 2 < lv then s.badOperand r e a 8
    else
      let s1 := s.takeEntry r.n
      let s2 :=
        if lv = 0 then match s1.launches.find? fun l => l.ctx == r.ctx && l.record == a && !l.done && l.pipeline.isNone with
          | some l => s1.endLaunch l.id st
          | none => s1
        else if lv = 1 then match s1.pipelines.find? fun l => l.ctx == r.ctx && l.record == a && !(l.state == .done) with
          | some l => s1.endPipeline l.id st
          | none => s1
        else match s1.jobs.find? fun j => j.ctx == r.ctx && (if a = 0 then j.isOpen && j.id == BitVec.ofNat 32 (field e 4 4) else !j.isOpen && j.record == a && !j.ended) with
          | some j => s1.cancelJob j.serial
          | none => s1
      s2.ringFree r.n

/-- The job end command closes a job id (R219). -/
def execJobEnd (ring : Fin 256) (s : State) : Res :=
  ok <| match s.headEntry ring.val with
  | none => s
  | some (r, e) =>
    let s1 := s.takeEntry r.n
    let id : W32 := BitVec.ofNat 32 (field e 4 4)
    let (serial, s2) := match s1.jobs.find? fun j => j.ctx == r.ctx && j.id == id && j.isOpen with
      | some j => (j.serial, s1)
      | none =>
        let (n, s2) := s1.joinJob r.ctx r.n id
        (n, s2.mapHostJob n fun j => { j with members := 0 })
    ((s2.mapHostJob serial fun j => { j with isOpen := false, record := field e 8 8, ring := r.n, msix := field e 3 1 == 1 }).jobMaybeEnd serial).ringFree r.n

/-- The read of a waiting ring waits behind an operation at its home, or for a walk (R289, R302). -/
def State.waitBusy (s : State) (n ctx a : Nat) : Bool :=
  if n = 0 then (spots a 8).any fun x => !s.homeIdle (x / 128) else s.virtualWaits ctx a 8 true

/-- Tests a Wait command's condition with a sys acquire; a read that fails is logged once (R465). -/
def State.testWait (s : State) (n : Nat) : State :=
  match s.ringBy n with
  | none => s
  | some r =>
    match r.waiting with
    | none => s
    | some (a, v, _) =>
      if s.waitBusy n r.ctx a then s.send (.waitRecheck (Fin.ofNat 256 n))
      else
      let rd := if n = 0 then
          if poisoned s.poison a 8 then .error Cause.poison else .ok (s.homeBytes a 8)
        else s.readVirtual r.ctx a 8
      let s1 := s.mapRing n fun r => { r with waiting := some (a, v, s.cycle) }
      match rd with
      | .error c =>
        if r.waitLogged then s1
        else (s1.mapRing n fun r => { r with waitLogged := true }).log 0x10 (if n = 0 then noCtx else r.ctx) [n, 0x05, a % 2 ^ 32, a / 2 ^ 32, causeCode c]
      | .ok b =>
        if 0 ≤ (ofBytes 64 b - v).toInt then
          let s2 := (s1.mapRing n fun r => { r with waiting := none }).ringFree n
          if r.msixPending then s2.out (.msix n) else s2
        else s1

/-- The wait command (R465): its job id opens no job (DEDUCED, log entry 93). -/
def execWait (ring : Fin 256) (s : State) : Res :=
  ok <| match s.headEntry ring.val with
  | none => s
  | some (r, e) =>
    ((s.takeEntry r.n).mapRing r.n fun r =>
      { r with waiting := some (field e 8 8, BitVec.ofNat 64 (field e 16 8), s.cycle), msixPending := field e 3 1 == 1 }).testWait r.n

/-- A waiting ring reads again after 1,024 cycles (R465). -/
def execWaitRecheck (ring : Fin 256) (s : State) : Res := ok (s.testWait ring.val)

/-- The translation invalidate command: no TLB keeps an entry of the range (R294). -/
def execTranslationInvalidate (ring : Fin 256) (s : State) : Res :=
  ok <| match s.headEntry ring.val with
  | none => s
  | some (r, e) =>
    let lo := field e 8 8
    let len := field e 16 8
    let hit := fun (t : TlbEntry) => t.ctx == r.ctx && decide (t.page * pageBytes t.level < lo + len) && decide (lo < (t.page + 1) * pageBytes t.level)
    let s1 := (s.takeEntry r.n).dropLeaves hit
    (s1.ringFree r.n).writeRecord r.ctx r.n 0x06 (field e 24 8) 0 0 (field e 3 1 == 1)

/-- The descriptor invalidate command (R464). -/
def execDescriptorInvalidate (ring : Fin 256) (s : State) : Res :=
  ok <| match s.headEntry ring.val with
  | none => s
  | some (r, e) =>
    let s1 := s.takeEntry r.n
    let s2 : State := { s1 with descCache := s1.descCache.filter fun x => !(x.1 == r.ctx && x.2.1 == field e 8 8) }
    (s2.ringFree r.n).writeRecord r.ctx r.n 0x07 (field e 16 8) 0 0 (field e 3 1 == 1)

/-- The context create command (R465). -/
def execContextCreate (s : State) : Res :=
  ok <| match s.headEntry 0 with
  | none => s
  | some (r, e) =>
    if 63 < field e 8 1 then s.badOperand r e (field e 32 8) 8
    else
      let s1 := s.takeEntry 0
      let c : Ctx := { n := field e 8 1, domain := field e 10 2, table := field e 16 8, save := field e 24 8, ending := none }
      let s2 : State := { s1 with ctxs := s1.ctxs.filter (fun x => x.n != c.n) ++ [c] }
      (s2.writeRingRecord r 0x40 (field e 32 8) 0 0 (field e 3 1 == 1)).ringFree 0

/-- The context end command: its record is written once every job of the context has ended (R465). -/
def execContextEnd (s : State) : Res :=
  ok <| match s.headEntry 0 with
  | none => s
  | some (r, e) =>
    if 63 < field e 8 1 then s.badOperand r e (field e 16 8) 8
    else
      let s1 := s.takeEntry 0
      let c := field e 8 1
      if (s1.ctxBy c).isNone then (s1.writeRingRecord r 0x41 (field e 16 8) 0 0 (field e 3 1 == 1)).ringFree 0
      else
        ({ s1 with ctxs := s1.ctxs.map fun x => if x.n = c then { x with ending := some (field e 16 8, 0, field e 3 1 == 1) } else x } : State).ctxMaybeEnd c

/-- The ring configure command (R465): an operand out of range stops ring 0. -/
def execRingConfigure (s : State) : Res :=
  ok <| match s.headEntry 0 with
  | none => s
  | some (_, e) =>
    let n := field e 8 1
    let k := field e 11 1
    if n = 0 ∨ 63 < field e 9 1 ∨ 3 < field e 10 1 ∨ k < 3 ∨ 16 < k then s.stopRing 0 2
    else
      let s1 := s.takeEntry 0
      let r : Ring := { n := n, conf := true, base := field e 16 8, headAddr := field e 24 8, k := k, q := BitVec.ofNat 16 (field e 12 2),
                        cls := field e 10 1, ctx := field e 9 1, tail := 0, head := 0, state := 0, busy := false, entry := [], waiting := none,
                        waitLogged := false, msixPending := false }
      ({ s1 with rings := s1.rings.filter (fun x => x.n != n) ++ [r] } : State).ringFree 0

/-! ## The host's registers -/

/-- Leaves Idle for P0 (R485). -/
def State.wake (s : State) : State :=
  if s.skepin.pwr = .idle then
    ({ s with skepin := { s.skepin with pwr := .p0 } } : State).log 0x0A noCtx [2, 0, 0]
  else s

/-- The host writes a ring's tail (R461); a waiting ring reads its address again (R465). -/
def execDoorbell (ring : Fin 256) (tail : W32) (s : State) : Res :=
  ok <|
    let s1 := s.wake.mapRing ring.val fun r => { r with tail := tail }
    match s1.ringBy ring.val with
    | none => s1
    | some r => if r.waiting.isSome then s1.testWait ring.val else s1.ringNext ring.val

/-- A ring is taking an entry: its command has been read and has not ended. One that waits under a Wait command has taken it. -/
def Ring.taking (r : Ring) : Bool := r.busy && r.waiting.isNone

/-- ADM_CFG (R463): a ring 0 that is disabled stops after the entry that it is taking. -/
def execAdmCfgWrite (x : W32) (s : State) : Res :=
  ok <|
    let en := x.getLsbD 31
    let k := (x >>> 16).setWidth 5
    let q := x.setWidth 16
    let a : Adm := { s.adm with en := true, k := k, q := q }
    let ending := s.rings.any fun r => r.n == 0 && !r.conf
    if s.adm.en then
      if en then s
      else { s with adm := { s.adm with en := false }
                    rings := (s.rings.filter fun r => r.n != 0 || r.taking).map fun r => if r.n = 0 then { r with conf := false } else r }
    else if !en ∨ k.toNat < 3 ∨ 16 < k.toNat then { s with adm := { s.adm with k := k, q := q } }
    else if ending then { s with adm := a }
    else { s with adm := a, rings := s.rings.filter (fun x => x.n != 0) ++ [a.ring] }

/-- ADM_BASE (R463): taken only while the ring is disabled; reserved bits read as zero. -/
def execAdmBaseWrite (x : W64) (s : State) : Res :=
  ok (if s.adm.en then s else { s with adm := { s.adm with base := x &&& 0x000FFFFFFFFFF000 } })

/-- ADM_HEAD (R463). -/
def execAdmHeadWrite (x : W64) (s : State) : Res :=
  ok (if s.adm.en then s else { s with adm := { s.adm with head := x &&& 0x000FFFFFFFFFFFF8 } })

end Sys2Proof.Machine
end

