-- ==== Sys2Proof/Machine/Sync.lean ====
section
/-! DEFINITION. Workgroup barrier, barrier objects and ticket dispensers (R246 to R257, R268, R269). -/

namespace Sys2Proof.Machine

/-- Raises ILLEGAL for an S word (R103). -/
def State.illegalS (s : State) (len : Nat) : State := s.trapS len .illegal 0

/-! ## The workgroup barrier -/

/-- Pods of a workgroup that have not exited. -/
def State.livePods (s : State) (wg : Nat) : List Pod := s.allPods.filter fun p => p.key.wg == wg && !p.exited

/-- Completes the barrier when every pod has arrived: all of them complete their WGSYNC together, and their coats close (R248, R268). The mark of a pod that stands stopped counts no more: its word runs again (R392, R394). -/
def State.syncMaybe (s : State) (wg : Nat) : State :=
  match s.wgBy wg with
  | none => s
  | some w =>
    let ps := s.livePods wg
    if !ps.isEmpty && ps.all fun p => w.arrived.contains p.key.pod && !p.stopped then
      (s.mapWg wg fun w => { w with arrived := [], journal := w.journal.filter fun e => !w.arrived.contains e.pod }).mapPods fun p =>
        if p.key.wg = wg ∧ w.arrived.contains p.key.pod then { p with coat := none, pc := p.pc + 4, held := .none, sTxn := Txn.empty } else p
    else s

/-- WGSYNC (R248). -/
def execWgsync (s : State) : Res :=
  ok <| s.afterLanes fun s =>
    let s1 : State := { s with wg := { s.wg with arrived := if s.wg.arrived.contains s.pod.key.pod then s.wg.arrived else s.wg.arrived ++ [s.pod.key.pod] } }
    let s2 := s1.syncMaybe s.pod.key.wg
    if s2.wg.arrived.isEmpty then s2 else s2.holdS .cond

/-! ## Barrier objects -/

/-- An operation of a word on an object: the object is known to the port from then on, and the completion rule follows (R250). -/
def State.putBar (s : State) (off : Nat) (o : Bar) : State :=
  { s with wg := { s.wg.putBar off o.complete with objects := if s.wg.objects.contains off then s.wg.objects else s.wg.objects ++ [off] } }

/-- A counted arrival is misused (R251). -/
def Bar.misused (o : Bar) : Bool := o.expected == 0 || decide (o.expected ≤ o.arrivals)

/-- The phase f has reached p + 1 (R252). -/
def reached (f p : W32) : Bool := decide ((f - p - 1).toNat < 2 ^ 31)

/-- BINIT (R251). -/
def execBinit (d a b : Fin 64) (s : State) : Res :=
  ok <|
    let e := s.readS a.val
    s.scratchAt 4 e 16 fun s =>
      let n := (s.readS b.val).toNat
      if n = 0 ∨ 65535 < n then (s.writeStatus d.val (status errBounds 0x70 0 0)).advance 4
      else if (s.wg.bar e.toNat).arrivals ≠ 0 then s.trapS 4 .barMisuse e
      else ((s.closeCoat.putBar e.toNat { phase := 0, expected := n, arrivals := 0, expBytes := 0, arrBytes := 0 }).writeStatus d.val 0).advance 4

/-- The arrival of BARR and BARRX: x bytes are announced (R251). -/
def State.arrive (s : State) (a b : Nat) (x : Nat) : State :=
  s.afterLanes fun s =>
    let e := s.readS a
    s.scratchAt 4 e 16 fun s =>
      let o := s.wg.bar e.toNat
      if o.misused || decide (2 ^ 32 ≤ o.expBytes + x) then s.trapS 4 .barMisuse e
      else
        let o1 := { o with expBytes := o.expBytes + x, arrivals := o.arrivals + 1 }
        ((s.closeCoat.putBar e.toNat o1).writeStatus b o.phase).advance 4

/-- BARR (R251). -/
def execBarr (a b : Fin 64) (s : State) : Res := ok (s.arrive a.val b.val 0)

/-- BARRX (R251): s_b is read before it is written. -/
def execBarrx (a b : Fin 64) (s : State) : Res := ok (s.arrive a.val b.val (s.readS b.val).toNat)

/-- What a pod that waits in BWAIT (phase 8) or XWAIT (phase 18) waits for has come: the phase of its barrier object, or the value of its arrival counter (R252, R448). -/
def Pod.hasCome (p : Pod) (w : Wg) : Bool :=
  if p.sTxn.phase = 8 then reached (w.bar p.sTxn.key).phase (p.sTxn.start.setWidth 32)
  else decide (p.sTxn.phase = 18) && decide (0 ≤ (ofBytes 64 (NMap.bytes w.scratch p.sTxn.key 8) - p.sTxn.start).toInt)

/-- After operations on barrier objects and arrival counters, each BWAIT and XWAIT that waits looks at its own: one that is satisfied will complete (R252, R448). -/
def State.wakeBars (s : State) : State :=
  if s.allPods.any fun p => p.sTxn.phase == 8 || p.sTxn.phase == 18 then
    s.mapPods fun p =>
      if (p.sTxn.phase == 8 || p.sTxn.phase == 18) && (s.wgBy p.key.wg).any p.hasCome then { p with sTxn := { p.sTxn with phase := p.sTxn.phase + 1 } } else p
  else s

/-- BWAIT (R252): phase 8 marks that it waits, phase 9 that its phase has been reached since. -/
def execBwait (a b : Fin 64) (s : State) : Res :=
  ok <|
    let e := s.readS a.val
    s.scratchAt 4 e 16 fun s =>
      let o := s.wg.bar e.toNat
      if s.pod.sTxn.phase = 9 then (s.acquire .wg).advance 4
      else if o.expected = 0 then s.trapS 4 .barMisuse e
      else if reached o.phase ((s.readS b.val).setWidth 32) then ((s.putBar e.toNat o).acquire .wg).advance 4
      else ((s.putBar e.toNat o).setTxn .s { Txn.empty with phase := 8, key := e.toNat, start := s.readS b.val }).holdS .cond

/-- BTEST (R252). -/
def execBtest (d a b : Fin 64) (par : Bool) (s : State) : Res :=
  ok <|
    let e := s.readS a.val
    s.scratchAt 4 e 16 fun s =>
      let o := s.wg.bar e.toNat
      let p : W32 := (s.readS b.val).setWidth 32
      if o.expected = 0 then s.trapS 4 .barMisuse e
      else
        let r := if par then o.phase.getLsbD 0 != p.getLsbD 0 else reached o.phase p
        let s := s.putBar e.toNat o
        ((if r then s.acquire .wg else s).writeS d.val (if r then 1 else 0)).advance 4

/-! ## Operations at a home -/

/-- Bytes of a line in publications of a core that have not reached its home, the latest last. -/
def State.unsent (s : State) (core line : Nat) : LineBytes :=
  s.pubs.flatMap fun p => if p.core = core then p.parts.flatMap fun q => if q.line = line ∧ q.stage = .sending then q.bytes else [] else []

/-- Takes bytes out of the publications of a core that have not reached the home of their line. -/
def State.unpublish (s : State) (core line : Nat) (offs : List Nat) : State :=
  { s with pubs := s.pubs.map fun p =>
      if p.core = core then
        { p with parts := p.parts.map fun q => if q.line = line ∧ q.stage = .sending then { q with bytes := q.bytes.filter fun e => !offs.contains e.1 } else q }
      else p }

/-- Takes a core's own dirty bytes at some offsets of a line, from its L1, its stash, or a publication that has not reached the home: each is published once, with the operation (R306, R324, R328, R350). Its L1 drops its copy of those bytes, and no fill in flight brings them back. -/
def State.takeOwn (s : State) (core line : Nat) (offs : List Nat) : LineBytes × State :=
  let c := s.coreBy core
  let own := offs.filterMap fun o => match (c.dirtyBytes line).find? (fun e => e.1 == o) with
    | some e => some e
    | none => match c.stashByte line o with
      | some b => some (o, b)
      | none => (s.unsent core line).reverse.find? fun e => e.1 == o
  (own, (((s.outdate core line).storedAgain core line offs).unpublish core line offs).mapCore core fun c =>
    ((c.dropBytes line offs.contains).dropStash line offs.contains).voidFills (· == line))

/-- The core's own dirty bytes at some offsets of a line lie in a marked sector (R404). -/
def State.ownBad (s : State) (core line : Nat) (offs : List Nat) : Bool :=
  !((s.coreBy core).badIn line (offs.map fun o => (o, 0))).isEmpty

/-- An atomic's bytes commit at once and the other holders are told (R309, R324, R349). -/
def State.commitAtomic (s : State) (core line : Nat) (own new : LineBytes) : State :=
  let s1 := (s.commitLine line own).commitLine line new
  if lineHost line || (s1.homeOf line).isNone then s1
  else s1.notifyFast line [core] (if core < Config.cores then [clusterOf core] else []) []

/-- A reply for a stream of a pod. -/
def State.reply (s : State) (k : PodKey) (st : Stream) (lane : Nat) (x : W64) : State :=
  s.mapPod k fun p => match st with
    | .s => { p with sTxn := { p.sTxn with outstanding := p.sTxn.outstanding - 1, replies := p.sTxn.replies ++ [(lane, x)] } }
    | .l => { p with lTxn := { p.lTxn with outstanding := p.lTxn.outstanding - 1, replies := p.lTxn.replies ++ [(lane, x)] } }

/-! ## Tickets -/

/-- Now-serving has reached ticket t (R256). -/
def ticketServed (serving t : W64) : Bool := decide (0 ≤ (serving - t).toInt)

/-- The bytes of a dispenser. -/
def ticketOffs (r : TicketReq) : List Nat := (List.range 16).map (r.key % 128 + ·)

/-- A ticket word executes at its dispenser's home (R256, R257). src is the requesting device. The answer is the ticket, 1 or 0 for a wait, 1 for a misused serve. -/
def State.ticketAt (s : State) (src : Nat) (r : TicketReq) : W64 × State :=
  let line := r.key / 128
  let off := r.key % 128
  let offs := (List.range 16).map (off + ·)
  let (own, s1) := if src = s.dev then s.takeOwn r.core line offs else ([], s)
  let s2 := s1.commitLine line own
  let next : W64 := ofBytes 64 (s2.homeBytes r.key 8)
  let serving : W64 := ofBytes 64 (s2.homeBytes (r.key + 8) 8)
  let core := if src = s.dev then r.core else Config.cores
  match r.kind with
  | .take => (next, s2.commitAtomic core line [] (lineSpan r.key (toBytes (next + 1) 8)))
  | .wait t =>
    if ticketServed serving t then (1, s2)
    else (0, s2.mapHome line fun h =>
      if src = s.dev then { h with sleepers := h.sleepers ++ [(r.pod, r.key, t)] } else { h with farSleepers := h.farSleepers ++ [(src, r.pod, r.key, t)] })
  | .serve =>
    if serving = next then (1, s2)
    else
      let s3 := s2.commitAtomic core line [] (lineSpan (r.key + 8) (toBytes (serving + 1) 8))
      let h := s3.homeD line
      let s4 := s3.sendAll ((h.sleepers.filter fun e => e.2.1 == r.key).map fun e => Msg.ticketServingValue e.1 r.key (serving + 1))
      let far := h.farSleepers.filter fun e => e.2.2.1 == r.key
      let s5 := s4.mapHome line fun h =>
        { h with farSleepers := h.farSleepers.filter fun e => !(e.2.2.1 == r.key && ticketServed (serving + 1) e.2.2.2) }
      (0, far.foldl (fun s e => s.sendRequest e.1 (.serving e.2.1 r.key (serving + 1)) .none) s5)

/-- The coat closes when a ticket word has taken effect: a TKTAKE, and a TKSERVE that is not misused (R268, R269). -/
def ticketCloses (k : TicketKind) (x : W64) : Bool :=
  match k with
  | .take => true
  | .serve => x != 1
  | .wait _ => false

/-- A ticket word that had to wait for its home (R256, R302). -/
def execTicketOperation (r : TicketReq) (s : State) : Res :=
  ok <| match s.queued r.core (r.key / 128) (ticketOffs r) (.ticketOperation r) with
    | some t => t
    | none =>
      let a := (if r.kind == .take then s.respond r.core (r.key / 128) (s.marks (r.key / 128)) else s).ticketAt s.dev r
      (if ticketCloses r.kind a.1 then a.2.closeCoatOf r.pod else a.2).reply r.pod .s 0 a.1

/-- A sleeper applies a serving value (R257): it is released by the first that satisfies it, which last records. -/
def execTicketServingValue (p : PodKey) (key : Nat) (value : W64) (s : State) : Res :=
  ok <|
    let s1 := if (s.homeOf (key / 128)).isSome then
        s.mapHome (key / 128) fun h => { h with sleepers := h.sleepers.filter fun e => !(e.1 == p && e.2.1 == key && ticketServed value e.2.2) } else s
    s1.mapPod p fun q =>
      if q.sTxn.phase = 7 ∧ q.sTxn.key = key ∧ ticketServed value q.sTxn.start then { q with sTxn := { q.sTxn with last := 1 } } else q

/-- A ticket word as a request of the pod in focus: k goes on with the answer. w is the progress of the word while it has none. -/
def State.ticket (s : State) (l : Loc) (kind : TicketKind) (h : Hold) (w : Txn → Txn) (k : W64 → State → State) : State :=
  let t := s.pod.sTxn
  let r : TicketReq := ⟨s.core.n, s.pod.key, l.key, kind⟩
  match t.replies with
  | (_, x) :: _ => k x s
  | [] =>
    let asked := fun (s : State) => s.setTxn .s (w { s.pod.sTxn with outstanding := 1 })
    if t.outstanding ≠ 0 then s.holdS h
    else if lineRemote l.line then
      ((asked s).sendRequest (lineDev l.line) (.ticket { r with key := l.key % spaceBytes }) (.pod s.pod.key .s 0)).holdS h
    else
      let s := s.touchHome l
      let req := Msg.ticketOperation r
      match (if kind == .take then s.asked s.core.n l.line (ticketOffs r) req else s.queued s.core.n l.line (ticketOffs r) req) with
      | some s => (asked s).holdS h
      | none =>
        let a := (if kind == .take then s.respond s.core.n l.line (s.marks l.line) else s).ticketAt s.dev r
        k a.1 a.2

/-- The check of a dispenser's address (R256). -/
def State.dispenserAt (s : State) (a : Nat) (store : Bool) (k : W64 → Loc → State → State) : State :=
  let e := s.readS a
  s.flat 4 e 16 store fun l s => if l.tracked then k e l s else s.trapS 4 .barMisuse e

def tkScope (sys : Bool) : Scope := if sys then .sys else .dev

/-- TKTAKE (R256). -/
def execTktake (a b : Fin 64) (_sys : Bool) (s : State) : Res :=
  ok <| s.dispenserAt a.val true fun _ l s => s.ticket l .take .plain id fun x s => (s.closeCoat.writeS b.val x).advance 4

/-- TKWAIT (R256, R257): phase 7 marks that it asks or sleeps; last is 1 once a serving value has satisfied it. -/
def execTkwait (a b : Fin 64) (sys : Bool) (s : State) : Res :=
  ok <| s.dispenserAt a.val false fun _ l s =>
    let t := s.readS b.val
    let sleep := fun (x : Txn) => { x with phase := 7, start := t, key := l.key }
    let go := fun (s : State) => (s.acquire (tkScope sys)).advance 4
    if s.pod.sTxn.phase = 7 ∧ s.pod.sTxn.outstanding = 0 ∧ s.pod.sTxn.replies.isEmpty then
      if s.pod.sTxn.last = 1 then go s else s.holdS .cond
    else s.ticket l (.wait t) .cond sleep fun x s =>
      if x = 1 ∨ s.pod.sTxn.last = 1 then go s
      else (s.setTxn .s (sleep { s.pod.sTxn with outstanding := 0, replies := [] })).holdS .cond

/-- TKSERVE (R256): its release stands even when the dispenser is misused. -/
def execTkserve (a : Fin 64) (sys : Bool) (s : State) : Res :=
  ok <| s.dispenserAt a.val true fun e l s =>
    s.release .s 0 (tkScope sys) fun s =>
      s.ticket l .serve .plain id fun x s => if x = 1 then s.trapS 4 .barMisuse e else s.closeCoat.advance 4

end Sys2Proof.Machine
end

