-- ==== Sys2Proof/Machine/Pipes.lean ====
section
/-! DEFINITION. Pipes and bridges (R258 to R265, R456 to R458), seeds (R266) and cancellation by a pod (R267). -/

namespace Sys2Proof.Machine

/-! ## Pipes -/

/-- The pipeline and stage of the pod in focus. -/
def State.curStage (s : State) : Option (Pipeline × Nat) :=
  match s.curLaunch with
  | none => none
  | some l => match l.pipeline with
    | none => none
    | some (pl, st) => (s.plBy pl).map fun p => (p, st)

def State.mapPipe (s : State) (pl i : Nat) (f : Pipe → Pipe) : State :=
  s.mapPl pl fun l => { l with pipes := match l.pipes[i]? with
    | none => l.pipes
    | some p => setAt l.pipes i (f p) }

def State.pipeAt (s : State) (pl i : Nat) : Option Pipe := (s.plBy pl).bind fun l => l.pipes[i]?

/-- The pipe accepted a push or a pop: the monitor counts from here (R400). -/
def State.moved (s : State) (pl : Nat) : State := s.mapPl pl fun l => { l with quiet := s.cycle }

/-- Tiles that a pop can take now (R261). -/
def Pipe.holds (p : Pipe) : Bool := decide (0 < p.spilled) || !p.slots.isEmpty
def Pipe.full (p : Pipe) : Bool := decide (p.depth ≤ p.slots.length)

def Pipe.hasEnd (p : Pipe) (e : BridgeEnd) : Bool := p.bridge.any fun b => b.side == e

/-- Wakes the waiters of a pipe that can go on (R262). -/
def State.wakePipe (s : State) (pl i : Nat) : State :=
  match s.pipeAt pl i with
  | none => s
  | some p =>
    let s1 := if !p.pushers.isEmpty && (!p.full || p.closed) then s.send (.pipePushAccept pl i) else s
    if !p.poppers.isEmpty && (p.holds || p.closed) then s1.send (.pipePopAccept pl i) else s1

/-- The address of the oldest tile of a spill region (R401). -/
def Pipe.spillAt (p : Pipe) (a : Nat) : Nat := a + (p.spills - p.spilled) % p.depth * p.slotSize

/-- The oldest tile stands in the spill region, and reading it has to wait (R289, R302). -/
def State.tileWaits (s : State) (pl i : Nat) : Bool :=
  match s.plBy pl, s.pipeAt pl i with
  | some l, some p => decide (0 < p.spilled) && p.spill.any fun a => s.virtualWaits l.ctx (p.spillAt a) p.slotSize true
  | _, _ => false

/-- Takes the oldest tile: the spill queue first (R261, R402). A spill slot that cannot be read gives its cause. -/
def State.takeTile (s : State) (pl i : Nat) : Except Cause (Option Slot) × State :=
  match s.plBy pl, s.pipeAt pl i with
  | some l, some p =>
    if 0 < p.spilled then
      match p.spill with
      | none => (.ok none, s)
      | some a =>
        match s.readTile l.ctx (p.spillAt a) p.slotSize with
        | .error c => (.error c, s)
        | .ok t => (.ok (some t), (s.mapPipe pl i fun p => { p with spilled := p.spilled - 1 }).moved pl)
    else match p.slots with
      | [] => (.ok none, s)
      | t :: r => (.ok (some t), (s.mapPipe pl i fun p => { p with slots := r }).moved pl)
  | _, _ => (.ok none, s)

/-! ## Bridges -/

/-- The bridge of this device with a peer and a pair tag (R456). -/
def State.bridgeWith (s : State) (peer tag : Nat) : Option (Pipeline × Nat × Pipe × Bridge) :=
  s.pipelines.findSome? fun l =>
    if l.state == .done then none
    else (withIndex l.pipes).findSome? fun e => match e.2.bridge with
      | none => none
      | some b => if b.peer = peer ∧ b.tag = tag then some (l, e.1, e.2, b) else none

def State.mapBridge (s : State) (pl i : Nat) (f : Bridge → Bridge) : State :=
  s.mapPipe pl i fun p => { p with bridge := p.bridge.map f }

/-- An out-end sends the tiles for which it has credit, and the close after the last tile (R456, R457). -/
def State.pump (s : State) (pl i : Nat) : Nat → State
  | 0 => s
  | n + 1 =>
    match s.pipeAt pl i with
    | none => s
    | some p =>
      match p.bridge with
      | none => s
      | some b =>
        if !(b.side == .out) || !b.isOpen || b.closed then s
        else if p.holds then
          if b.credits = 0 then s
          else if s.tileWaits pl i then s.send (.pipePopAccept pl i)
          else
            let t := s.takeTile pl i
            match t.1 with
            | .ok (some x) =>
              let s1 := (t.2.mapBridge pl i fun b => { b with credits := b.credits - 1 }).sendRequest b.peer
                (.bridgeTile (BitVec.ofNat 32 b.tag) x) (.bridge pl i)
              (s1.wakePipe pl i).pump pl i n
            | .ok none => s
            | .error c => match t.2.plBy pl with
              | some l => t.2.faultJob l.job c
              | none => t.2
        else if p.closed then
          (s.mapBridge pl i fun b => { b with closed := true }).sendRequest b.peer (.bridgeClose (BitVec.ofNat 32 b.tag)) (.bridge pl i)
        else s

def State.pumpAll (s : State) (pl i : Nat) : State := s.pump pl i 1024

/-- An in-end grants a slot (R456). -/
def State.grantCredits (s : State) (pl i n : Nat) : State :=
  match (s.pipeAt pl i).bind (·.bridge) with
  | none => s
  | some b =>
    if b.isOpen && b.side == .inn then
      (List.range n).foldl (fun s _ => s.sendRequest b.peer (.bridgeCredit (BitVec.ofNat 32 b.tag)) (.bridge pl i)) s
    else s

/-- A bridge opens (R458): an in-end grants all its slots, an out-end may send. -/
def State.openBridge (s : State) (pl i : Nat) : State :=
  let s1 := s.mapBridge pl i fun b => { b with isOpen := true }
  match s1.pipeAt pl i with
  | none => s1
  | some p => if p.hasEnd .inn then s1.grantCredits pl i p.depth else s1

/-- A failed bridge faults the job of its pipeline (R458). -/
def State.failBridge (s : State) (l : Pipeline) (b : Bridge) : State :=
  (s.log 0x0F l.ctx [b.tag, if b.side == .out then 1 else 2, b.peer]).faultJob l.job .bridgeUnmatched

/-- The other side of a bridge has gone (R457): an in-end closes, an out-end discards what it holds. -/
def State.endBridge (s : State) (pl i : Nat) : State :=
  (s.mapPipe pl i fun p => match p.bridge with
    | none => p
    | some b =>
      if b.side == .inn then { p with closed := true }
      else { p with closed := true, slots := [], spilled := 0, bridge := some { b with closed := true, credits := 0 } }).wakePipe pl i

/-- A peer has become unreachable (R457, R458). -/
def State.bridgesLost (s : State) (peer : Nat) : State :=
  let bs := s.pipelines.flatMap fun l =>
    if l.state == .done || l.state == .waiting then []
    else (withIndex l.pipes).filterMap fun e => match e.2.bridge with
      | none => none
      | some b => if b.peer = peer then some (l, e.1, b) else none
  bs.foldl (fun s e => if e.2.2.isOpen then s.endBridge e.1.id e.2.1 else s.failBridge e.1 e.2.2) s

/-- A bridge-open message (R458): peer sent it; names is the device that it names as its peer. -/
def execBridgeOpen (peer : Fin 512) (tag : W32) (e : BridgeEnd) (names : Fin 512) (s : State) : Res :=
  ok <| match s.bridgeWith peer.val tag.toNat with
  | some (l, i, _, b) =>
    if b.isOpen then s
    else if l.state == .waiting then { s with heldOpens := s.heldOpens ++ [⟨peer.val, tag.toNat, e, names.val, s.cycle⟩] }
    else if e == b.side || names.val != s.dev then s.failBridge l b
    else (s.openBridge l.id i).pumpAll l.id i
  | none => { s with heldOpens := s.heldOpens ++ [⟨peer.val, tag.toNat, e, names.val, s.cycle⟩] }

/-- A held bridge-open message meets a bridge that has been admitted since, or is dropped after 20 ms (R458). -/
def execHeldBridgeOpenDrop (peer : Fin 512) (tag : W32) (s : State) : Res :=
  match s.heldOpens.find? (fun o => o.peer == peer.val && o.tag == tag.toNat) with
  | none => ok s
  | some o =>
    let s1 : State := { s with heldOpens := removeFirst (fun o => o.peer == peer.val && o.tag == tag.toNat) s.heldOpens }
    match s.bridgeWith peer.val tag.toNat with
    | some (l, _, _, _) =>
      if l.state == .waiting then ok (if 54000000 ≤ s.since o.since then s1 else s)
      else execBridgeOpen peer tag o.e (Fin.ofNat 512 o.names) s1
    | none => ok (if 54000000 ≤ s.since o.since then s1 else s)

/-- A bridge that has not opened 20 ms after admission fails (R458). -/
def execBridgeOpenTimeout (pl p : Nat) (s : State) : Res :=
  ok <| match s.plBy pl, (s.pipeAt pl p).bind (·.bridge) with
  | some l, some b => if !b.isOpen && !(l.state == .waiting) && !(l.state == .done) && 54000000 ≤ s.since b.since then s.failBridge l b else s
  | _, _ => s

/-- A tile arrives at an in-end with its marks and enters as a push does (R404, R456, R457). -/
def execBridgeTile (peer : Fin 512) (tag : W32) (data : Slot) (s : State) : Res :=
  ok <| match s.bridgeWith peer.val tag.toNat with
  | none => s
  | some (l, i, p, b) =>
    if b.side == .inn && !p.closed then
      ((s.mapPipe l.id i fun p => { p with slots := p.slots ++ [data] }).moved l.id).wakePipe l.id i
    else s

/-- A credit arrives at an out-end (R456). -/
def execBridgeCredit (peer : Fin 512) (tag : W32) (s : State) : Res :=
  ok <| match s.bridgeWith peer.val tag.toNat with
  | none => s
  | some (l, i, _, b) =>
    if b.side == .out then (s.mapBridge l.id i fun b => { b with credits := b.credits + 1 }).pumpAll l.id i else s

/-- A close arrives from the other side of a bridge (R457). -/
def execBridgeClose (peer : Fin 512) (tag : W32) (s : State) : Res :=
  ok <| match s.bridgeWith peer.val tag.toNat with
  | none => s
  | some (l, i, _, _) => s.endBridge l.id i

/-! ## Pipe words -/

/-- A PIPE_TYPE trap of a pipe word of len bytes. -/
def State.pipeTrap (s : State) (len p : Nat) : State := s.trapS len .pipeType (BitVec.ofNat 64 p)

/-- Grants of the operand (R259, R17). -/
def operandGranted (g : Grants) : PipeOperand → Bool
  | .tile n => decide (n.val < g.tiles)
  | .box _ lay => decide (lay.val < g.lays)

/-- Check 3 of R259. -/
def pipeTiles (p : Pipe) : Nat := (p.slotSize + 2047) / 2048

/-- Check 4 of R259. -/
def boxMatches (e : LayEntry) (p : Pipe) : Bool :=
  decide (e.space = 1) && decide (e.fmtCode = p.fmt) && decide (e.box 0 = p.cols)
  && (if e.rank = 1 then decide (p.rows = 1)
      else decide (e.box 1 = p.rows) && decide (e.box 2 = 1) && decide (e.box 3 = 1) && decide (e.box 4 = 1))

/-- The checks of a pipe word in order: 1 to 4 of R259, then the elements of a box under R131 and R210. k receives the pipeline, the pipe and the entry of a box. -/
def State.pipeWord (s : State) (p : Nat) (x : PipeOperand) (mayUse : Pipeline → Nat → Pipe → Bool)
    (k : Pipeline → Pipe → Option LayEntry → State → State) : State :=
  if !operandGranted s.wg.grant x then s.illegalS 8
  else match s.curStage with
  | none => s.pipeTrap 8 p
  | some (l, st) =>
    match l.pipes[p]? with
    | none => s.pipeTrap 8 p
    | some pp =>
      if !mayUse l st pp then s.pipeTrap 8 p
      else match x with
      | .tile n => if n.val + pipeTiles pp ≤ s.wg.grant.tiles then k l pp none s else s.pipeTrap 8 p
      | .box a lay =>
        match s.wg.entry lay.val with
        | none => s.pipeTrap 8 p
        | some e =>
          if !boxMatches e pp then s.pipeTrap 8 p
          else match s.checkPlaces e (e.places (s.coordsFrom a.val e.rank) (fun _ => true) false) true false with
            | some (c, addr) => s.trapS 8 c addr
            | none => k l pp (some e) s

/-- The tile that a PPUSH places (R260). -/
def State.pushData (s : State) (x : PipeOperand) (p : Pipe) (e : Option LayEntry) : Slot :=
  match x, e with
  | .tile n, _ =>
    ⟨NMap.bytes s.wg.tile (n.val * 2048) p.slotSize, marksOf s.wg.tilePoison (n.val * 2048) (p.slotSize + 31)⟩
  | .box a _, some e =>
    let org := s.coordsFrom a.val e.rank
    ⟨s.readBox e org, dedup ((e.elems org).filterMap fun x => match x.place with
      | some pl => if poisoned s.wg.scratchPoison (swz e.perm pl.1) e.size then some (x.l * e.fmt.bits / 256) else none
      | none => none)⟩
  | .box _ _, none => ⟨[], []⟩

/-- Writes a popped tile (R260): poison marks travel with the sectors (R404). -/
def State.popData (s : State) (x : PipeOperand) (t : Slot) (e : Option LayEntry) : State :=
  match x, e with
  | .tile n, _ =>
    let s1 := (List.range ((t.data.length + 2047) / 2048)).foldl
      (fun s i => s.putTile (n.val + i) 0 ((t.data.drop (2048 * i)).take 2048)) s
    { s1 with wg := { s1.wg with tilePoison := t.bad.foldl (fun m i => NMap.set m (n.val * 64 + i) 1) s1.wg.tilePoison } }
  | .box a _, some e =>
    s.boxStore 0 e (s.boxPuts e (s.coordsFrom a.val e.rank) (NMap.ofList t.data) t.bad.contains)
  | .box _ _, none => s

/-- A push across an out-end is a release of sys scope (R457). -/
def pushScope (p : Pipe) : Scope := if p.hasEnd .out then .sys else .dev
def popScope (p : Pipe) : Scope := if p.hasEnd .inn then .sys else .dev

/-- PPUSH (R261, R262). -/
def execPpush (d : Fin 64) (p : Fin 16) (x : PipeOperand) (s : State) : Res :=
  ok <| s.pipeWord p.val x (fun _ st pp => pp.producer == st && !pp.hasEnd .inn) fun l pp e s =>
    if pp.closed then s.pipeTrap 8 p.val
    else
      let me := s.pod.key
      let s := if pp.pushers.contains me then s else s.mapPipe l.id p.val fun q => { q with pushers := q.pushers ++ [me] }
      let q := if pp.pushers.contains me then pp.pushers else pp.pushers ++ [me]
      if pp.full then s.holdS (.pushFull p.val)
      else if q.head? ≠ some me then s.holdS .plain
      else s.release .s 0 (pushScope pp) fun s =>
        let s1 := (s.mapPipe l.id p.val fun r =>
          { r with slots := r.slots ++ [s.pushData x pp e], pushers := r.pushers.filter (· != me) }).moved l.id
        let s2 := (s1.closeCoat.writeStatus d.val 0).advance 8
        (s2.wakePipe l.id p.val).pumpAll l.id p.val

/-- PPOP (R261, R262). -/
def execPpop (d : Fin 64) (p : Fin 16) (x : PipeOperand) (s : State) : Res :=
  ok <| s.pipeWord p.val x (fun _ st pp => pp.consumer == st && !pp.hasEnd .out) fun l pp e s =>
    let me := s.pod.key
    let leave := fun (s : State) => s.mapPipe l.id p.val fun q => { q with poppers := q.poppers.filter (· != me) }
    if !pp.holds then
      if pp.closed then ((leave s).writeStatus d.val (status stClosed 0 0 p.val)).advance 8
      else
        let s := if pp.poppers.contains me then s else s.mapPipe l.id p.val fun q => { q with poppers := q.poppers ++ [me] }
        s.holdS (.popEmpty p.val)
    else if !pp.poppers.isEmpty && pp.poppers.head? ≠ some me then
      (if pp.poppers.contains me then s else s.mapPipe l.id p.val fun q => { q with poppers := q.poppers ++ [me] }).holdS .plain
    else if s.tileWaits l.id p.val then s.holdS .plain
    else
      let t := (leave s).takeTile l.id p.val
      match t.1 with
      | .error c => t.2.faultPod c
      | .ok none => s.holdS .plain
      | .ok (some b) =>
        let s1 := ((t.2.popData x b e).acquire (popScope pp)).closeCoat
        let s2 := (s1.writeStatus d.val 0).advance 8
        let s3 := if pp.spilled = 0 then s2.grantCredits l.id p.val 1 else s2
        s3.wakePipe l.id p.val

/-- A pipe home accepts a push that waits: the oldest pusher goes on (R262). -/
def execPipePushAccept (pl p : Nat) (s : State) : Res :=
  ok <| match s.pipeAt pl p with
  | none => s
  | some q => match q.pushers with
    | [] => s
    | k :: _ => if q.full && !q.closed then s else { s with turns := s.turns ++ [(k, .s)] }

/-- A pipe home accepts a pop that waits: the oldest popper goes on (R262); an out-end sends what it can, its close among it (R456, R457). -/
def execPipePopAccept (pl p : Nat) (s : State) : Res :=
  ok <| match s.pipeAt pl p with
  | none => s
  | some q => if q.hasEnd .out then s.pumpAll pl p else match q.poppers with
    | [] => s
    | k :: _ => if q.holds || q.closed then { s with turns := s.turns ++ [(k, .s)] } else s

/-- PCLOSE (R263): a waiting push traps at the close. -/
def execPclose (p : Fin 16) (s : State) : Res :=
  ok <| match s.curStage with
  | none => s.pipeTrap 4 p.val
  | some (l, st) =>
    match l.pipes[p.val]? with
    | none => s.pipeTrap 4 p.val
    | some pp =>
      if pp.producer ≠ st ∨ pp.hasEnd .inn then s.pipeTrap 4 p.val
      else
        let s1 := (s.mapPipe l.id p.val fun q => { q with closed := true }).closeCoat.advance 4
        let s2 : State := { s1 with turns := s1.turns ++ (pp.pushers ++ pp.poppers).map fun k => (k, Stream.s) }
        s2.pumpAll l.id p.val

/-- PSTAT (R264). -/
def execPstat (d : Fin 64) (p : Fin 16) (s : State) : Res :=
  ok <| match s.curStage with
  | none => s.pipeTrap 4 p.val
  | some (l, _) =>
    match l.pipes[p.val]? with
    | none => s.pipeTrap 4 p.val
    | some pp =>
      let w := (if pp.closed then 2 ^ 23 else 0) + (if 0 < pp.spilled then 2 ^ 22 else 0) + pp.slots.length
      (s.writeStatus d.val (BitVec.ofNat 32 w)).advance 4

/-- The core of the pod has been chosen for a move of its running pipeline (R240, R265). -/
def State.moveChosen (s : State) : Bool :=
  match s.curStage with
  | none => false
  | some (l, st) => l.state == .running && match l.move with
    | some (source, _, c) => source == st && c == s.core.n
    | none => false

/-- PYIELD (R265). -/
def execPyield (d : Fin 64) (s : State) : Res :=
  ok <|
    let r := s.moveChosen
    let s1 : State := if r then { s with wg := { s.wg with yielded := true } } else s
    (s1.writeStatus d.val (if r then 1 else 0)).advance 4

/-! ## Seeds -/

/-- Lanes of a mask in ascending order. -/
def lanesOf (m : W32) : List Nat := lanes.filter fun j => m.getLsbD j

/-- SEED (R266): its records enter the gatherer of the pod's die in ascending lane order (R241, R242). -/
def execSeed (d x : Fin 64) (c : Fin 16) (s : State) : Res :=
  ok <|
    if s.wg.grant.regs ≤ x.val + 15 then s.illegalS 4
    else
      let ls := lanesOf (s.readK c.val &&& s.pod.liveMask)
      let v := fun (r j : Nat) => NMap.get s.pod.v (r * 32 + j)
      let entry := fun (j : Nat) => (v x.val j).toNat
      match ls.find? fun j => decide (15 < entry j) || !s.desc.seedmask.getLsbD (entry j) with
      | some j => (s.writeStatus d.val (status errBounds 0x71 0 j)).advance 4
      | none =>
        let die := dieOf s.core.n
        if Config.gathererPlaces < (s.seeds.filter fun r => r.die == die).length + ls.length then s.holdS .cond
        else
          let s1 := ls.foldl (fun (st : State) j =>
            ({ st with seeds := st.seeds ++ [⟨die, s.wg.launch, entry j, (List.range 16).map fun w => v (x.val + w) j, s.cycle⟩] } : State).formFull die s.wg.launch (entry j)) s
          let s2 := if ls.isEmpty then s1 else s1.closeCoat
          (s2.writeStatus d.val (BitVec.ofNat 32 ls.length)).advance 4

/-! ## Cancellation -/

/-- CANCEL (R267): the pod stops at the word itself. -/
def execCancel (d : Fin 64) (lv : Level) (s : State) : Res :=
  ok <| match s.curLaunch with
  | none => s.faultPod .illegal
  | some l =>
    let st := status stCancelled 0 0 0
    let stop : State := { s with pod := s.pod.cleared }
    match lv with
    | .launch => stop.endLaunch l.id st
    | .pipe => if l.pipeline.isNone then (s.writeStatus d.val (status errBounds 0x72 0 0)).advance 4 else stop.endLaunch l.id st
    | .job => stop.cancelJob l.job

end Sys2Proof.Machine
end

