-- ==== Sys2Proof/Machine/Units.lean ====
section
/-! DEFINITION. Units of a tile (R189 to R191), algebra tables (R202), and the sums of a matrix step (R195, R197). -/

namespace Sys2Proof.Machine

/-! ## Algebra tables -/

/-- What tab(i, j) says: the result component and whether its sign is −1; none where the product contributes nothing (R202). -/
def AlgTable.term (g : AlgTable) (i j : Nat) : Option (Nat × Bool) :=
  let e := (NMap.get g.tab (8 * i + j)).toNat
  match e / 8 % 4 with
  | 1 => some (e % 8, false)
  | 3 => some (e % 8, true)
  | _ => none

/-- The conjugation sign of component c is −1 (R202). -/
def AlgTable.conjNeg (g : AlgTable) (c : Nat) : Bool := g.conj.getLsbD c

/-- An element under the slot's conjugation signs. -/
def AlgTable.conjugate (g : AlgTable) (xs : List Val) : List Val :=
  (List.range xs.length).map fun c => let x := xs.getD c (.nan false); if g.conjNeg c then x.negate else x

/-- product(sign, a, b) (R68). -/
def signedProduct (neg : Bool) (a b : Val) : Val × Exc :=
  let r := a.mul b
  (if neg then r.1.negate else r.1, r.2)

/-- The products of a pair of elements that map to component k (R195). -/
def AlgTable.products (g : AlgTable) (d k : Nat) (l r : List Val) : List (Val × Exc) :=
  (List.range d).flatMap fun i => (List.range d).filterMap fun j => match g.term i j with
    | some (out, neg) => if out = k then some (signedProduct neg (l.getD i (.nan false)) (r.getD j (.nan false))) else none
    | none => none

/-! ## Extents of a step -/

/-- The extent register as M, N and K (R194). -/
def extM (x : W64) : Nat := x.toNat % 32
def extN (x : W64) : Nat := x.toNat / 2 ^ 8 % 32
def extK (x : W64) : Nat := x.toNat / 2 ^ 16 % 256

/-- The extent register keeps R194. -/
def extOk (kmax : Nat) (x : W64) : Bool :=
  decide (x.toNat < 2 ^ 24) && decide (x.toNat / 32 % 8 = 0) && decide (x.toNat / 2 ^ 13 % 8 = 0)
  && decide (extM x ≤ 16) && decide (extN x ≤ 16) && decide (extK x ≤ kmax)

/-! ## Geometry of a step -/

/-- Components of an element of a step. -/
def stepDim (k : MKind) (f : MmaFields) : Nat := if k = .mmag then algDim f.dim.val else 1

/-- Unit size in nibbles (R189). -/
def unitNibbles (fm : Fmt) (d : Nat) : Nat := fm.bits / 4 * d

/-- Whether an operand is read in the column view (R195): a scaled operand is always read through the row port (R191, log entry 74). -/
def columnView (flag : Bool) (fm : Fmt) : Bool := flag && !fm.scaled

/-- Nibble offset of unit (i, c) (R190). -/
def unitAt (col : Bool) (u i c : Nat) : Nat := if col then 16 * u * c + u * i else 256 * i + u * c

/-- Offset of the scale of unit (i, c) in the scale tile (R191). -/
def scaleAtUnit (fm : Fmt) (i c : Nat) : Nat := (i * (256 / unitNibbles fm 1 / 32) + c / 32) * scaleBytes fm

/-- Kmax of a step (R193). -/
def stepKmax (k : MKind) (f : MmaFields) : Nat :=
  match k with
  | .mma => mmaKmax f.fmtA f.fmtB
  | .mmaw => mmawKmax f.fmtA f.fmtB
  | .mmag => mmagKmax (algDim f.dim.val) f.fmtA f.fmtB

/-- The first K index of tile B (R195). -/
def stepBase (k : MKind) (f : MmaFields) : Nat := if k = .mmaw then f.kq.val * (256 / unitNibbles f.fmtA 1) else 0

/-- Sectors that a unit and its scale lie in, numbered over the tiles. -/
def unitSectors (fm : Fmt) (tile : Nat) (col : Bool) (d i c : Nat) : List Nat :=
  (tile * 64 + unitAt col (unitNibbles fm d) i c / 64) :: (if fm.scaled then [(tile + 1) * 64 + scaleAtUnit fm i c / 32] else [])

/-- Sectors of tiles that a step reads (R195). -/
def stepSectors (k : MKind) (f : MmaFields) (x : W64) : List Nat :=
  if extM x = 0 ∨ extN x = 0 then []
  else
    let d := stepDim k f
    (List.range (extM x)).flatMap (fun m => (List.range (extK x)).flatMap fun c => unitSectors f.fmtA f.tileA.val (columnView f.ta f.fmtA) d m c)
    ++ (List.range (extN x)).flatMap fun n => (List.range (extK x)).flatMap fun c => unitSectors f.fmtB f.tileB.val (columnView f.tb f.fmtB) d n (stepBase k f + c)

/-- A step reads a poisoned byte (R404). -/
def Wg.stepPoisoned (w : Wg) (k : MKind) (f : MmaFields) (x : W64) : Bool :=
  !w.tilePoison.isEmpty && (stepSectors k f x).any fun e => NMap.get w.tilePoison e == 1

/-- Marked sectors of an accumulator tile, of eight cells each (R192, R404). -/
def Wg.accMarks (w : Wg) (acc : Nat) : List Nat := if w.accPoison.isEmpty then [] else (List.range 32).filter fun i => NMap.get w.accPoison (acc * 32 + i) == 1

/-- A step adds to a marked cell (R192, R404). -/
def Wg.accBad (w : Wg) (m : MStep) : Bool :=
  !w.accPoison.isEmpty && (List.range (stepDim m.kind m.f)).any fun k => (List.range (extM m.dims)).any fun r =>
    (List.range ((extN m.dims + 7) / 8)).any fun h => NMap.get w.accPoison ((m.f.acc.val + k) * 32 + 2 * r + h) == 1

/-- Writes cells of accumulators by key; sectors written whole lose their mark (R404). -/
def Wg.putAcc (w : Wg) (cells : List (Nat × W32)) : Wg :=
  { w with
    acc := NMap.setMany w.acc cells
    accPoison := if w.accPoison.isEmpty then [] else w.accPoison.filter fun e => !(List.range 8).all fun i => cells.any fun c => c.1 == e.1 * 8 + i }

/-! ## Reading a unit -/

/-- The bits of an element at a nibble offset of a tile. -/
def tileBits (tiles : NMap 8) (tile x bits : Nat) : Nat :=
  if bits = 4 then (NMap.get tiles (tile * 2048 + x / 2)).toNat / (if x % 2 = 0 then 1 else 16) % 16
  else natOfBytes (NMap.bytes tiles (tile * 2048 + x / 2) (bits / 8))

/-- A decoded element with the flag that its decoding raises (R44, R48, R49, R191). -/
def decodeElem (tiles : NMap 8) (fm : Fmt) (tile i c raw : Nat) : Val × Exc :=
  let s := natOfBytes (NMap.bytes tiles ((tile + 1) * 2048 + scaleAtUnit fm i c) (scaleBytes fm))
  match fm with
  | .ty t => ((binFmt t).value raw, excNone)
  | .mx8 => (mx8Value s raw, excNone)
  | .w4 => weightValue false s raw
  | .w3 => weightValue true s raw

/-- The d components of a unit. -/
def readUnit (tiles : NMap 8) (fm : Fmt) (tile : Nat) (col : Bool) (d i c : Nat) : List Val × Exc :=
  let x := unitAt col (unitNibbles fm d) i c
  let es := (List.range d).map fun j => decodeElem tiles fm tile i c (tileBits tiles tile (x + fm.bits / 4 * j) fm.bits)
  (es.map (·.1), es.foldl (fun e r => e ||| r.2) excNone)

/-- The elements of a row of A, or a column of B, along K. -/
def readRow (tiles : NMap 8) (fm : Fmt) (tile : Nat) (col : Bool) (d base i k : Nat) : List (List Val) × Exc :=
  let us := (List.range k).map fun c => readUnit tiles fm tile col d i (base + c)
  (us.map (·.1), us.foldl (fun e r => e ||| r.2) excNone)

/-! ## The sums of a step -/

/-- The new value of component k of a cell, from a row of A and a column of B (R195). -/
def stepCell (g : AlgTable) (f : MmaFields) (d k : Nat) (old : W32) (row col : List (List Val)) : W32 × Exc :=
  let ps := (row.zip col).flatMap fun e =>
    let a := if f.ca then g.conjugate e.1 else e.1
    let b := if f.cb then g.conjugate e.2 else e.2
    if f.rev then g.products d k b a else g.products d k a b
  let r := mstep old.toNat (ps.map (·.1))
  (BitVec.ofNat 32 r.1, ps.foldl (fun e p => e ||| p.2) r.2)

/-- The writes of a step to the accumulators that hold acc, by key, and the flags it sets (R195, R197). -/
def MStep.apply (m : MStep) (acc : NMap 32) : List (Nat × W32) × Exc :=
  let f := m.f
  let d := stepDim m.kind f
  let ms := List.range (extM m.dims)
  let ns := List.range (extN m.dims)
  let key := fun (k r c : Nat) => (f.acc.val + k) * 256 + 16 * r + c
  if m.kind = .mmag ∧ m.alg.dim ≠ d then
    ((List.range d).flatMap fun k => ms.flatMap fun r => ns.map fun c => (key k r c, BitVec.ofNat 32 fmtF32.nanBits), excI)
  else
    let g := if m.kind = .mmag then m.alg else AlgTable.real
    let rows := ms.map fun r => readRow m.tiles f.fmtA f.tileA.val (columnView f.ta f.fmtA) d 0 r (extK m.dims)
    let cols := ns.map fun c => readRow m.tiles f.fmtB f.tileB.val (columnView f.tb f.fmtB) d (stepBase m.kind f) c (extK m.dims)
    let cells := (ms.zip rows).flatMap fun r => (ns.zip cols).flatMap fun c => (List.range d).map fun k =>
      let x := stepCell g f d k (NMap.get acc (key k r.1 c.1)) r.2.1 c.2.1
      (key k r.1 c.1, x.1, x.2 ||| r.2.2 ||| c.2.2)
    (cells.map fun x => (x.1, x.2.1), cells.foldl (fun e x => e ||| x.2.2) excNone)

end Sys2Proof.Machine
end

