-- ==== Sys2Proof/Machine/Engine.lean ====
section
/-! DEFINITION. Engine jobs: TCOPY and TCOPYM (R356 to R362), the engine queue (R363), landings and memory writes (R354, R355, R365), their status (R366, R367), the cache walker (R370 to R374), FESET and FECLR (R375). -/

namespace Sys2Proof.Machine

/-! ## Regions -/

/-- A reserved bit of a descriptor is set (R356). -/
def Region.reserved (r : Region) : Bool :=
  let k := field r.raw 15 1
  let e := field r.raw 14 1
  if k % 4 = 0 then r.raw.any (· != 0)
  else decide (4 ≤ k) || decide (64 ≤ e) || (decide (k % 4 = 3) && decide (32 ≤ e))

def Region.isWrite (r : Region) : Bool := r.kind == .write || r.kind == .tile

/-- Element format pairs of R357. -/
def pairAllowed (a b : Fmt) : Bool :=
  a == b || match a, b with
    | .ty .f32, .ty .f16 | .ty .f32, .ty .bf16 | .ty .f32, .ty .e4m3 | .ty .f32, .ty .e5m2 => true
    | .ty .f16, .ty .f32 | .ty .bf16, .ty .f32 => true
    | _, _ => false

/-- An element converted as R357 states, with the exceptions it raises. -/
def convertElem (a b : Fmt) (x : List Byte) : List Byte × Exc :=
  if a = b then (x, excNone)
  else match a, b with
    | .ty s, .ty t =>
      let v := (binFmt s).value (natOfBytes x)
      let r := (binFmt t).deliver .rn false v
      (toBytes (BitVec.ofNat 64 r.1) (t.bits / 8), r.2 ||| excOf [v])
    | _, _ => (x, excNone)

/-- Lowest and highest inside coordinate of a box in dimension d. -/
def LayEntry.span (e : LayEntry) (org : List Int) (d : Nat) : Int × Int :=
  if d < e.rank then (max 0 (org.getD d 0), min (Int.ofNat (e.extent d)) (org.getD d 0 + Int.ofNat (e.box d)) - 1) else (0, 0)

/-- The box has an element inside its extents. -/
def LayEntry.meets (e : LayEntry) (org : List Int) : Bool :=
  (List.range e.rank).all fun d => decide ((e.span org d).1 ≤ (e.span org d).2)

/-- An interval of bytes: 0 memory, 1 core scratchpad, 2 tiles. -/
structure Foot where
  space : Nat
  lo : Nat
  hi : Nat
deriving DecidableEq, Repr

def Foot.meets (a b : Foot) : Bool := a.space == b.space && decide (a.lo ≤ b.hi) && decide (b.lo ≤ a.hi)

/-- The footprint of a region through an entry (R363); a permuted window may touch the whole of a 256-byte block. -/
def LayEntry.foot (e : LayEntry) (w : Wg) (org : List Int) : List Foot :=
  let lo := (List.range 5).map fun d => (e.span org d).1
  let hi := (List.range 5).map fun d => (e.span org d).2
  let a := (e.address lo).1
  let b := (e.address hi).1 + e.size - 1
  let group := fun (c : List Int) => (e.scaleAt (c.set 0 (c.getD 0 0 - c.getD 0 0 % 32)) 0).getD e.scale.toNat
  let span := fun (x y : Nat) => if x ≤ y then (x, y) else (0, 2 ^ 64)
  let scale := if e.fmt.scaled then [span (group lo) (group hi + scaleBytes e.fmt - 1)] else []
  let place := fun (x : Nat × Nat) =>
    if e.space = 1 then
      if e.perm = 0 then Foot.mk 1 (w.base + x.1) (w.base + x.2) else Foot.mk 1 (w.base + (x.1 - x.1 % 256)) (w.base + (x.2 - x.2 % 256) + 255)
    else Foot.mk 0 x.1 x.2
  (span a b :: scale).map place

/-! ## Jobs -/

def Job.entryOf (j : Job) (r : Region) : Option LayEntry := alookup r.entry j.lays

/-- The transfers of a card: read and write regions in order, with their descriptor indices (R357). -/
def transfersOf (rs : List Region) : List ((Nat × Region) × (Nat × Region)) :=
  ((withIndex rs).filter fun e => e.2.kind == .read).zip ((withIndex rs).filter fun e => e.2.isWrite)

/-- Footprints that a job reads and writes (R363). -/
def Job.foots (w : Wg) (j : Job) : List Foot × List Foot :=
  match j.kind with
  | .flush => ([⟨0, j.lo, j.lo + j.len - 1⟩], [])
  | .inval | .disc => ([], [⟨0, j.lo, j.lo + j.len - 1⟩])
  | .copy | .copym =>
    (j.regions.flatMap fun r => if r.kind == .read then ((j.entryOf r).map fun e => e.foot w r.org).getD [] else [],
     (transfersOf j.regions).flatMap fun t =>
       let r := t.2.2
       match r.kind with
       | .write => ((j.entryOf r).map fun e => e.foot w r.org).getD []
       | .tile =>
         let sc := ((j.entryOf t.1.2).map fun e => e.fmt.scaled).getD false
         [⟨2, w.id * 32 + r.entry, w.id * 32 + r.entry + (if sc then 1 else 0)⟩]
       | _ => [])

def meetsAny (a b : List Foot) : Bool := a.any fun x => b.any x.meets

/-- A job has an edge to one queued ahead of it (R363). -/
def State.edge (s : State) (ahead j : Job) : Bool :=
  let w := (s.wgBy j.wg).getD Wg.empty
  let v := (s.wgBy ahead.wg).getD Wg.empty
  let a := ahead.foots v
  let b := j.foots w
  meetsAny b.1 a.2 || meetsAny b.2 a.1 || meetsAny b.2 a.2

def State.jobOf (s : State) (core id : Nat) : Option Job := (s.coreBy core).jobs.find? fun j => j.id == id
def State.mapJob (s : State) (core id : Nat) (f : Job → Job) : State :=
  s.mapCore core fun c => { c with jobs := updateFirst (fun j => j.id == id) f c.jobs }

/-- Puts a job at the end of its core's queue. -/
def State.enqueue (s : State) (j : Job) : State :=
  let n := s.core.serial
  ({ s with core := { s.core with jobs := s.core.jobs ++ [{ j with serial := n }], serial := n + 1 } } : State).send (.jobStart s.core.n j.id)

/-- The name under which a register of the pod is pending. -/
def State.pendName (s : State) (n : Nat) : Nat := if s.pod.banked n then n + 64 else n

/-- Makes a status register pending; s0 discards its status (R366). -/
def State.pend (s : State) (n job : Nat) (acq : Scope) : State :=
  if n = 0 then s
  else { s with pod := { s.pod with pending := s.pod.pending.filter (fun p => p.reg != s.pendName n) ++ [⟨s.pendName n, job, acq, false⟩] } }

/-- A status word lands in a pod's register (R366): a register that has become live-in closes its coat. -/
def Pod.landStatus (p : Pod) (job : Nat) (w : W32) : Pod :=
  match p.pending.find? fun e => e.job == job && !e.landed with
  | none => p
  | some e =>
    let rest := p.pending.filter fun x => !(x.job == job && !x.landed)
    let p1 := { p with pending := if e.acq == Scope.dev || e.acq == Scope.sys then rest ++ [{ e with landed := true }] else rest }
    if e.reg < 64 then { p1 with s := NMap.set p1.s e.reg (w.setWidth 64) } else { p1 with bankS := NMap.set p1.bankS (e.reg - 64) (w.setWidth 64) }

def noMm : TcopymFields :=
  { d := 0, a := 0, e := 0, tb := false, ta := false, sp := false, acc := 0, tileA := 0, tileB := 0, fmtA := .ty .f16, fmtB := .ty .f16 }

def noTc : TcopyFields := { d := 0, a := 0, b := 0, bar := false, sp := false, scope := .wg, bytes := false }

/-! ## Formation (R360, R361) -/

/-- Tiles that a tile write region fills lie below the grant (check 0x82). -/
def tileRegionBad (g : Grants) (scaled : Bool) (n : Nat) : Bool :=
  decide (g.tiles ≤ n) || (scaled && (decide (n % 2 = 1) || decide (g.tiles ≤ n + 1)))

/-- The checks 0x81 to 0x88 on a card, in order: code, reason and index of the first that fails. -/
def cardCheck (w : Wg) (rs : List Region) : Option (Nat × Nat × Nat) :=
  let entry := fun (r : Region) => w.entry r.entry
  let reads := (withIndex rs).filter fun e => e.2.kind == .read
  let writes := (withIndex rs).filter fun e => e.2.isWrite
  let ts := reads.zip writes
  let pairOf := fun (i : Nat) => (ts.find? fun t => t.2.1 == i).map (·.1.2)
  let fmtOf := fun (i : Nat) (r : Region) => if r.kind == .tile then (pairOf i).bind fun q => (entry q).map (·.fmt) else (entry r).map (·.fmt)
  let find := fun (bad : Nat × Region → Bool) => ((withIndex rs).find? fun e => !(e.2.kind == .unused) && bad e).map (·.1)
  match (withIndex rs).find? fun e => e.2.reserved with
  | some e => some (errBounds, 0x81, e.1)
  | none =>
    if reads.length ≠ writes.length ∨ reads.length = 0 ∨ 2 < reads.length then some (errBounds, 0x81, 0)
    else match find fun e => if e.2.kind == .tile then tileRegionBad w.grant (((fmtOf e.1 e.2).map Fmt.scaled).getD false) e.2.entry
        else match entry e.2 with
          | none => true
          | some l => l.space == 2 with
    | some i => some (errBounds, 0x82, i)
    | none => match ts.find? fun t => !(match entry t.1.2 with
          | none => true
          | some a => t.2.2.kind == .tile || match entry t.2.2 with
            | none => true
            | some b => pairAllowed a.fmt b.fmt) with
    | some t => some (errBounds, 0x83, t.2.1)
    | none => match find fun e => match (if e.2.kind == .tile then none else entry e.2) with
          | none => e.2.org.any (· != 0)
          | some l => (List.range 5).any fun d => decide (l.rank ≤ d) && e.2.org.getD d 0 != 0 with
    | some i => some (errBounds, 0x84, i)
    | none => match find fun e => !(e.2.kind == .tile) && ((entry e.2).map fun l => !l.meets e.2.org).getD false with
    | some i => some (errBounds, 0x85, i)
    | none => match find fun e => !(e.2.kind == .tile) && ((entry e.2).map fun l => l.fmt.scaled && decide (e.2.org.getD 0 0 % 32 ≠ 0)).getD false with
    | some i => some (errAlign, 0x86, i)
    | none => match ts.find? fun t => match entry t.1.2 with
          | none => false
          | some a =>
            if t.2.2.kind == .tile then decide (a.volume * a.fmt.bits ≠ 16384)
            else ((entry t.2.2).map fun b => decide (a.volume ≠ b.volume)).getD false with
    | some t => some (errFootprint, 0x87, t.2.1)
    | none => match find fun e => e.2.kind == .write && ((entry e.2).map fun l => decide (4194304 * 8 < l.volume * l.fmt.bits)).getD false with
    | some i => some (errFootprint, 0x88, i)
    | none => none

/-- Words of a job agree (check 0x80). -/
def wordsAgree : List TcopyWord → Bool
  | [] => true
  | x :: r => r.all fun y => y.m == x.m && y.c == x.c && y.cm == x.cm && y.opnd == x.opnd

/-- Pods of a workgroup by index; an exited pod keeps the words that it issued before. -/
def State.podsByIndex (s : State) (w : Wg) : List (Option Pod) :=
  (List.range w.grant.pods).map fun i => s.allPods.find? fun p => p.key == ⟨w.id, i⟩

/-- A pod issues no further word: it has exited, or its EXIT waits for its workgroup's jobs (phase 20). -/
def Pod.leaves (p : Pod) : Bool := p.exited || decide (20 ≤ p.sTxn.phase)

/-- Every pod that has not exited has issued the next word of a collective, and some pod has (R360). -/
def State.formable (s : State) (w : Wg) : Bool :=
  let ps := (s.podsByIndex w).filterMap id
  ps.any (fun p => !p.tcopies.isEmpty) && ps.all fun p => p.leaves || !p.tcopies.isEmpty

/-- Forms the next job of a workgroup, whose core is in focus, from the words issued (R360, R361). -/
def State.formJob (s : State) (w : Wg) : State :=
  let ps := s.podsByIndex w
  let words := ps.filterMap fun o => o.bind fun p => p.tcopies.head?
  let w0 := words.headD ⟨false, noTc, noMm, 0, []⟩
  let card := fun (i : Nat) => ((ps.getD (i % w.grant.pods) none).bind fun p => p.tcopies.head?).map (·.card)
  let rs := (List.range 4).map fun i => parseRegion ((((card i).getD []).drop (16 * i)).take 16 ++ if (card i).isSome then [] else List.replicate 16 0)
  let d := if w0.m then w0.cm.d.val else w0.c.d.val
  let bad := if !wordsAgree words then some (errBounds, 0x80, 0)
    else match cardCheck w rs with
      | some e => some e
      | none => if w0.m && !extOk (mmaKmax w0.cm.fmtA w0.cm.fmtB) w0.opnd then some (errBounds, 0x20, 0) else none
  let (id, s1) := s.fresh
  -- each issuing pod's oldest unformed status register belongs to this job
  let s2 := s1.mapPods fun p =>
    if p.key.wg = w.id ∧ !p.tcopies.isEmpty then
      let mine := match p.tcopies.head? with
        | some x => if x.m then x.cm.d.val else x.c.d.val
        | none => 0
      { p with
        tcopies := p.tcopies.drop 1
        pending := if mine = 0 then p.pending else updateFirst (fun e => e.job == 0 && !e.landed) (fun e => { e with job := id }) p.pending }
    else p
  let regs := ps.filterMap fun o => o.bind fun p => if p.tcopies.isEmpty then none else some (p.key, d)
  match bad with
  | some (c, why, i) => s2.mapPods fun p => if p.key.wg = w.id then p.landStatus id (status c why 0 i) else p
  | none =>
    s2.enqueue
      { id := id, serial := 0, wg := w.id, kind := if w0.m then .copym else .copy, regs := regs, regions := rs, lays := w.lay,
        scope := if w0.m then .wg else w0.c.scope, bar := if !w0.m && w0.c.bar then some w0.opnd.toNat else none,
        bytesArr := !w0.m && w0.c.bytes, lo := 0, len := 0, step := w0.cm, dims := w0.opnd, started := false, slots := 0, asked := false,
        tr := 0, done := 0, landed := 0, flags := 0, stepSent := false, pub := none, fault := none, ctx := w.ctx, snap := [] }

/-- Forms jobs while every pod has issued its word; a job that cannot enter the queue waits (R360). -/
def State.formJobs (s : State) (wg : Nat) : Nat → State
  | 0 => s
  | n + 1 => match s.wgBy wg with
    | none => s
    | some w => if s.formable w then (s.onWg wg fun s => s.formJob w).formJobs wg n else s

/-! ## Issue (R358, R359) -/

/-- Reads a 64-byte card and goes on (R359). -/
def State.readCard (s : State) (sp : Bool) (a : Nat) (k : List Byte → State → State) : State :=
  let e := s.readS a
  if e.toNat % 64 ≠ 0 then s.trapS 8 .misalign e
  else if sp then s.scratchAt 8 e 64 fun s => s.loadScratch e.toNat 64 k
  else s.flat 8 e 64 false fun l s => s.loadS l 64 k

/-- Checks a barrier operand (R251, R359). -/
def State.checkBar (s : State) (len : Nat) (bar : Bool) (b : Nat) (k : State → State) : State :=
  if bar then s.scratchAt len (s.readS b) 16 k else k s

/-- Issues the word of a collective, or holds it (R360). -/
def State.issueCopy (s : State) (d : Nat) (acq : Scope) (x : TcopyWord) : State :=
  let others := (s.podsByIndex s.wg).filterMap id |>.filter fun p => p.key != s.pod.key
  let completes := others.all fun p => p.leaves || !p.tcopies.isEmpty
  if completes && s.pod.tcopies.isEmpty && decide (Config.engineQueue ≤ s.core.jobs.length) then s.holdS .cond
  else
    let s1 := s.closeCoat
    let s2 : State := { s1 with pod := { s1.pod with tcopies := s1.pod.tcopies ++ [x] } }
    ((s2.pend d 0 acq).advance 8).formJobs s.wg.id 2

/-- TCOPY (R358 to R360). -/
def execTcopy (f : TcopyFields) (s : State) : Res :=
  ok <|
    if 2 ≤ s.pod.tcopies.length then s.holdS .cond
    else s.checkBar 8 f.bar f.b.val fun s =>
      s.readCard f.sp f.a.val fun card s =>
        s.issueCopy f.d.val f.scope ⟨false, f, noMm, if f.bar then s.readS f.b.val else 0, card⟩

/-- A tile operand of the given format lies below the grant (R196). -/
def tileGranted (g : Grants) (fm : Fmt) (t : Nat) : Bool := decide (t < g.tiles) && (!fm.scaled || decide (t + 1 < g.tiles))

/-- TCOPYM (R358 to R362). -/
def execTcopym (f : TcopymFields) (s : State) : Res :=
  ok <|
    let g := s.wg.grant
    if !(tileGranted g f.fmtA f.tileA.val && tileGranted g f.fmtB f.tileB.val && decide (f.acc.val < g.accs)) then s.illegalS 8
    else if 2 ≤ s.pod.tcopies.length then s.holdS .cond
    else s.readCard f.sp f.a.val fun card s => s.issueCopy f.d.val .wg ⟨true, noTc, f, s.readS f.e.val, card⟩

/-! ## Start and end of jobs -/

/-- Gives a job's status to its pods (R366) and lets waiting jobs start (R353, R363). -/
def State.landJob (s : State) (core : Nat) (j : Job) (w : W32) : State :=
  let s1 := s.mapPods fun p =>
    if j.regs.any (fun r => r.1 == p.key) then
      let q := p.landStatus j.id w
      { q with fsr := q.fsr ||| j.flags.setWidth 10 }
    else p
  (s1.mapCore core fun c => { c with jobs := c.jobs.filter (fun x => x.id != j.id), slotQueue := c.slotQueue.filter (· != j.id) }).nudge

/-- The arrival of an engine (R253): false when it misuses the object. -/
def State.engineArrive (s : State) (j : Job) : Bool × State :=
  match j.bar with
  | none => (true, s)
  | some off =>
    match s.wgBy j.wg with
    | none => (true, s)
    | some w =>
      let o := w.bar off
      if o.misused then (false, s)
      else
        let o1 := if j.bytesArr then { o with arrBytes := (o.arrBytes + j.landed) % 2 ^ 32 } else { o with arrivals := o.arrivals + 1 }
        (true, s.onWg j.wg fun s => s.putBar off o1)

/-- Every write of a job has been performed at its scope (R366): its publications have committed, its untracked writes have reached their homes, and those to other devices are acknowledged where the scope or a flush asks for it (R307, R371). -/
def State.jobWritten (s : State) (core : Nat) (j : Job) : Bool :=
  (match j.pub with
    | none => true
    | some p => s.pubDone core p)
  && s.wroteBack core && (!(j.scope == .sys || j.kind == .flush || j.kind == .disc) || s.farAcked core)

/-- The status of a job lands, after its arrival (R253, R366, R367). -/
def execJobStatusLand (core job : Nat) (s : State) : Res :=
  ok <| match s.jobOf core job with
  | none => s
  | some j =>
    if !s.jobWritten core j then s.send (.jobStatusLand core job)
    else
      let a := s.engineArrive j
      let st : W32 := match j.fault with
        | some (c, i) => status stFault (causeCode c) i 0
        | none => if a.1 then j.flags.setWidth 32 else status stFault 0x30 0 0
      let s1 := a.2.landJob core j st
      match j.fault with
      | some (.poison, _) => match s1.wgBy j.wg with
        | some w => match s1.launchBy w.launch with
          | some l => s1.faultJob l.job .poison
          | none => s1
        | none => s1
      | _ => s1

/-- A job has made its last write: its status follows. -/
def State.jobEnds (s : State) (core job : Nat) : State := s.send (.jobStatusLand core job)

/-- The first of the jobs that wait for a landing slot may have one now (R354). -/
def State.offerSlot (s : State) (core : Nat) : State := s.sendAll (((s.coreBy core).slotQueue.take 1).map fun j => Msg.landingSlotGrant core j)

/-- Ends a job at its first fault (R367). -/
def State.jobFault (s : State) (core job : Nat) (c : Cause) (i : Nat) : State :=
  ((s.mapJob core job fun j => { j with fault := some (c, i), slots := 0, asked := false }).jobEnds core job).offerSlot core

/-- The tiles that a step reads, as they stand. -/
def Wg.tilesOf (w : Wg) (ts : List Nat) : NMap 8 := w.tile.filter fun e => ts.contains (e.1 / 2048)

def stepTiles (fm : Fmt) (t : Nat) : List Nat := if fm.scaled then [t, t + 1] else [t]

def followFields (f : TcopymFields) : MmaFields :=
  { d := 0, a := 0, dim := 0, rev := false, tb := f.tb, ta := f.ta, ka := false, acc := f.acc, tileA := f.tileA, tileB := f.tileB,
    fmtA := f.fmtA, fmtB := f.fmtB, kq := 0, ca := false, cb := false, slot := 0 }

/-- Presents the follow-on step of a TCOPYM to the matrix array (R362). -/
def State.followOn (s : State) (core : Nat) (j : Job) : State :=
  let f := followFields j.step
  let ts := stepTiles f.fmtA f.tileA.val ++ stepTiles f.fmtB f.tileB.val
  match s.wgBy j.wg with
  | none => s
  | some w =>
    if w.stepPoisoned .mma f j.dims then s.jobFault core j.id .poison 0
    else
      let m : MStep := { wg := j.wg, pod := none, job := some j.id, kind := .mma, f := f, dims := j.dims, tiles := w.tilesOf ts, alg := AlgTable.real }
      ((s.mapJob core j.id fun j => { j with stepSent := true }).mapCore core fun c =>
        { c with steps := c.steps ++ [m], ka := none, stepSince := if c.steps.isEmpty then s.cycle else c.stepSince }).send (.matrixStepComplete core)

/-- Elements of a landing or a memory write of a region with elements of the given width (R354). -/
def chunkOf (toMem : Bool) (bits : Nat) : Nat := (if toMem then 1024 else 16384) / bits

/-- What the write region of the current transfer is, with its read entry. -/
def Job.current (j : Job) : Option ((Nat × Region × LayEntry) × (Nat × Region × Option LayEntry)) :=
  match (transfersOf j.regions)[j.tr]? with
  | none => none
  | some t => (j.entryOf t.1.2).map fun a =>
    ((t.1.1, t.1.2, a), (t.2.1, t.2.2, if t.2.2.kind == .tile then none else j.entryOf t.2.2))

def Job.toMem (j : Job) : Bool := match j.current with
  | some (_, (_, _, some e)) => e.space == 0
  | _ => false

/-- The next step of a copy job. -/
def State.jobNext (s : State) (core job : Nat) : State :=
  match s.jobOf core job with
  | none => s
  | some j =>
    match j.current with
    | none =>
      if j.kind == .copym && !j.stepSent then s.followOn core j else s.jobEnds core job
    | some _ =>
      if j.toMem then s.send (.memoryWrite core job)
      else ((s.mapJob core job fun j => { j with asked := true }).mapCore core fun c => { c with slotQueue := c.slotQueue ++ [job] }).offerSlot core

/-- The copy unit of a job, numbered over the device (R353). -/
def unitOf (core serial : Nat) : Nat := dieOf core * 6 + 2 * (sectorOf core % 3) + serial % 2

def Job.copies (j : Job) : Bool := j.kind == .copy || j.kind == .copym

/-- A copy unit works on up to four jobs at once (R353). -/
def State.unitFree (s : State) (unit : Nat) : Bool :=
  decide ((s.allCores.flatMap fun c => c.jobs.filter fun j => j.started && j.copies && unitOf c.n j.serial == unit).length < 4)

/-- A job starts once no earlier job holds it back (R363) and its copy unit takes it (R353). -/
def execJobStart (core job : Nat) (s : State) : Res :=
  ok <| match s.jobOf core job with
  | none => s
  | some j =>
    if j.started then s
    else
      let ahead := (s.coreBy core).jobs.takeWhile fun x => x.id != job
      if ahead.any (fun x => s.edge x j) || (j.copies && !s.unitFree (unitOf core j.serial)) then s
      else
        let s1 := s.mapJob core job fun j => { j with started := true }
        match j.kind with
        | .copy | .copym => s1.jobNext core job
        | _ => s1.send (.memoryWrite core job)

/-- The core grants a free landing slot to the first job that waits for one: in the order of the requests (R354). -/
def execLandingSlotGrant (core job : Nat) (s : State) : Res :=
  ok <|
    if (s.coreBy core).slotQueue.head? = some job ∧ ((s.coreBy core).jobs.map (·.slots)).sum < Config.landingSlots then
      ((((s.mapJob core job fun j => { j with slots := 1, asked := false }).mapCore core fun c =>
        { c with slotQueue := c.slotQueue.drop 1 }).send (.landing core job))).offerSlot core
    else s

/-! ## Moving elements (R357, R365) -/

/-- Elements lo to lo + n - 1 of a transfer, converted, each with its dense index (R357). -/
def State.elemsFrom (s : State) (a : LayEntry) (org : List Int) (b : Fmt) (lo n : Nat) : List (Nat × List Byte) × Exc :=
  let xs := (List.range n).map fun i =>
    let c := a.coords org (lo + i)
    let raw := if a.inside c then s.readElem a (a.address c) else List.replicate a.size 0
    (lo + i, convertElem a.fmt b raw)
  (xs.map fun x => (x.1, x.2.1), xs.foldl (fun f x => f ||| x.2.2) excNone)

/-- Scales of the groups that begin in an interval of a box: dense group start, bytes (zero outside). -/
def State.scalesFrom (s : State) (a : LayEntry) (org : List Int) (lo n : Nat) : List (Nat × List Byte) :=
  ((List.range n).filter fun i => (lo + i) % 32 == 0).map fun i =>
    (lo + i, match a.scaleAt org (lo + i) with
      | some x => s.boxRead a x (scaleBytes a.fmt)
      | none => List.replicate (scaleBytes a.fmt) 0)

/-- Places of the elements and scales of an interval of a box (R210, R367). -/
def LayEntry.placesIn (e : LayEntry) (org : List Int) (lo n : Nat) : List (Nat × Nat) :=
  (List.range n).flatMap fun i =>
    let c := e.coords org (lo + i)
    (if e.inside c then [((e.address c).1, e.size)] else []) ++
    (if (lo + i) % 32 = 0 then match e.scaleAt org (lo + i) with
      | some x => [(x, scaleBytes e.fmt)]
      | none => []
     else [])

/-- Applies accesses at the scratchpad port as one landing: full-empty bits of the granules become full (R355). -/
def State.landScratch (s : State) (e : LayEntry) (ws : List Put) : State :=
  let cells := putCellsOf e ws
  let w := s.wg.putCells cells (putBadOf e ws)
  { s with wg := { w with fe := (dedup (cells.map fun c => c.1 / 16)).foldl (fun m g => NMap.set m g 1) w.fe } }

/-- Bytes of memory that an engine writes (R365): at wg as stash bytes, where the stash has room, else published (R491); committed at their homes for dev and sys; an untracked byte in its home line. Older bytes of the same place in the core are dirty no more. The answer is the publication to wait for. -/
def State.engineStore (s : State) (job : Nat) (sc : Scope) (ws : List (Loc × Put)) : Option Nat × State :=
  let s1 := ws.foldl (fun s x => s.touchHome x.1) s
  let step := fun (acc : List (Nat × LineBytes) × State) (line : Nat) =>
    let bs := bytesAt ws line
    let l := ((ws.find? fun x => x.1.line == line).map (·.1)).getD { key := 0, leaf := 0, level := 0 }
    if !l.tracked || (sc == .wg && acc.2.stashFits s.core.n [l]) then (acc.1, acc.2.tileStore s.core.n job l bs (badAt ws line))
    else
      let offs := bs.map (·.1)
      (acc.1 ++ [(line, bs)], (acc.2.storedAgain s.core.n line offs).mapCore s.core.n fun c => (c.supersede line offs).dropStash line offs.contains)
  let r := (dedup (ws.map fun x => x.1.line)).foldl step ([], s1)
  r.2.publish s.core.n r.1

/-- The later of two publications. -/
def laterPub : Option Nat → Option Nat → Option Nat
  | none, b => b
  | a, none => a
  | some a, some b => some (max a b)

/-- One landing or memory write of a copy job, with its workgroup and core in focus (R355, R365, R367). -/
def State.moveChunk (s : State) (core : Nat) (j : Job) (m : Msg) : State :=
  match j.current with
  | none => s
  | some ((ri, rr, a), (wi, wr, be)) =>
    let fb := match be with
      | some b => b.fmt
      | none => a.fmt
    let n := min (chunkOf j.toMem fb.bits) (a.volume - j.done)
    let rp := a.placesIn rr.org j.done n
    let wp := match be with
      | some b => b.placesIn wr.org j.done n
      | none => []
    if s.placesWait a rp || be.any (fun b => s.placesWait b wp) then s.send m
    else match s.checkPlaces a rp false false with
    | some (c, _) => s.jobFault core j.id c ri
    | none =>
      if s.boxWaits a rp then s.send m
      else if s.boxPoison a rp then s.jobFault core j.id .poison ri
      else match (match be with
        | some b => s.checkPlaces b wp true false
        | none => none) with
      | some (c, _) => s.jobFault core j.id c wi
      | none =>
        let xs := s.elemsFrom a rr.org fb j.done n
        let sc := if a.fmt.scaled then s.scalesFrom a rr.org j.done n else []
        let doneTr := a.volume ≤ j.done + n
        let next := fun (s : State) (landed : Nat) (pub : Option Nat) =>
          ((s.mapJob core j.id fun j =>
            { j with
              flags := j.flags ||| xs.2, landed := j.landed + landed, slots := 0, pub := laterPub j.pub pub
              tr := if doneTr then j.tr + 1 else j.tr, done := if doneTr then 0 else j.done + n }).offerSlot core).jobNext core j.id
        match be with
        | Option.none =>
          let flat := xs.1.flatMap (·.2)
          let s1 := s.putTile wr.entry (j.done * fb.bits / 8) (if fb.bits = 4 then packNibbles flat else flat)
          let s2 := if fb.scaled then s1.putTile (wr.entry + 1) 0 (((sc.flatMap fun (x : Nat × List Byte) => x.2) ++ List.replicate 2048 (0 : Byte)).take 2048) else s1
          next s2 (n * fb.bits / 8 + sc.length * scaleBytes fb) none
        | some b =>
          let put := fun (acc : List Put) (x : Nat × List Byte) =>
            let c := b.coords wr.org x.1
            if b.inside c then s.addElem b acc (b.address c) x.2 false else acc
          let elems := xs.1.foldl put []
          let scales : List Put := sc.filterMap fun x => (b.scaleAt wr.org x.1).map fun d => ⟨d, x.2, false⟩
          let ws := elems ++ scales
          let size := (ws.map fun x => x.bytes.length).sum
          if b.space = 1 then next (s.landScratch b ws) size none
          else
            let job := ((s.launchBy s.wg.launch).map (·.job)).getD 0
            let r := s.engineStore job j.scope (s.putLocs ws)
            next r.2 size r.1

/-- A landing is applied (R355). -/
def execLanding (core job : Nat) (s : State) : Res :=
  ok <| match s.jobOf core job with
  | none => s
  | some j => if j.slots = 0 then s else s.onWg j.wg fun s => s.moveChunk core j (.landing core job)

/-! ## The cache walker (R370 to R374) -/

/-- Bytes of a walker job's range that lie in one step: up to the end of the leaf, at most 64 KiB for a flush or a discard. -/
def walkLen (j : Job) (level : Nat) : Nat :=
  let page := pageBytes level - (j.lo + j.done) % pageBytes level
  min (j.len - j.done) (if j.kind == .inval then page else min page 65536)

/-- Writes back the blocks of a range whose content, at its acting homes, differs from HBM4E (R371, R413). -/
def State.flushHome (s : State) (lo n : Nat) : State :=
  let hit := fun (a : Nat) => decide (lo ≤ a) && decide (a < lo + n)
  let all := s.mem.map (·.1) ++ s.hbm.map (·.1) ++ s.proxies.flatMap fun p => p.bytes.map fun b => p.line * 128 + b.1
  let keys := (dedup (all.filter fun a => hit a && decide (a < Config.hostBase))).filter fun a => s.homeByte a != NMap.get s.hbm a
  (dedup (keys.map (· / 512))).foldl (fun s b => s.storeBlock b ((keys.filter fun a => a / 512 == b).map fun a => (a, s.homeByte a))) s

/-- One step of a walker job over the bytes of one page, with its core in focus. -/
def State.walkChunk (s : State) (core : Nat) (j : Job) : State :=
  let va := BitVec.ofNat 64 (j.lo + j.done)
  match s.checkFlat core j.ctx va 1 (j.kind == .disc) with
  | .trap c => s.jobFault core j.id c 0
  | .busy => s.send (.memoryWrite core j.id)
  | .ok l =>
    let n := walkLen j l.level
    let lo := l.key
    let hit := fun (line off : Nat) => decide (lo ≤ line * 128 + off) && decide (line * 128 + off < lo + n)
    let touches := fun (line : Nat) => decide (lo < line * 128 + 128) && decide (line * 128 < lo + n)
    let next := fun (s : State) (pub : Option Nat) =>
      let s1 := s.mapJob core j.id fun j => { j with done := j.done + n, pub := laterPub j.pub pub, asked := false }
      if j.len ≤ j.done + n then s1.jobEnds core j.id else s1.send (.memoryWrite core j.id)
    match j.kind with
    | .flush =>
      let r := s.flushLines core fun line off => hit line off && ((alookup line j.snap).getD []).contains off
      next (r.2.flushHome lo n) r.1
    | .inval =>
      next ((s.mapCore core fun c =>
        let c1 : Core := { c with
          l1 := (c.l1.map fun x => { x with bytes := x.bytes.filter fun b => x.isDirty b.1 || !hit x.line b.1 }).filter fun x => !x.bytes.isEmpty
          kcache := c.kcache.filter fun k => !touches k.1 }
        c1.voidFills touches).forgetK core touches) none
    | _ =>
      if j.asked then
        if s.inflight.contains (.discardArrival (some (core, j.id)) lo n) then s.send (.memoryWrite core j.id) else next s none
      else
        let cut := fun (m : Msg) => match m with
          | .writeBack c line bs bad => if c = core then Msg.writeBack c line (bs.filter fun b => !hit line b.1) bad else m
          | _ => m
        let lines := dedup ((s.pubs.flatMap fun p => p.parts.map (·.line)).filter touches)
        let s0 : State := lines.foldl (fun s line => s.unpublish core line ((List.range 128).filter (hit line)))
          { s with inflight := s.inflight.map cut, homes := s.homes.map fun h => { h with waiting := h.waiting.map cut } }
        let s1 := s0.mapCore core fun c =>
          Core.voidFills (sel := touches) { c with
            l1 := (c.l1.map fun x =>
              { x with bytes := x.bytes.filter (fun b => !hit x.line b.1), dirty := x.dirty.filter (fun b => !hit x.line b.1) }).filter fun x => !x.bytes.isEmpty
            stash := (c.stash.map fun x => { x with bytes := x.bytes.filter fun b => !hit x.line b.off }).filter fun x => !x.bytes.isEmpty }
        if lineFar l.line then next ((splitLines lo (List.replicate n 0)).foldl (fun s e => s.sendFar core e.1 e.2 [] ((s.launchBy s.wg.launch).map (·.job) |>.getD 0) l.tracked) s1) none
        else ((s1.mapJob core j.id fun j => { j with asked := true }).send (.discardArrival (some (core, j.id)) lo n)).send (.memoryWrite core j.id)

/-- One memory write of a job at its homes: a copy's bytes, or a walker's page (R365, R370). -/
def execMemoryWrite (core job : Nat) (s : State) : Res :=
  ok <| match s.jobOf core job with
  | none => s
  | some j =>
    if !(match j.pub with | none => true | some p => s.pubDone core p) then s.send (.memoryWrite core job)
    else s.onWg j.wg fun s => match j.kind with
      | .copy | .copym => s.moveChunk core j (.memoryWrite core job)
      | _ => s.walkChunk core j

/-- Submits a walker job (R370). -/
def State.walker (s : State) (kind : JobKind) (sc : Scope) (d a b : Nat) (bar : Bool) : State :=
  s.checkBar 4 bar b fun s =>
    let lo := (s.readS a).toNat
    let len := (s.readS (a + 1)).toNat
    let go := fun (s : State) (job : Nat) => (s.closeCoat.pend d job sc).advance 4
    if 2 ^ 54 < lo + len then (s.closeCoat.writeStatus d (status errBounds 0x90 0 0)).advance 4
    else if len ≠ 0 ∧ Config.engineQueue ≤ s.core.jobs.length then s.holdS .plain
    else
      let (id, s1) := s.fresh
      let j : Job :=
        { id := id, serial := 0, wg := s.wg.id, kind := kind, regs := [(s.pod.key, d)], regions := [], lays := [], scope := sc,
          bar := if bar then some (s.readS b).toNat else none, bytesArr := false, lo := lo, len := len, step := noMm, dims := 0,
          started := len == 0, slots := 0, asked := false, tr := 0, done := 0, landed := 0, flags := 0, stepSent := false, pub := none,
          fault := none, ctx := s.wg.ctx
          snap := if kind == .flush then (s.core.l1.filter fun l => !l.dirty.isEmpty).map fun l => (l.line, l.dirty.map (·.1)) else [] }
      if len = 0 then
        let a := (s1.closeCoat.pend d id sc).engineArrive j
        ({ a.2 with pod := a.2.pod.landStatus id (if a.1 then 0 else status stFault 0x30 0 0) } : State).advance 4
      else go (s1.enqueue j) id

/-- RFLUSH (R370, R371). -/
def execRflush (d a b : Fin 64) (bar : Bool) (s : State) : Res := ok (s.walker .flush .dev d.val a.val b.val bar)
/-- RINVAL (R370, R372). -/
def execRinval (d a b : Fin 64) (bar : Bool) (s : State) : Res := ok (s.walker .inval .wg d.val a.val b.val bar)
/-- RDISC (R370, R373). -/
def execRdisc (d a b : Fin 64) (bar : Bool) (s : State) : Res := ok (s.walker .disc .dev d.val a.val b.val bar)

/-! ## Full-empty bits (R375) -/

def State.setFe (s : State) (a b : Nat) (v : BitVec 1) : State :=
  let o := s.readS a
  let n := s.readS b
  if o.toNat % 16 ≠ 0 ∨ n.toNat % 16 ≠ 0 then s.trapS 4 .misalign o
  else if n.toNat ≠ 0 ∧ s.wg.grant.scratch < o.toNat + n.toNat then
    s.trapS 4 .xlateAbsent (if s.wg.grant.scratch < o.toNat then o else BitVec.ofNat 64 s.wg.grant.scratch)
  else
    ({ s with wg := { s.wg with fe := (List.range (n.toNat / 16)).foldl (fun m i => NMap.set m (o.toNat / 16 + i) v) s.wg.fe } } : State).advance 4

/-- FESET (R375). -/
def execFeset (a b : Fin 64) (s : State) : Res := ok (s.setFe a.val b.val 1)
/-- FECLR (R375). -/
def execFeclr (a b : Fin 64) (s : State) : Res := ok (s.setFe a.val b.val 0)

end Sys2Proof.Machine
end

