-- ==== Sys2Proof/Machine/Atomics.lean ====
section
/-! DEFINITION. Atomics at their homes (R309, R321 to R324), SATOM, ADDST (R325, R326), daubs (R310, R327 to R329) and DAUBQ (R331). -/

namespace Sys2Proof.Machine

/-! ## The operation (R321) -/

/-- The sum of .fadd: round_to(f32, rn, x + b), with no flag. -/
def addF32 (x b : Nat) : Nat := (fmtF32.deliver .rn false ((fmtF32.value x).add .rn (fmtF32.value b)).1).1

/-- The new value of an atomic on bits of its type (R321). -/
def atomNew (op : AtomOp) (t : LType) (x b c : Nat) : Nat :=
  let m := 2 ^ t.bits
  let x := x % m
  let b := b % m
  match op with
  | .add => (x + b) % m
  | .min => if intValue t x ≤ intValue t b then x else b
  | .max => if intValue t x ≤ intValue t b then b else x
  | .and => Nat.land x b
  | .or => Nat.lor x b
  | .xor => Nat.xor x b
  | .xchg => b
  | .cas => if x = c % m then b else x
  | .fadd => addF32 x b

/-- Applies the items of one line in order; the old values by lane (R324). -/
def State.atomItems (s : State) (op : AtomOp) (t : LType) : List AtomItem → List (Nat × W64) × State
  | [] => ([], s)
  | i :: r =>
    let n := t.bits / 8
    let x := natOfBytes (s.homeBytes i.key n)
    let s1 := s.commitLine (i.key / 128) (lineSpan i.key (toBytes (BitVec.ofNat 64 (atomNew op t x i.b.toNat i.c.toNat)) n))
    let rest := s1.atomItems op t r
    ((i.lane, BitVec.ofNat 64 x) :: rest.1, rest.2)

/-- The bytes of a line that an atomic works on. -/
def atomOffs (r : AtomicReq) : List Nat :=
  dedup (r.items.flatMap fun i => (List.range (r.ty.bits / 8)).map (i.key % 128 + ·))

/-- An atomic executes at its home: the sender's own bytes first, then the operation, then the notices (R324). -/
def State.atomicAt (s : State) (r : AtomicReq) (own : LineBytes) : List (Nat × W64) × State :=
  let a := (s.commitLine r.line own).atomItems r.op r.ty r.items
  (a.1, a.2.commitAtomic r.core r.line [] [])

/-- Replies for several lanes of one request. -/
def State.replyAll (s : State) (k : PodKey) (st : Stream) (xs : List (Nat × W64)) : State :=
  s.mapPod k fun p => match st with
    | .s => { p with sTxn := { p.sTxn with outstanding := p.sTxn.outstanding - 1, replies := p.sTxn.replies ++ xs } }
    | .l => { p with lTxn := { p.lTxn with outstanding := p.lTxn.outstanding - 1, replies := p.lTxn.replies ++ xs } }

/-- Faults the job of a pod by its name (R398). -/
def State.faultOf (s : State) (k : PodKey) (c : Cause) : State :=
  match (s.wgBy k.wg).bind fun w => s.launchBy w.launch with
  | some l => s.faultJob l.job c
  | none => s

/-- The same for a pod whose own request meets the fault: the pod stops at it. -/
def State.faultKey (s : State) (k : PodKey) (c : Cause) : State := (s.mapPod k Pod.cleared).faultOf k c

/-- A poisoned byte of an atomic's operand, at the home or among the core's own dirty bytes (R404). -/
def State.atomPoison (s : State) (r : AtomicReq) : Bool :=
  (r.items.any fun i => poisoned s.poison i.key (r.ty.bits / 8)) || s.ownBad r.core r.line (atomOffs r)

/-- An atomic that had to wait for its home (R302, R309). -/
def execAtomicAtHome (r : AtomicReq) (s : State) : Res :=
  ok <| match s.queued r.core r.line (atomOffs r) (.atomicAtHome r) with
    | some t => t
    | none =>
    if s.atomPoison r then s.faultKey r.pod .poison
    else
      let o := (s.respond r.core r.line (s.marks r.line)).takeOwn r.core r.line (atomOffs r)
      let a := o.2.atomicAt r o.1
      (a.2.closeCoatOf r.pod).replyAll r.pod r.stream a.1

/-- Sends one atomic of the pod in focus: it executes at once where the home is idle, else its replies come later. The coat closes when it takes effect (R332). -/
def State.sendAtomic (s : State) (r : AtomicReq) (l : Loc) : State :=
  let t := s.txn r.stream
  let wait := fun (s : State) => s.setTxn r.stream { t with outstanding := t.outstanding + 1 }
  if lineRemote r.line then
    let o := (wait s).takeOwn r.core r.line (atomOffs r)
    o.2.sendRequest (lineDev r.line)
      (.atomic { r with line := r.line % spaceLines, items := r.items.map fun i => { i with key := i.key % spaceBytes } } o.1)
      (.pods r.pod r.stream (r.items.map (·.lane)))
  else
    let s := s.touchHome l
    match s.asked r.core r.line (atomOffs r) (.atomicAtHome r) with
    | some s => wait s
    | none =>
      if s.atomPoison r then s.faultPod .poison
      else
        let o := (s.closeCoat.respond r.core r.line (s.marks r.line)).takeOwn r.core r.line (atomOffs r)
        let a := o.2.atomicAt r o.1
        a.2.setTxn r.stream { t with replies := t.replies ++ a.1 }

/-! ## SATOM (R323, R324) -/

/-- What s_r receives: zero-extended, or sign-extended for i32 (R323). -/
def atomResult (t : LType) (x : W64) : W64 := if t = .i32 then (x.setWidth 32).signExtend 64 else x

/-- Ends a SATOM: the acquire part and the register. -/
def State.endSatom (s : State) (f : SatomFields) (x : W64) : State :=
  let s1 := if acquireOrders f.order then s.acquire f.scope else s
  (s1.writeS f.r.val (atomResult f.ty x)).advance 8

/-- SATOM (R323, R324). -/
def execSatom (f : SatomFields) (s : State) : Res :=
  ok <|
    let n := f.ty.bits / 8
    let e := s.readS f.a.val
    let b := s.readS f.b.val
    let c := s.readS f.c.val
    let rel := fun (k : State → State) (s : State) => if releaseOrders f.order then s.release .s 0 f.scope k else k s
    if f.scratch then
      s.scratchAt 8 e n fun s => rel (fun s =>
        s.loadScratch e.toNat n fun bs s =>
          let x := natOfBytes bs
          let s1 := s.closeCoat.storeScratch e.toNat (toBytes (BitVec.ofNat 64 (atomNew f.op f.ty x b.toNat c.toNat)) n)
          s1.endSatom f (BitVec.ofNat 64 x)) s
    else
      s.flat 8 e n true fun l s =>
        if !l.tracked then s.trapS 8 .xlatePerm e
        else rel (fun s =>
          match s.pod.sTxn.replies with
          | (_, x) :: _ => s.endSatom f x
          | [] =>
            if s.pod.sTxn.outstanding ≠ 0 then s.holdS .plain
            else
              let s1 := s.sendAtomic ⟨s.core.n, s.pod.key, .s, l.line, f.op, f.ty, [⟨0, l.key, b, c⟩]⟩ l
              match s1.pod.sTxn.replies with
              | (_, x) :: _ => s1.endSatom f x
              | [] => s1.holdS .plain) s

/-! ## ADDST (R325, R326) -/

/-- The new element and the flag of one addition (R325). -/
def addElement (t : LType) (y cell : Nat) : Nat × Exc :=
  let f := binFmt t
  let v := f.value y
  let r := v.add .rn (fmtF32.value cell)
  let d := f.deliver .rn false r.1
  (d.1, d.2 ||| excOf [v] ||| (match v, fmtF32.value cell with
    | .inf a, .inf b => if a = b then excNone else excI
    | _, _ => excNone))

/-- Adds cells into elements of one line at its home; the flags raised. -/
def State.addItems (s : State) (t : LType) : List AddItem → Exc × State
  | [] => (excNone, s)
  | i :: r =>
    let n := t.bits / 8
    let a := addElement t (natOfBytes (s.homeBytes i.key n)) i.cell.toNat
    let s1 := s.commitLine (i.key / 128) (lineSpan i.key (toBytes (BitVec.ofNat 64 a.1) n))
    let rest := s1.addItems t r
    (a.2 ||| rest.1, rest.2)

def addOffs (r : AddstReq) : List Nat := dedup (r.items.flatMap fun i => (List.range (r.fmt.bits / 8)).map (i.key % 128 + ·))

/-- One line of an ADDST executes at its home (R326). -/
def State.addstAt (s : State) (r : AddstReq) : Exc × State :=
  let o := s.takeOwn r.core r.line (addOffs r)
  let a := (o.2.commitLine r.line o.1).addItems r.fmt r.items
  (a.1, a.2.commitAtomic r.core r.line [] [])

/-- A line of an ADDST that had to wait for its home; its flags return as a reply. -/
def execAddstLine (r : AddstReq) (s : State) : Res :=
  ok <| match s.queued r.core r.line (addOffs r) (.addstLine r) with
    | some t => t
    | none =>
    if r.items.any (fun i => poisoned s.poison i.key (r.fmt.bits / 8)) || s.ownBad r.core r.line (addOffs r) then s.faultKey r.pod .poison
    else
      let a := (s.respond r.core r.line (s.marks r.line)).addstAt r
      (a.2.closeCoatOf r.pod).replyAll r.pod .s [(0, a.1.setWidth 64)]

/-- Sets flags of fsr (R61). -/
def State.raise (s : State) (f : BitVec 10) : State := { s with pod := { s.pod with fsr := s.pod.fsr ||| f } }
def State.raiseBin (s : State) (e : Exc) : State := s.raise (e.setWidth 10)
def State.raiseDec (s : State) (e : Exc) : State := s.raise ((e.setWidth 10) <<< 5)

/-- Steps that the array has accepted and whose results do not stand touch these accumulators of the workgroup (R200). -/
def MStep.writes (m : MStep) (acc : Nat) : Bool := decide (m.f.acc.val ≤ acc) && decide (acc < m.f.acc.val + (if m.kind = .mmag then algDim m.f.dim.val else 1))
def State.accBusy (s : State) (lo n : Nat) : Bool :=
  s.core.steps.any fun m => m.wg == s.wg.id && (List.range n).any fun i => m.writes (lo + i)

/-- Formats of the accumulator moves (R206). -/
def accFmt : Fmt → Bool
  | .ty .f32 | .ty .f16 | .ty .bf16 => true
  | _ => false

/-- The checks of R207 for ALD, ASTORE and ADDST in order: status of the first that fails, or the entry. ext is the extent register's value, where one is checked. -/
def State.accMoveCheck (s : State) (a lay : Nat) (ext : Option W64) : Except W32 LayEntry :=
  match s.wg.entry lay with
  | none => .error (status errBounds 0x40 0 0)
  | some e =>
    if e.space = 2 then .error (status errBounds 0x40 0 0)
    else if !accFmt e.fmt then .error (status errBounds 0x41 0 0)
    else if 64 < a + e.rank then .error (status errBounds 0x42 0 0)
    else if !(match ext with
      | none => true
      | some x => extOk 255 x) then .error (status errBounds 0x20 0 0)
    else if e.volume ≠ 256 then .error (status errFootprint 0x44 0 0)
    else .ok e

/-- The cells that a store of an accumulator writes: inside the extents of the register and of the box (R212). -/
def storedCells (x : W64) (e : LayEntry) (org : List Int) : List (Nat × (Nat × Nat)) :=
  (e.elems org).filterMap fun el => match el.place with
    | some p => if el.l / 16 < extM x ∧ el.l % 16 < extN x then some (el.l, p) else none
    | none => none

/-- Cell L of an accumulator tile (R192). -/
def Wg.cell (w : Wg) (acc l : Nat) : W32 := NMap.get w.acc (acc * 256 + l)

def LType.ofFmt : Fmt → LType
  | .ty t => t
  | _ => .f32

/-- ADDST (R325, R326): phase 4 marks that its lines have been sent. -/
def execAddst (d a b : Fin 64) (acc : Fin 256) (lay : Fin 64) (rel : Bool) (s : State) : Res :=
  ok <|
    if s.wg.grant.accs ≤ acc.val ∨ s.wg.grant.lays ≤ lay.val then s.illegalS 8
    else
      let finish := fun (s : State) =>
        let f := s.pod.sTxn.replies.foldl (fun f r => f ||| r.2.setWidth 5) excNone
        ((s.closeCoat.raiseBin f).writeStatus d.val 0).advance 8
      if s.pod.sTxn.phase = 4 then if s.pod.sTxn.outstanding ≠ 0 then s.holdS .plain else finish s
      else match s.accMoveCheck a.val lay.val (some (s.readS b.val)) with
      | .error st => (s.writeStatus d.val st).advance 8
      | .ok e =>
        let org := s.coordsFrom a.val e.rank
        let ps := e.places org (fun _ => true) false
        if s.placesWait e ps then s.holdS .plain
        else match s.checkPlaces e ps true true with
        | some (c, x) => s.trapS 8 c x
        | none =>
          if s.accBusy acc.val 1 then s.holdS .plain
          else
            let go := fun (s : State) =>
              let cells := storedCells (s.readS b.val) e org
              let t := LType.ofFmt e.fmt
              let n := t.bits / 8
              if e.space = 1 ∧ cells.any fun c => poisoned s.wg.scratchPoison (swz e.perm c.2.1) n then s.faultPod .poison
              else if e.space = 1 then
                let r := cells.foldl (fun (x : Exc × State) c =>
                  let o := swz e.perm c.2.1
                  let v := addElement t (natOfBytes (NMap.bytes x.2.wg.scratch o n)) (x.2.wg.cell acc.val c.1).toNat
                  (x.1 ||| v.2, x.2.storeScratch o (toBytes (BitVec.ofNat 64 v.1) n))) (excNone, s.closeCoat)
                ((r.2.raiseBin r.1).writeStatus d.val 0).advance 8
              else
                let items := cells.filterMap fun c => (s.locate s.core.n s.wg.ctx c.2.1).map fun l => (l, AddItem.mk l.key (s.wg.cell acc.val c.1))
                let lines := dedup (items.map fun i => i.1.line)
                let step := fun (s : State) (line : Nat) =>
                  let mine := items.filter fun i => i.1.line == line
                  let r : AddstReq := ⟨s.core.n, s.pod.key, line, t, mine.map (·.2)⟩
                  let s := mine.foldl (fun s i => s.touchHome i.1) s
                  let tx := s.pod.sTxn
                  match s.asked s.core.n line (addOffs r) (.addstLine r) with
                  | some s => s.setTxn .s { tx with outstanding := tx.outstanding + 1 }
                  | none =>
                    let v := (s.closeCoat.respond r.core line (s.marks line)).addstAt r
                    v.2.setTxn .s { tx with replies := tx.replies ++ [(0, v.1.setWidth 64)] }
                if items.any fun i => poisoned s.poison i.1.key n || s.ownBad s.core.n i.1.line ((List.range n).map (i.1.key % 128 + ·)) then s.faultPod .poison
                else
                  let s1 := lines.foldl step (s.setTxn .s { s.pod.sTxn with phase := 4 })
                  if s1.pod.sTxn.outstanding ≠ 0 then s1.holdS .plain else finish s1
            if rel then s.release .s 0 .dev go else go s

/-! ## Daubs (R327 to R329) -/

/-- A daub commits at its acting home, which sends copies of the line to the named cores, on another die through its proxy (R328, R420). -/
def State.daubAt (s : State) (r : DaubReq) : State :=
  let o := s.takeOwn r.core r.line (r.bytes.map (·.1))
  let s1 := (o.2.commitLine r.line r.bytes).mapHome r.line fun h => { h with daubSeq := h.daubSeq + 1 }
  let h := s1.homeD r.line
  let data := s1.lineImage r.line
  let d := dieOf r.core
  let near := d == h.die || s1.proxies.any fun p => p.die == d && p.actsFor r.line
  let copies := if near then r.targets.map fun c => Msg.daubCopy c r.line h.daubSeq data r.pod
    else if r.targets.isEmpty then [] else [Msg.relayedCopy d r.line h.daubSeq data r.pod r.targets]
  s1.notifyFast r.line (r.core :: r.targets) (dedup (clusterOf r.core :: r.targets.map clusterOf)) copies

/-- A daub has taken effect: its sender's coat closes (R332), and the copies outstanding are counted (R331). -/
def State.daubed (s : State) (r : DaubReq) : State :=
  (s.closeCoatOf r.pod).mapPod r.pod fun p => { p with daubOut := p.daubOut + r.targets.length }

/-- A daub that had to wait for its home (R302, R328). -/
def execDaubAtHome (r : DaubReq) (s : State) : Res :=
  ok <| match s.queued r.core r.line (r.bytes.map (·.1)) (.daubAtHome r) with
    | some t => t
    | none => (((s.respond r.core r.line (s.marks r.line)).daubAt r).daubed r).replyAll r.pod .l [(0, 0)]

/-- Sends one daub of the pod in focus (R328, R441). -/
def State.sendDaub (s : State) (r : DaubReq) (l : Loc) : State :=
  let t := s.pod.lTxn
  let wait := fun (s : State) => s.setTxn .l { t with outstanding := t.outstanding + 1 }
  if lineRemote r.line then
    let o := (wait s).takeOwn r.core r.line (r.bytes.map (·.1))
    o.2.sendRequest (lineDev r.line) (.daub (r.line % spaceLines * 128) r.bytes) (.daub r)
  else
    let s2 := s.touchHome l
    match s2.asked r.core r.line (r.bytes.map (·.1)) (.daubAtHome r) with
    | some s => wait s
    | none => ((s2.respond r.core r.line (s2.marks r.line)).daubAt r).daubed r

/-- DAUBQ (R331). -/
def execDaubq (d : Fin 64) (shelf : Bool) (s : State) : Res :=
  ok <|
    if shelf then (s.writeStatus d.val (BitVec.ofNat 32 (Config.shelfEntries - s.core.shelf.length))).advance 4
    else if s.pod.daubOut ≠ 0 then s.holdS .plain
    else
      let w := s.pod.daubAcc.toNat * 4096 + s.pod.daubRef.toNat
      let s1 : State := { s with pod := { s.pod with daubAcc := 0, daubRef := 0 } }
      (s1.writeStatus d.val (BitVec.ofNat 32 w)).advance 4

end Sys2Proof.Machine
end

