-- ==== Sys2Proof/Machine/Redx.lean ====
section
/-! DEFINITION. Reductions: REDX (R338, R339), rounds and their tree (R340, R341), delivery (R342), the timer (R343). -/

namespace Sys2Proof.Machine

/-- What a node passes up: its moment, the mask and target of the contribution that it kept, the cores combined, the sum. Moments are counted in contributions that had arrived in the round; what a node passes up only when the timer expires comes after all of them, in the order of the tree (log entry 85). -/
structure Node where
  pos : Nat
  members : BitVec 72
  target : Nat
  offset : Nat
  cores : List Nat
  data : List W32
deriving DecidableEq, Repr

/-- comb (R341). -/
def comb (x y : W32) : W32 := BitVec.ofNat 32 (addF32 x.toNat y.toNat)

/-- A node of the tree with two inputs (R341). -/
def Node.join : Option Node → Option Node → Option Node
  | none, b => b
  | a, none => a
  | some a, some b =>
    some { a with pos := min a.pos b.pos, cores := a.cores ++ b.cores, data := (a.data.zip b.data).map fun e => comb e.1 e.2 }

/-- Drops the inputs of a node that differ from the first that has been passed up to it (R340). -/
def agreeing (xs : List (Option Node)) : List (Option Node) :=
  let first := xs.foldl (fun (b : Option Node) x => match b, x with
    | none, x => x
    | some b, some x => if x.pos < b.pos then some x else some b
    | some b, none => some b) none
  match first with
  | none => xs
  | some f => xs.map fun x => match x with
    | some n => if n.members = f.members ∧ n.target = f.target ∧ n.offset = f.offset then some n else none
    | none => none

def nth (xs : List (Option Node)) (i : Nat) : Option Node := xs.getD i none

/-- The contribution of a core of the die, with its position of arrival (R340). -/
def leaf (xs : List (Nat × Contribution)) (die core : Nat) : Option Node :=
  (xs.find? fun e => e.2.core == die * 72 + core).map fun e =>
    { pos := e.1, members := e.2.members, target := e.2.target, offset := e.2.offset, cores := [core], data := e.2.data }

/-- A node over n cores from core lo on passes its value up once every member below it has arrived, at the moment at which the last of its inputs came; else only when the timer expires, in its place among the nodes that do so then (R341, R343). -/
def Node.pass (expired : Bool) (last lo n : Nat) (inputs : List (Option Node)) (x : Option Node) : Option Node :=
  match x with
  | none => none
  | some x =>
    if (List.range n).all fun i => !x.members.getLsbD (lo + i) || x.cores.contains (lo + i) then
      some { x with pos := inputs.foldl (fun m y => match y with | some y => max m y.pos | none => m) 0 }
    else if expired then some { x with pos := last + lo } else none

/-- Cluster c of a die (R341). -/
def clusterNode (expired : Bool) (xs : List (Nat × Contribution)) (die c : Nat) : Option Node :=
  let v := agreeing ((List.range 4).map fun i => leaf xs die (4 * c + i))
  Node.pass expired xs.length (4 * c) 4 v (Node.join (Node.join (nth v 0) (nth v 1)) (Node.join (nth v 2) (nth v 3)))

/-- Sector k of a die. -/
def sectorNode (expired : Bool) (xs : List (Nat × Contribution)) (die k : Nat) : Option Node :=
  let v := agreeing ((List.range 6).map fun i => clusterNode expired xs die (6 * k + i))
  Node.pass expired (xs.length + 72) (24 * k) 24 v
    (Node.join (Node.join (Node.join (nth v 0) (nth v 1)) (Node.join (nth v 2) (nth v 3))) (Node.join (nth v 4) (nth v 5)))

/-- What the die node of a round holds. -/
def rootNode (expired : Bool) (xs : List Contribution) (die : Nat) : Option Node :=
  let ys := withIndex xs
  let v := agreeing ((List.range 3).map fun k => sectorNode expired ys die k)
  Node.join (Node.join (nth v 0) (nth v 1)) (nth v 2)

/-- Members whose contribution did not enter the sum (R342). -/
def Node.missing (n : Node) : List Nat := (List.range 72).filter fun c => n.members.getLsbD c && !n.cores.contains c

def maskOf (xs : List Nat) (lo len : Nat) : Nat := (xs.filter fun c => decide (lo ≤ c) && decide (c < lo + len)).foldl (fun m c => m + 2 ^ (c - lo)) 0

/-- The 144 bytes of a delivery (R342). -/
def Node.bytes (n : Node) (g : Nat) : List Byte :=
  let miss := n.missing
  let st := status (if miss.isEmpty then stOk else stIncomplete) (g % 256) (maskOf miss 64 8) n.cores.length
  n.data.flatMap (fun x => toBytes x 4) ++ toBytes st 4 ++ [0, 0, 0, 0] ++ toBytes (BitVec.ofNat 64 (maskOf miss 0 64)) 8

def Round.is (die launch group : Nat) (r : Round) : Bool := r.die == die && r.launch == launch && r.group == group

/-- The workgroup that receives a round (R342). -/
def State.deliveryWg (s : State) (launch core : Nat) : Option Nat :=
  let first := fun (ws : List Wg) => (ws.foldl (fun (b : Option Wg) w => match b with
    | none => some w
    | some b => if w.order < b.order then some w else some b) none).map (·.id)
  let mine := s.allWgs.filter fun w => w.launch == launch && w.core == core
  match first (mine.filter (·.resident)) with
  | some w => some w
  | none => first (mine.filter fun w => !w.resident)

/-- Delivers what a round holds and closes it (R342, R343). -/
def State.deliverRound (s : State) (r : Round) : State :=
  let s1 : State := { s with rounds := removeFirst (fun x => x == r) s.rounds }
  match rootNode true r.arrived r.die with
  | none => s1
  | some n =>
    let core := r.die * 72 + n.target
    match s1.deliveryWg r.launch core with
    | none => s1.log 0x02 (((s.launchBy r.launch).map (·.ctx)).getD noCtx) [r.launch, r.group]
    | some w =>
      ({ s1 with deliveries := s1.deliveries ++ [⟨r.die, r.launch, r.group, core, n.offset, n.bytes r.group, some w⟩] } : State).send
        (.reductionDelivery r.die r.launch r.group)

/-- A contribution reaches its cluster node (R340, R343): it belongs to the open round that its core has sent to, or it joins or opens the next. That its launch has completed since changes nothing; one of a launch that was ended is discarded with it (R342, R344). -/
def execReductionContribution (c : Contribution) (s : State) : Res :=
  ok <|
    let same := Round.is c.die c.launch c.group
    let r := match s.rounds.find? same with
      | some r => r
      | none => { die := c.die, launch := c.launch, group := c.group, start := s.cycle, sent := [], arrived := [] }
    let r1 := { r with sent := if r.sent.contains c.core then r.sent else r.sent ++ [c.core], arrived := r.arrived ++ [c] }
    let s1 : State := { s with rounds := if s.rounds.any same then updateFirst same (fun _ => r1) s.rounds else s.rounds ++ [r1] }
    match rootNode false r1.arrived c.die with
    | none => s1
    | some n => if n.missing.isEmpty then s1.deliverRound r1 else s1

/-- The timer of a round (R343). -/
def execRoundTimeout (die launch group : Nat) (s : State) : Res :=
  ok <| match s.rounds.find? (Round.is die launch group) with
  | none => s
  | some r => if 65536 ≤ s.since r.start then s.deliverRound r else s

/-- A delivery is written into the window of its workgroup, or waits until the workgroup is resident (R342). -/
def execReductionDelivery (die launch group : Nat) (s : State) : Res :=
  ok <|
    let is := fun (d : Delivery) => d.die == die && d.launch == launch && d.group == group
      && match d.wg.bind s.wgBy with
        | some w => w.resident
        | none => false
    match s.deliveries.find? is with
    | none => s
    | some d =>
      let s1 : State := { s with deliveries := removeFirst is s.deliveries }
      match d.wg with
      | none => s1
      | some id => s1.mapWg id fun w =>
        let w1 := w.portStore d.offset d.bytes
        { w1 with fe := (List.range 9).foldl (fun m i => NMap.set m (d.offset / 16 + i) 1) w1.fe }

/-- A contribution of a core to a group is on its way: it belongs to the open round, or opens or joins the next (R340, R343). -/
def State.contributing (s : State) (die launch group core : Nat) : Bool :=
  s.inflight.any fun m => match m with
    | .reductionContribution c => c.die == die && c.launch == launch && c.group == group && c.core == core
    | _ => false

/-- REDX (R338 to R340). -/
def execRedx (d a b m : Fin 64) (g : Fin 256) (s : State) : Res :=
  ok <|
    let e := s.readS a.val
    let x := (s.readS b.val).toNat
    let hi := (s.readS (m.val + 1)).toNat
    let members : BitVec 72 := BitVec.ofNat 72 ((s.readS m.val).toNat + hi % 256 * 2 ^ 64)
    let core := s.core.n % 72
    let die := dieOf s.core.n
    s.scratchAt 8 e 128 fun s =>
        let off := x % 2 ^ 20
        let target := x / 2 ^ 32 % 128
        let err := fun (c why : Nat) => (s.writeStatus d.val (status c why 0 0)).advance 8
        if off % 128 ≠ 0 then err errAlign 0x78
        else if x / 2 ^ 39 ≠ 0 ∨ x / 2 ^ 20 % 4096 ≠ 0 ∨ 71 < target then err errBounds 0x79
        else if 256 ≤ hi ∨ !members.getLsbD core then err errBounds 0x7A
        else if s.wg.grant.scratch < off + 144 then err errBounds 0x7B
        else
          let same := Round.is die s.wg.launch g.val
          if s.rounds.any (fun r => same r && r.sent.contains s.core.n) || s.contributing die s.wg.launch g.val s.core.n then s.holdS .cond
          else s.loadScratch e.toNat 128 fun bs s =>
            let data := (List.range 32).map fun i => ofBytes 32 ((bs.drop (4 * i)).take 4)
            let c : Contribution := ⟨die, s.wg.launch, g.val, s.core.n, members, target, off, data⟩
            let r : Round := { die := die, launch := s.wg.launch, group := g.val, start := s.cycle, sent := [s.core.n], arrived := [] }
            let rs := if s.rounds.any same then updateFirst same (fun r => { r with sent := r.sent ++ [s.core.n] }) s.rounds else s.rounds ++ [r]
            let s1 : State := { s with rounds := rs }
            ((s1.send (.reductionContribution c)).closeCoat.writeStatus d.val 0).advance 8

end Sys2Proof.Machine
end

