-- ==== Sys2Proof/Machine/Fabric.lean ====
section
/-! DEFINITION. Requests between devices (R431 to R442, R493), XSEND and XWAIT (R443 to R448), grouped stores at the hawk and their sets (R450 to R455), the host link (R460) and WAITA (R466). -/

namespace Sys2Proof.Machine

/-! ## Sets at the device that holds them (R450 to R454) -/

def State.hawkOf (s : State) (k : SetKey) : Option HawkSet := s.hawk.find? (fun h => h.key == k)
def State.mapHawk (s : State) (k : SetKey) (f : HawkSet → HawkSet) : State :=
  if s.hawk.any (fun h => h.key == k) then { s with hawk := updateFirst (fun h => h.key == k) f s.hawk }
  else { s with hawk := s.hawk ++ [f { key := k, got := 0, refused := false, asked := none, prepared := none, pub := none }] }

/-- Answers a prepare once the device can (R452): refused, or holding every message. -/
def State.tryReady (s : State) (k : SetKey) : State :=
  match s.hawkOf k with
  | none => s
  | some h =>
    match h.asked with
    | none => s
    | some n =>
      let tell := fun (s : State) (r : Bool) => if k.src = s.dev then s.send (.setReady k s.dev r) else s.sendRequest k.src (.ready k r) (.set k)
      if h.prepared.isSome then s
      else if h.refused then tell (s.mapHawk k fun h => { h with asked := none }) false
      else if n ≤ h.got then tell (s.mapHawk k fun h => { h with prepared := some s.cycle }) true
      else s

/-- The hawk merges a wet-store message, or refuses it for want of room (R450). -/
def State.wetArrives (s : State) (k : SetKey) (line : Nat) (bytes : LineBytes) : State :=
  let same := fun (w : WetLine) => w.key == k && w.line == line
  let merge := fun (old : LineBytes) => bytes.foldl (fun m e => ainsert e.1 e.2 m) old
  let s1 := s.mapHawk k fun h => { h with got := h.got + 1 }
  let s2 : State :=
    if s1.wet.any same then { s1 with wet := updateFirst same (fun w => { w with bytes := merge w.bytes, bad := w.bad.filter fun i => !(wholeOf bytes).contains i }) s1.wet }
    else if s1.wet.length < Config.hawkLines then { s1 with wet := s1.wet ++ [⟨k, line, merge [], []⟩] }
    else s1.mapHawk k fun h => { h with refused := true }
  s2.tryReady k

/-- A wet-store message reaches the hawk (R450). -/
def execWetStoreMessage (k : SetKey) (line : Nat) (bytes : LineBytes) (s : State) : Res := ok (s.wetArrives k line bytes)

/-- A prepare reaches a device (R452). -/
def execSetPrepare (k : SetKey) (count : Nat) (s : State) : Res :=
  ok <| (s.mapHawk k fun h => { h with asked := some count }).tryReady k

/-- A commit reaches a device (R453): all the wet lines of the set become one publication; lines of host memory commit beside it. -/
def State.commitSet (s : State) (k : SetKey) : State :=
  match s.hawkOf k with
  | none => s.tellSetDone k
  | some h =>
    if h.pub.isSome then s
    else
      let ls := s.wet.filter fun w => w.key == k
      let s1 : State := { s with wet := s.wet.filter fun w => w.key != k }
      let s2 := (ls.filter fun w => lineHost w.line).foldl (fun s w => { (s.commitMarked w.line w.bytes w.bad).out (.hostWrite w.line) with hostPending := s.hostPending + 1 }) s1
      let near := ls.filter fun w => !lineHost w.line
      if near.isEmpty then ({ s2 with hawk := s2.hawk.filter fun h => h.key != k } : State).tellSetDone k
      else
        let (id, s3) := s2.fresh
        ({ s3 with
          pubs := s3.pubs ++ [⟨id, Config.cores, near.map fun w => ⟨w.line, w.bytes, w.bad, [], .sending⟩⟩]
          inflight := s3.inflight ++ near.map fun w => Msg.pendingBytes id w.line } : State).mapHawk k fun h => { h with pub := some id }

/-- A scrape reaches a device (R452): its part of the epoch is discarded. A set whose commit has arrived is past it (R454). -/
def State.scrapeSet (s : State) (k : SetKey) : State :=
  if (s.hawkOf k).any (fun h => h.pub.isSome) then s
  else ({ s with wet := s.wet.filter (fun w => w.key != k), hawk := s.hawk.filter fun h => h.key != k } : State).tellSetDone k

def execSetCommit (k : SetKey) (s : State) : Res := ok (s.commitSet k)
def execSetScrape (k : SetKey) (s : State) : Res := ok (s.scrapeSet k)

/-- What the log says of a set: group, epoch, source, devices. -/
def setDetail (k : SetKey) (n : Nat) : List Nat := [k.group, k.epoch.toNat, k.src, n]

/-- A prepared device has heard nothing for 16 ms (R454): it asks the source, or logs that the source cannot answer. -/
def execDecisionQuery (k : SetKey) (s : State) : Res :=
  ok <| match s.hawkOf k with
  | none => s
  | some h =>
    match h.prepared with
    | none => s
    | some t =>
      if h.pub.isSome || s.since t < 43200000 then s
      else
        let s1 := s.mapHawk k fun h => { h with prepared := some s.cycle }
        if k.src = s.dev then s1 else s1.sendRequest k.src (.query k) (.set k)

/-! ## Sets at their source (R451 to R455) -/

/-- The decision of a set has been recorded. -/
def State.decided (s : State) (k : SetKey) : Bool :=
  s.skepin.decisions.any fun e => e.ctx == k.ctx && e.detail.take 2 == [BitVec.ofNat 32 k.group, k.epoch.setWidth 32]

/-- Every device is ready: the decision is recorded and kept, and the commits leave (R452, R454). -/
def State.decideSet (s : State) (o : SetOp) : State :=
  let s1 := s.log 0x05 o.key.ctx (setDetail o.key o.devs.length)
  let e := s1.skepin.log.getLast?
  let s2 : State := { s1 with
    skepin := { s1.skepin with decisions := s1.skepin.decisions ++ e.toList }
    sets := updateFirst (fun x => x.key == o.key) (fun x => { x with stage := .committing, answered := [], sent := s1.cycle }) s1.sets }
  o.devs.foldl (fun s d => s.sendSet d (.setCommit o.key) (.setCommit o.key) o.key) s2

/-- A device answers a prepare (R452). -/
def execSetReady (k : SetKey) (dev : Nat) (ready : Bool) (s : State) : Res :=
  ok <| match s.sets.find? (fun o => o.key == k && o.stage == .preparing) with
  | none => s
  | some o =>
    if !ready then s.scrapeOp o 0x03 none
    else
      let o1 := { o with answered := if o.answered.contains dev then o.answered else o.answered ++ [dev] }
      let s1 : State := { s with sets := updateFirst (fun x => x.key == k) (fun _ => o1) s.sets }
      if o.devs.all o1.answered.contains then s1.decideSet o1 else s1

/-- 4 ms have passed without every ready (R452). -/
def execPrepareTimeout (k : SetKey) (s : State) : Res :=
  ok <| match s.sets.find? (fun o => o.key == k && o.stage == .preparing) with
  | none => s
  | some o => if 10800000 ≤ s.since o.start then s.scrapeOp o 0x02 none else s

/-- A commit is sent again every 2 ms to each device that has not acknowledged it (R454). -/
def execCommitResend (k : SetKey) (s : State) : Res :=
  ok <| match s.sets.find? (fun o => o.key == k && o.stage == .committing) with
  | none => s
  | some o =>
    if s.since o.sent < 5400000 then s
    else
      let s1 : State := { s with sets := updateFirst (fun x => x.key == k) (fun x => { x with sent := s.cycle }) s.sets }
      (o.devs.filter fun d => !o.answered.contains d).foldl (fun s d => s.sendSet d (.setCommit k) (.setCommit k) k) s1

/-- What a source answers to a query (R454): a recorded decision is committed; an epoch that it neither prepares nor decided was not. -/
def State.answerQuery (s : State) (k : SetKey) (dev : Nat) : State :=
  if s.decided k then s.sendSet dev (.setCommit k) (.setCommit k) k
  else if s.sets.any (fun o => o.key == k && o.stage == .preparing) then s
  else s.sendSet dev (.setScrape k) (.setScrape k) k

/-- SET (R452): phase 3 marks that the epoch is closed and the rounds run. -/
def execSet (d g : Fin 64) (s : State) : Res :=
  ok <| s.afterLanes fun s => s.release .s 0 .sys fun s =>
    match s.pod.sTxn.replies with
    | (_, x) :: _ => ((s.acquire .sys).writeStatus d.val (x.setWidth 32)).advance 4
    | [] =>
      if s.pod.sTxn.phase = 3 then s.holdS .plain
      else
        let s := s.closeCoat
        let x := s.groupOf s.wg.ctx g.val
        let k : SetKey := ⟨s.dev, s.wg.ctx, g.val, x.epoch⟩
        let devs := (x.counts.filter fun c => decide (0 < c.2)).map (·.1)
        let s1 := s.closeEpoch s.wg.ctx g.val
        if devs.isEmpty then ((s1.acquire .sys).writeStatus d.val 0).advance 4
        else
          let o : SetOp := ⟨k, devs, [], .preparing, s.cycle, s.cycle, some s.pod.key, false, 0, 0⟩
          let s2 : State := { s1 with sets := s1.sets ++ [o] }
          let s3 := if x.lost then s2.scrapeOp o 0x04 none
            else x.counts.foldl (fun s c => if 0 < c.2 then s.sendSet c.1 (.prepare k c.2) (.setPrepare k c.2) k else s) s2
          (s3.setTxn .s { s3.pod.sTxn with phase := 3 }).holdS .plain

/-- SCRAPE (R451, R452): phase 3 marks that its scrapes have been sent; start holds the number of devices. -/
def execScrape (d g : Fin 64) (s : State) : Res :=
  ok <| s.afterLanes fun s =>
    let land := fun (s : State) (n : Nat) => (s.writeStatus d.val (status stScraped 0x01 (n / 256) (n % 256))).advance 4
    if s.pod.sTxn.phase = 3 then
      if s.sets.any fun o => o.scraper && o.who == some s.pod.key then s.holdS .plain else land s s.pod.sTxn.start.toNat
    else
      let r := s.closeCoat.scrapeGroup s.wg.ctx g.val 0x01 (some s.pod.key)
      if r.1.isEmpty then land r.2 0
      else (r.2.setTxn .s { Txn.empty with phase := 3, start := BitVec.ofNat 64 r.1.length }).holdS .plain

/-! ## XSEND at its source (R443 to R447) -/

def State.xferBy (s : State) (id : Nat) : Option Xfer := s.xfers.find? (fun x => x.id == id)
def State.mapXfer (s : State) (id : Nat) (f : Xfer → Xfer) : State :=
  { s with xfers := updateFirst (fun x => x.id == id) f s.xfers }

/-- A transfer ends: it serves the dispenser if it holds a ticket, and its status lands (R446, R447). -/
def State.endXfer (s : State) (x : Xfer) (w : W32) : State :=
  let s1 := ({ s with xfers := s.xfers.filter fun y => y.id != x.id } : State).mapPod x.pod fun p => p.landStatus x.id w
  if x.ticket.isSome then s1.sendRequest x.dev (.ticket ⟨x.core, xferKey x.id, incastKey, .serve⟩) .none else s1

/-- A page that ends a transfer (R445). -/
def State.pageFault (s : State) (x : Xfer) (c : Cause) : State := s.endXfer x (status stFault (causeCode c) 0 0)

/-- Bytes up to the end of the leaf that holds an address. -/
def leafRest (l : Loc) (va : Nat) : Nat := pageBytes l.level - va % pageBytes l.level

/-- The source run at an address: a local page, on the tile path (R311, R365, R445). No cause: its walk waits (R289). -/
def State.sourceRun (s : State) (x : Xfer) (va n : Nat) : Except (Option Cause) (Loc × Nat) :=
  match s.checkFlat x.core x.ctx (BitVec.ofNat 64 va) 1 false with
  | .trap c => .error (some c)
  | .busy => .error none
  | .ok l => if leafDev l.leaf ≠ s.dev then .error (some .xlatePerm) else .ok (l, min n (leafRest l va))

/-- The destination run at an address: a writable page of another device. -/
def State.destRun (s : State) (x : Xfer) (va n : Nat) : Except (Option Cause) (Loc × Nat) :=
  match s.checkFlat x.core x.ctx (BitVec.ofNat 64 va) 1 true with
  | .trap c => .error (some c)
  | .busy => .error none
  | .ok l => if leafDev l.leaf = s.dev then .error (some .xlatePerm) else .ok (l, min n (leafRest l va))

/-- What a packet gathers: its runs so far, or why it cannot go on. -/
inductive Gather | done (runs : List (Nat × Bool × List Byte)) (n : Nat) | fault (c : Cause) | poison | wait

/-- A run that cannot be read or written ends the packet before it. -/
def Gather.stop (acc : List (Nat × Bool × List Byte)) : Option Cause → Gather
  | none => .wait
  | some c => if acc.isEmpty then .fault c else .done acc 0

/-- Gathers up to n bytes of a packet from offset off on, run by run; a run on another device belongs to the next packet. -/
def State.gather (s : State) (x : Xfer) (dev : Nat) : Nat → Nat → Nat → List (Nat × Bool × List Byte) → Gather
  | 0, _, _, acc => .done acc 0
  | fuel + 1, off, n, acc =>
    if n = 0 then .done acc 0
    else match s.sourceRun x (x.src + off) n with
      | .error c => .stop acc c
      | .ok (l, m) =>
        match s.destRun x (x.dst + off) m with
        | .error c => .stop acc c
        | .ok (r, m) =>
          if leafDev r.leaf ≠ dev then .done acc 0
          else
            let m := min m (128 - l.key % 128)
            match s.tileRead x.core l m with
            | .wait _ => .wait
            | .poison _ => .poison
            | .ok _ bs =>
              match s.gather x dev fuel (off + m) (n - m) (acc ++ [(r.key % spaceBytes, r.tracked, bs)]) with
              | .done runs k => .done runs (k + m)
              | g => g

/-- A page that a transfer cannot reach ends it; one whose walk waits makes it try again. -/
def State.runStop (s : State) (x : Xfer) : Option Cause → State
  | none => s.send (.xferStep x.id)
  | some c => s.pageFault x c

/-- The next packet of a transfer, or its end (R445). -/
def State.xferNext (s : State) (id : Nat) : State :=
  match s.xferBy id with
  | none => s
  | some x =>
    if x.len ≤ x.sent then s.endXfer x (if x.dropped then status stFault (causeCode .xlateAbsent) 1 0 else 0)
    else match s.sourceRun x (x.src + x.sent) 1 with
    | .error c => s.runStop x c
    | .ok _ =>
      match s.destRun x (x.dst + x.sent) 1 with
      | .error c => s.runStop x c
      | .ok (r, _) =>
        let dev := leafDev r.leaf
        if x.sent = 0 ∧ x.ticket.isNone ∧ (262144 < x.len ∨ leafIncast r.leaf) then
          (s.mapXfer id fun x => { x with stage := .ticket, dev := dev }).sendRequest dev (.ticket ⟨x.core, xferKey id, incastKey, .take⟩) (.ticket id)
        else match s.gather x dev 16 x.sent (min 256 (x.len - x.sent)) [] with
          | .fault c => s.pageFault x c
          | .poison => s.faultOf x.pod .poison
          | .wait => s.send (.xferStep id)
          | .done runs n =>
            let dom := ((s.ctxBy x.ctx).map (·.domain)).getD 0
            (s.mapXfer id fun x => { x with stage := .send, sent := x.sent + n, dev := if x.ticket.isSome then x.dev else dev }).sendRequest dev
              (.packet ⟨s.dev, dom, runs, x.dcore, x.counter⟩) (.xsend id)

/-- The ticket of a transfer has been served, or it asks to wait for it. -/
def State.xferTicket (s : State) (id : Nat) (v : W64) (dst : Nat) : State :=
  match s.xferBy id with
  | none => s.sendRequest dst (.ticket ⟨0, xferKey id, incastKey, .serve⟩) .none
  | some x =>
    match x.stage with
    | .ticket => (s.mapXfer id fun x => { x with stage := .wait, ticket := some v }).sendRequest dst (.ticket ⟨x.core, xferKey id, incastKey, .wait v⟩) (.ticket id)
    | .wait => if v = 1 then s.xferNext id else s
    | .send => s

/-- XSEND (R443 to R446). -/
def execXsend (d a b c : Fin 64) (s : State) : Res :=
  ok <|
    let src := (s.readS a.val).toNat
    let len := (s.readS (a.val + 1)).toNat
    let dst := (s.readS b.val).toNat
    let x := (s.readS c.val).toNat
    let err := fun (code why : Nat) => (s.writeStatus d.val (status code why 0 0)).advance 8
    let core := x / 2 ^ 32 % 512
    if src % 16 ≠ 0 ∨ dst % 16 ≠ 0 ∨ len % 16 ≠ 0 ∨ x % 2 ^ 20 % 8 ≠ 0 then err errAlign 0xA0
    else if len = 0 ∨ 2 ^ 32 - 16 < len ∨ 2 ^ 54 < src + len ∨ 2 ^ 54 < dst + len then err errBounds 0xA1
    else if x / 2 ^ 41 ≠ 0 ∨ x / 2 ^ 20 % 4096 ≠ 0 ∨ 287 < core then err errBounds 0xA2
    else
      let (id, s1) := s.fresh
      let t : Xfer :=
        { id := id, pod := s.pod.key, reg := d.val, ctx := s.wg.ctx, core := s.core.n, launch := s.wg.launch, src := src, dst := dst, len := len,
          dev := 0, sent := 0, stage := .send, ticket := none, dcore := core, counter := x % 2 ^ 20, dropped := false }
      (({ s1.closeCoat with xfers := s1.xfers ++ [t] } : State).pend d.val id .wg |>.advance 8).xferNext id

/-- XWAIT (R448): phase 18 marks that it waits, phase 19 that its counter has reached the value since. -/
def execXwait (a b : Fin 64) (s : State) : Res :=
  ok <|
    let e := s.readS a.val
    s.scratchAt 4 e 8 fun s =>
      s.loadScratch e.toNat 8 fun bs s =>
        if s.pod.sTxn.phase = 19 ∨ 0 ≤ (ofBytes 64 bs - s.readS b.val).toInt then (s.acquire .sys).advance 4
        else (s.setTxn .s { s.pod.sTxn with phase := 18, key := e.toNat, start := s.readS b.val }).holdS .cond

/-! ## XSEND at its destination (R445) -/

/-- The workgroup that a counter of a core belongs to: the earliest resident one of the domain, else the earliest saved one. -/
def State.counterWg (s : State) (domain core : Nat) : Option Wg :=
  let mine := s.allWgs.filter fun w => w.core == core && ((s.ctxBy w.ctx).map (·.domain)) == some domain
  let first := fun (ws : List Wg) => ws.foldl (fun (b : Option Wg) w => match b with
    | none => some w
    | some b => if w.order < b.order then some w else some b) none
  match first (mine.filter (·.resident)) with
  | some w => some w
  | none => first (mine.filter fun w => !w.resident)

/-- Applies a packet: its bytes, then its count. The answer is none while the addition waits; some true when it was dropped. A counter outside the window belongs to no workgroup. -/
def State.applyPacket (s : State) (p : XPacket) (seq : Half16) : Option Bool × State :=
  let s1 := p.runs.foldl (fun s r => (splitLines r.1 r.2.2).foldl (fun s e =>
    if r.2.1 then s.writeHomeLine e.1 e.2 else s.writeUntracked noCore e.1 e.2 []) s) s
  let n : W64 := BitVec.ofNat 64 ((p.runs.map fun r => r.2.2.length).sum)
  match s1.counterWg p.domain p.core with
  | none => (some true, s1.log 0x03 noCtx [p.src, p.core])
  | some w =>
    if w.grant.scratch < p.counter + 8 then (some true, s1.log 0x03 noCtx [p.src, p.core])
    else if w.resident then
      (some false, s1.mapWg w.id fun w => w.portStore p.counter (toBytes (ofBytes 64 (NMap.bytes w.scratch p.counter 8) + n) 8))
    else (none, { s1 with late := s1.late ++ [⟨w.id, p.counter, n, p.src, seq, p.core⟩] })

/-- A packet of an XSEND is applied (R445). -/
def execXsendPacket (p : XPacket) (s : State) : Res := ok (s.applyPacket p 0).2

/-! ## Serving another device (R433 to R441) -/

/-- Lines of this device that a request works on, and whether it asks for a merge of a split line, as an untracked write does too (R419). -/
def opLines (s : State) : RemoteOp → List (Nat × Bool)
  | .read l => [(l, false)]
  | .write a _ _ tracked => [(a / 128, !tracked)]
  | .atomic r _ => [(r.line, true)]
  | .daub a _ => [(a / 128, true)]
  | .ticket r => [((if r.key = incastKey then s.dispenser else r.key) / 128, true)]
  | .packet p => p.runs.flatMap fun r => (splitLines r.1 r.2.2).map fun e => (e.1, !r.2.1)
  | _ => []

/-- Applies a request of device src (R437 to R441, R445, R450 to R458): the data of its acknowledgement, none when it is not yet at hand. -/
def State.applyRemote (s : State) (src : Nat) (seq : Half16) (op : RemoteOp) : Option (List Byte) × State :=
  match op with
  | .read l => (some (s.lineImage l), s)
  | .write a bs bad tracked =>
    let t := if tracked then s.writeHomeLine (a / 128) bs else s.writeUntracked noCore (a / 128) bs []
    (some [0], { t with poison := setMarks t.poison (a / 128) bad 1 })
  | .atomic r own =>
    let r := { r with core := Config.cores }
    if s.atomPoison r then (some [], s)
    else
      let a := s.atomicAt r own
      (some (a.1.flatMap fun x => toBytes x.2 8), a.2)
  | .daub a bs =>
    let s1 := (s.commitLine (a / 128) bs).commitAtomic Config.cores (a / 128) [] []
    (some (s1.lineImage (a / 128)), s1)
  | .ticket r =>
    let disp := r.key == incastKey
    let a := s.ticketAt src { r with key := if disp then s.dispenser else r.key }
    let held := match r.kind with
      | .take => if disp then a.2.incast ++ [(src, a.1)] else a.2.incast
      | .serve => if disp then removeFirst (fun e => e.1 == src) a.2.incast else a.2.incast
      | .wait _ => a.2.incast
    (some (toBytes a.1 8), { a.2 with incast := held })
  | .serving p key v =>
    if p.wg = 0 then
      (some [0], match s.xferBy p.pod with
        | some x => if x.stage == .wait && ticketServed v (x.ticket.getD 0) then s.xferNext x.id else s
        | none => s)
    else (some [0], s.send (.ticketServingValue p (byteKey s.dev src key) v))
  | .packet p =>
    let a := s.applyPacket { p with src := src } seq
    (a.1.map fun d => [if d then 1 else 0], a.2)
  | .wet k l bs => (some [0], s.wetArrives k l bs)
  | .prepare k n => (some [0], s.send (.setPrepare k n))
  | .ready k r => (some [0], s.send (.setReady k src r))
  | .setCommit k => (some [0], s.send (.setCommit k))
  | .setScrape k => (some [0], s.send (.setScrape k))
  | .setDone k => (some [0], s.setAcked k src)
  | .query k => (some [0], s.answerQuery k src)
  | .bridgeOpen tag e peer => (some [0], match execBridgeOpen (Fin.ofNat 512 src) tag e (Fin.ofNat 512 peer) s with
    | .next t => t
    | _ => s)
  | .bridgeTile tag data => (some [0], s.send (.bridgeTile (Fin.ofNat 512 src) tag data))
  | .bridgeCredit tag => (some [0], s.send (.bridgeCredit (Fin.ofNat 512 src) tag))
  | .bridgeClose tag => (some [0], s.send (.bridgeClose (Fin.ofNat 512 src) tag))

/-- Applies the next request of a device; none while an operation at a home holds it back (R302). -/
def State.serveOne (s : State) (src : Nat) (seq : Half16) (op : RemoteOp) : Except State State :=
  let t := opLines s op
  match t.find? fun l => !s.homeIdle l.1 with
  | some l => .error (s.waitAtHome l.1 (.serve src seq op))
  | none =>
    match t.find? fun l => l.2 && s.needMerge l.1 noCore (List.range 128) with
    | some l => .error (s.startRecall l.1 (.serve src seq op))
    | none =>
      let a := s.applyRemote src seq op
      let s1 := a.2.mapPeer src fun p =>
        { p with expect := p.expect + 1
                 early := p.early.filter fun e => e.1 != seq
                 replay := if replayed op || a.1 == some [1] then (p.replay ++ [(seq, a.1.getD [])]).drop (p.replay.length - 255) else p.replay }
      .ok (match a.1 with
        | none => s1
        | some d => s1.out (.answer src seq d))

/-- Applies the requests of a device that are at hand, in sequence order (R433). -/
def State.serveAll (s : State) (src : Nat) : Nat → State
  | 0 => s
  | n + 1 =>
    match s.peerBy src with
    | none => s
    | some p =>
      match p.early.find? fun e => e.1 == p.expect with
      | none => s
      | some e => match s.serveOne src e.1 e.2 with
        | .error s1 => s1
        | .ok s1 => s1.serveAll src n

/-- A request that waited at a home goes on. -/
def execServe (src : Nat) (_seq : Half16) (_op : RemoteOp) (s : State) : Res :=
  ok (s.serveAll src (((s.peerBy src).map fun p => p.early.length).getD 0))

/-- A request arrives over UALink (R433, R434, R485). -/
def execUalinkRequest (src : Fin 512) (seq : Half16) (op : RemoteOp) (s : State) : Res :=
  ok <|
    if !s.hasDev then s
    else
      let s := s.wake.mapPeer src.val id
      match s.peerBy src.val with
      | none => s
      | some p =>
        if (seq - p.expect).toInt < 0 then
          match op with
          | .read l => s.out (.answer src.val seq (s.lineImage l))
          | _ => if s.late.any fun c => c.src == src.val && c.seq == seq then s
            else s.out (.answer src.val seq (((p.replay.find? fun e => e.1 == seq).map (·.2)).getD [0]))
        else
          let s1 := s.mapPeer src.val fun p => { p with early := if p.early.any (fun e => e.1 == seq) then p.early else p.early ++ [(seq, op)] }
          s1.serveAll src.val (p.early.length + 1)

/-! ## Answers and peers that cannot be reached (R434 to R436) -/

/-- The replies of several lanes from the data of an acknowledgement. -/
def wordsOf (lanes : List Nat) (data : List Byte) : List (Nat × W64) :=
  (List.range lanes.length).zip lanes |>.map fun e => (e.2, ofBytes 64 ((data.drop (8 * e.1)).take 8))

/-- What an acknowledgement with data does at the source. -/
def State.complete (s : State) (dst : Nat) (r : Request) (data : List Byte) : State :=
  match r.who with
  | .none | .write _ _ | .set _ | .bridge _ _ => s
  | .fill core line => s.send (.fillReply core line data false)
  | .kfill core line => s.mapCore core fun c => { c with kcache := ((line, data) :: c.kcache.filter fun k => k.1 != line).take Config.kcacheLines }
  | .pod p st lane =>
    let x : W64 := ofBytes 64 data
    let closes := match r.op with
      | .ticket t => ticketCloses t.kind x
      | _ => false
    if data.isEmpty then s.faultKey p .poison else (if closes then s.closeCoatOf p else s).reply p st lane x
  | .pods p st ls => if data.isEmpty then s.faultKey p .poison else (s.closeCoatOf p).replyAll p st (wordsOf ls data)
  | .daub d =>
    let s1 := s.mapHome d.line fun h => { h with daubSeq := h.daubSeq + 1 }
    let q := (s1.homeD d.line).daubSeq
    ((s1.daubed d).sendAll (d.targets.map fun c => Msg.daubCopy c d.line q data d.pod)).replyAll d.pod .l [(0, 0)]
  | .xsend id => (s.mapXfer id fun x => { x with dropped := x.dropped || data == [1] }).xferNext id
  | .ticket id => s.xferTicket id (ofBytes 64 data) dst
  | .waita p =>
    if !(imageMarks data).isEmpty then s.faultKey p .poison
    else s.mapPod p fun p =>
      let t := p.sTxn
      if t.phase = 11 then { p with sTxn := { t with phase := 14, snap := data, start := s.cycle, last := s.cycle } }
      else if t.phase = 13 then { p with sTxn := { t with phase := if data = t.snap then 14 else 15, last := s.cycle } }
      else p

/-- How a request to a device that cannot be reached completes (R435). -/
def State.completeLost (s : State) (r : Request) : State :=
  match r.who with
  | .none => s
  | .ticket id => match s.xferBy id with
    | some x => s.faultKey x.pod .poison
    | none => s
  | .fill _ _ | .kfill _ _ | .waita _ => s.complete 0 r []
  | .pod p _ _ | .pods p _ _ => s.faultKey p .poison
  | .daub d => s.faultKey d.pod .poison
  | .write _ job => s.faultJob job .poison
  | .xsend id => match s.xferBy id with
    | some x => s.faultOf x.pod .poison
    | none => s
  | .set k =>
    match r.op with
    | .query k => s.log 0x06 k.ctx (setDetail k 0)
    | .wet k _ _ =>
      let s1 : State := { s with groups := s.groups.map fun g => if g.ctx = k.ctx ∧ g.group = k.group ∧ g.epoch = k.epoch then { g with lost := true } else g }
      (s1.sets.find? fun o => o.key == k && o.stage == .preparing).elim s1 fun o => s1.scrapeOp o 0x04 none
    | _ => match s.sets.find? fun o => o.key == k && o.stage == .preparing with
      | some o => s.scrapeOp o 0x04 none
      | none => s
  | .bridge pl _ =>
    match r.op with
    | .bridgeTile _ _ => match s.plBy pl with
      | some l => s.faultJob l.job .poison
      | none => s
    | _ => s

/-- An acknowledgement arrives; a late duplicate is discarded (R434). -/
def execUalinkAck (dst : Fin 512) (seq : Half16) (data : List Byte) (s : State) : Res :=
  ok <| match (s.peerBy dst.val).bind fun p => p.out.find? fun r => r.seq == seq && r.tries != 0 with
  | none => s
  | some r =>
    let t := (s.mapPeer dst.val fun p => { p with out := removeFirst (fun r => r.seq == seq) p.out }).complete dst.val r data
    t.sendWaiting dst.val (((t.peerBy dst.val).map fun p => p.out.length).getD 0)

/-- Completes every request outstanding to a device as R435 says. -/
def State.loseAll (s : State) (d : Nat) : State :=
  match s.peerBy d with
  | none => s
  | some p => p.out.foldl (fun s r => s.completeLost r) (s.mapPeer d fun p => { p with out := [] })

/-- Wet lines of a source that are in no prepared set are discarded (R452). -/
def State.dropWet (s : State) (src : Nat → Bool) : State :=
  let keep := fun (k : SetKey) => !src k.src || (s.hawkOf k).any fun h => h.prepared.isSome
  { s with wet := s.wet.filter (fun w => keep w.key), hawk := s.hawk.filter fun h => keep h.key }

/-- Serves at this device's dispenser every ticket that a device holds (R446). -/
def State.serveTickets (s : State) (d : Nat) : State :=
  let mine := s.incast.filter fun e => e.1 == d
  let s1 : State := { s with incast := s.incast.filter fun e => e.1 != d }
  mine.foldl (fun s _ => (s.ticketAt Config.cores ⟨Config.cores, xferKey 0, s.dispenser, .serve⟩).2) s1

/-- Declares a device unreachable (R435). -/
def State.declareUnreachable (s : State) (d : Nat) : State :=
  let s1 := (s.mapPeer d fun p => { p with unreachable := true }).log 0x04 noCtx [d]
  let s2 := s1.sets.foldl (fun s o =>
    if !o.devs.contains d then s
    else match o.stage with
      | .preparing => (s.sets.find? fun x => x.key == o.key && x.stage == .preparing).elim s fun o => (s.scrapeOp o 0x04 none)
      | .scraping => s.setAcked o.key d
      | .committing => s) s1
  let s3 := s2.sets.foldl (fun s o => if o.stage == .scraping && o.devs.contains d then s.setAcked o.key d else s) s2
  let s4 := (s3.xfers.filter fun x => x.dev == d && x.stage != .send).foldl (fun s x => s.faultKey x.pod .poison) s3
  ((((s4.loseAll d).bridgesLost d).dropWet (· == d)).serveTickets d)

/-- A request has no acknowledgement 2 ms after it was sent: it is sent again, and after eight attempts its device is unreachable (R434, R435). -/
def execRetransmitTimeout (dst : Fin 512) (seq : Half16) (s : State) : Res :=
  ok <| match s.peerBy dst.val with
  | none => s
  | some p =>
    match p.out.find? fun r => r.seq == seq with
    | none => s
    | some r =>
      if p.unreachable then (s.mapPeer dst.val fun p => { p with out := removeFirst (fun r => r.seq == seq) p.out }).completeLost r
      else if r.tries = 0 ∨ s.since r.sent < 5400000 then s
      else if 8 ≤ r.tries then s.declareUnreachable dst.val
      else
        let plane := nextPlane p.up (r.plane + 1)
        (s.mapPeer dst.val fun p =>
          { p with out := updateFirst (fun r => r.seq == seq) (fun r => { r with sent := s.cycle, tries := r.tries + 1, plane := plane }) p.out }).out
            (.request dst.val seq r.op plane)

/-- A port of a peer goes down; a peer down on every plane is unreachable (R435, R436). -/
def execPortDown (peer : Fin 512) (plane : Fin 16) (s : State) : Res :=
  ok <|
    let s1 := s.mapPeer peer.val fun p => { p with up := p.up &&& ~~~(1#16 <<< plane.val) }
    match s1.peerBy peer.val with
    | none => s1
    | some p => if p.up = 0 ∧ !p.unreachable then s1.declareUnreachable peer.val else s1

/-- A port of a peer comes up: its plane carries requests again (R431). -/
def execPortUp (peer : Fin 512) (plane : Fin 16) (s : State) : Res :=
  ok (s.mapPeer peer.val fun p => { p with up := p.up ||| (1#16 <<< plane.val) })

/-- Resets the pair with a device (R436): what was outstanding completes as R435 says. -/
def State.resetPair (s : State) (d : Nat) : State :=
  (s.loseAll d).mapPeer d fun p => { Peer.fresh d with up := p.up }

/-- An announce message (R436, R452). -/
def execAnnounce (peer : Fin 512) (s : State) : Res :=
  ok (if s.hasDev then (s.resetPair peer.val).dropWet (· == peer.val) else s)

/-- The domain command (R493): the same number resets every pair and announces; a new number is taken only while no context exists. -/
def execDomain (s : State) : Res :=
  ok <| match s.headEntry 0 with
  | none => s
  | some (_, e) =>
    let n := field e 8 2
    let go := fun (s : State) =>
      let s0 := (s.peers.filter fun p => !p.held).foldl (fun s p => s.loseAll p.dev) (s.takeEntry 0)
      let s1 := (s.peers.filter Peer.held).foldl (fun s p => (s.resetPair p.dev).out (.announce p.dev)) s0
      ({ s1 with peers := s1.peers.filter Peer.held, dev := n, hasDev := true, dispenser := field e 16 8 } : State).ringFree 0
    if 511 < n then s.stopRing 0 2
    else if s.hasDev ∧ s.dev = n then go s
    else if s.ctxs.isEmpty then go s
    else s.stopRing 0 2

/-- The set resolve command (R454, R465): the host decides a set that the device holds prepared. -/
def execSetResolve (ring : Fin 256) (s : State) : Res :=
  ok <| match s.headEntry ring.val with
  | none => s
  | some (r, e) =>
    let act := field e 9 1
    if act ≠ 1 ∧ act ≠ 2 then s.badOperand r e (field e 16 8) 9
    else
      let ks := (s.hawk.filter fun h => h.prepared.isSome && h.pub.isNone && h.key.src == field e 10 2 && h.key.group == field e 8 1
        && h.key.epoch.toNat == field e 12 2).map (·.key)
      let s1 := s.takeEntry r.n
      let s2 := ks.foldl (fun s k => if act = 1 then s.commitSet k else s.scrapeSet k) s1
      (s2.ringFree r.n).writeRecord r.ctx r.n 0x08 (field e 16 8) 0 0 (field e 3 1 == 1)

/-! ## The host link (R460) -/

/-- A host read of HBM4E: the committed value at the acting home (R302, R460). -/
def execHostRead (addr len : Nat) (s : State) : Res :=
  ok <|
    let s := s.wake
    if Config.hostBase < addr + len then s
    else match (splitLines addr (List.replicate len 0)).find? fun e => !s.homeIdle e.1 with
      | some e => s.waitAtHome e.1 (.hostRead addr len)
      | none => s.out (.hostData addr (s.homeBytes addr len))

/-- The save area of a core lies in a range that the host writes (R393). -/
def State.hitsSave (s : State) (w : Wg) (addr len : Nat) : Bool :=
  match s.ctxBy w.ctx with
  | none => false
  | some c => !w.resident && decide (addr < c.save + 1703936 * (w.core + 1)) && decide (c.save + 1703936 * w.core < addr + len)

/-- A saved workgroup whose save area the host writes is marked (R393). -/
def State.taint (s : State) (addr len : Nat) (w : Wg) : Wg := if s.hitsSave w addr len then { w with tainted := true } else w

/-- A snoop clears the clean bytes of a host line at once, in every L1 and K-cache (R460). -/
def State.snoopLine (line : Nat) (s : State) : State :=
  s.mapCores fun c => { (c.dropCleanIf fun l => l.line == line).overtake line with kcache := c.kcache.filter fun k => k.1 != line }

/-- A host write of HBM4E is a publication of its bytes (R460); a save area that it touches is spoilt (R393). A write to host memory, by the host or another of its agents, changes the bytes at the host home, and its snoops reach the device with it (R460, log entry 79). -/
def execHostWrite (addr : Nat) (bytes : List Byte) (s : State) : Res :=
  ok <|
    let mark := fun (s : State) => ({ s with wg := s.taint addr bytes.length s.wg, wgs := s.wgs.map (s.taint addr bytes.length) } : State)
    if addr + bytes.length ≤ Config.hostBase then (mark s.wake).writeHome addr bytes
    else if addr < Config.hostBase ∨ spaceBytes < addr + bytes.length then s
    else (splitLines addr bytes).foldl (fun s e => (s.commitLine e.1 e.2).snoopLine e.1) (mark s)

/-- A host snoop clears a host line's clean bytes at once (R460). -/
def execHostSnoop (line : Nat) (s : State) : Res :=
  ok (if lineHost line then s.snoopLine line else s)

/-- The host acknowledges stores of the device (R307, R460). -/
def execHostAcknowledgement (n : Nat) (s : State) : Res := ok { s with hostPending := s.hostPending - n, records := s.records.map fun r => { r with host := r.host - n } }

/-! ## WAITA (R466) -/

/-- A WAITA goes on: an arrival for its line, or 4,096 cycles. -/
def execWaitaRecheck (p : PodKey) (s : State) : Res := ok { s with turns := s.turns ++ [(p, .s)] }

/-- Ends a WAITA: a change was seen. -/
def State.waitaSeen (s : State) (d : Nat) : State := ((s.acquire .sys).writeStatus d 1).advance 4

/-- Tests the time limit, and waits on. -/
def State.waitaTime (s : State) (d b : Nat) : State :=
  if (s.readS b).toNat ≤ s.since s.pod.sTxn.start then (s.writeStatus d 0).advance 4
  else (s.setTxn .s { s.pod.sTxn with phase := 12, last := s.cycle }).holdS .cond

/-- WAITA (R466). Phases: 11 first fetch under way, 12 waiting, 13 fetch again, 14 the line is as it was, 15 it differs; last is the cycle of the last test. -/
def execWaita (d a b : Fin 64) (s : State) : Res :=
  ok <|
    let e := s.readS a.val
    s.flat 4 e 1 false fun l s =>
      let t := s.pod.sTxn
      let line := l.line
      let last := t.last
      let ask := fun (s : State) (ph : Nat) =>
        ((s.setTxn .s { t with phase := ph }).sendRequest (lineDev line) (.read (line % spaceLines)) (.waita s.pod.key)).holdS .cond
      let test := fun (k : List Byte → State → State) =>
        if !s.homeIdle line then s.holdS .cond
        else if poisoned s.poison (line * 128) 128 then s.faultPod .poison
        else k (s.homeLineData line) s
      if t.phase = 0 then
        if lineRemote line then ask s 11
        else test fun x s => (s.setTxn .s { t with phase := 12, snap := x, start := s.cycle }).waitaTime d.val b.val
      else if t.phase = 12 then
        if lineRemote line then (if 4096 ≤ s.since last then ask s 13 else s.holdS .cond)
        else test fun x s =>
          if x ≠ t.snap then s.waitaSeen d.val
          else if 4096 ≤ s.since last then s.waitaTime d.val b.val
          else s.holdS .cond
      else if t.phase = 14 then s.waitaTime d.val b.val
      else if t.phase = 15 then s.waitaSeen d.val
      else s.holdS .cond

end Sys2Proof.Machine
end

