-- ==== Sys2Proof/Machine/Order.lean ====
section
/-! DEFINITION. The ordering words: PHASE (R319), PFENCE (R320), SLD.acq and SST.rel (R318), and COAT (R384, R385). -/

namespace Sys2Proof.Machine

/-- PHASE (R319). -/
def execPhase (o : Order) (sc : Scope) (s : State) : Res :=
  ok <| s.afterLanes fun s =>
    let fin := fun (s : State) => (if acquireOrders o then s.acquire sc else s).advance 4
    if releaseOrders o then s.release .s 0 sc fin else fin s

/-- Drops every clean byte of a core's L1; no fill in flight brings one back (R320). -/
def State.dropClean (s : State) (core : Nat) : State := s.mapCore core fun c => (c.dropCleanIf fun _ => true).voidFills fun _ => true

/-- PFENCE (R320). -/
def execPfence (f t : Path) (s : State) : Res :=
  ok <| s.afterLanes fun s =>
    match f, t with
    | .generic, .tile => s.awaitPub .s 0 (fun s => s.flushLines s.core.n fun _ _ => true) (fun s => s.wroteBack s.core.n) fun s => s.advance 4
    | .tile, .generic => (s.dropClean s.core.n).advance 4
    | _, _ => s.release .s 0 .dev fun s => (s.dropK s.core.n).advance 4

/-! ## Ordering loads and stores -/

/-- Bytes of an access size code (R78). -/
def sizeOf (z : Fin 4) : Nat := 2 ^ z.val

/-- The address of a scalar memory word (R129). -/
def State.memAddr (s : State) (a : Fin 64) (z : Fin 4) (o : BitVec 11) : W64 :=
  s.readS a.val + (o.signExtend 64) * BitVec.ofNat 64 (sizeOf z)

/-- The value of a scalar load (R129). -/
def extendLoad (z : Fin 4) (sx : Bool) (bs : List Byte) : W64 :=
  if sx then match z.val with
    | 0 => (ofBytes 8 bs).signExtend 64
    | 1 => (ofBytes 16 bs).signExtend 64
    | 2 => (ofBytes 32 bs).signExtend 64
    | _ => ofBytes 64 bs
  else ofBytes 64 bs

/-- SLD.acq (R318). -/
def execSldAcq (d a : Fin 64) (z : Fin 4) (sx : Bool) (o : BitVec 11) (sc : Scope) (s : State) : Res :=
  ok <| s.flat 8 (s.memAddr a z o) (sizeOf z) false fun l s =>
    s.loadS l (sizeOf z) fun bs s => ((s.acquire sc).writeS d.val (extendLoad z sx bs)).advance 8

/-- SST.rel (R318): the release, the store, and at dev or sys the publication of the store's own bytes. -/
def execSstRel (d a : Fin 64) (z : Fin 4) (o : BitVec 11) (sc : Scope) (s : State) : Res :=
  ok <| s.flat 8 (s.memAddr a z o) (sizeOf z) true fun l s =>
    let bs := toBytes (s.readS d.val) (sizeOf z)
    let wide := sc == .dev || sc == .sys
    let more := fun (s : State) => !(sc == .sys) || s.farAcked s.core.n
    let store := fun (s : State) => match s.storeGen s.core.n s.curJob l bs with
      | none => s.holdS .plain
      | some s =>
        if wide && l.tracked then s.awaitPub .s 2 (fun s => s.publish s.core.n [(l.line, lineSpan l.key bs)]) more fun s => s.advance 8
        else s.advance 8
    s.release .s 0 sc fun s =>
      if 3 ≤ s.pod.sTxn.phase then s.awaitPub .s 2 (fun s => (none, s)) more fun s => s.advance 8 else store s

/-! ## COAT -/

/-- COAT (R384, R385). -/
def execCoat (a : Fin 64) (n : BitVec 9) (b : BitVec 8) (km : BitVec 15) (s : State) : Res :=
  ok <|
    if s.wg.grant.regs < b.toNat + n.toNat ∨ s.pod.inHandler then s.illegalS 8
    else s.afterLanes fun s =>
      let s1 := s.closeCoat
      let c : Coat :=
        { entry := s.pod.pc + 8, liveS := s.readS a.val &&& ~~~1#64, vB := b.toNat, vN := n.toNat, km := (km.setWidth 16) <<< 1, allO := false,
          fsr := s.pod.fsr, ten := s.pod.ten, brnd := s.pod.brnd, drnd := s.pod.drnd }
      ({ s1 with pod := { s1.pod with coat := some c, count := 0 } } : State).advance 8

end Sys2Proof.Machine
end

