-- ==== Sys2Proof/Machine/Scalar.lean ====
section
/-! DEFINITION. Scalar arithmetic, logic, shifts, bit fields, compares, immediates (R115 to R122), branches (R123, R124), lane blocks (R126, R127), mask registers (R128) and scalar memory (R129 to R132). -/

namespace Sys2Proof.Machine

/-- Writes a result and goes on behind a word of 4 bytes. -/
def State.put (s : State) (d : Fin 64) (x : W64) : State := (s.writeS d.val x).advance 4

/-- A word of two source registers (R115). -/
def State.alu (s : State) (d a b : Fin 64) (f : W64 → W64 → W64) : State := s.put d (f (s.readS a.val) (s.readS b.val))

/-- A word of one source register (R115). -/
def State.alu1 (s : State) (d a : Fin 64) (f : W64 → W64) : State := s.put d (f (s.readS a.val))

/-! ## Arithmetic and logic (R115, R116) -/

def execSadd (d a b : Fin 64) (s : State) : Res := ok (s.alu d a b (· + ·))
def execSsub (d a b : Fin 64) (s : State) : Res := ok (s.alu d a b (· - ·))
def execSmul (d a b : Fin 64) (s : State) : Res := ok (s.alu d a b (· * ·))

/-- Bits [127:64] of the signed product. -/
def mulHigh (x y : W64) : W64 := BitVec.ofInt 64 (x.toInt * y.toInt / 2 ^ 64)
/-- Bits [127:64] of the unsigned product. -/
def mulHighN (x y : W64) : W64 := BitVec.ofNat 64 (x.toNat * y.toNat / 2 ^ 64)
def execSmulh (d a b : Fin 64) (s : State) : Res := ok (s.alu d a b mulHigh)
def execSmulhN (d a b : Fin 64) (s : State) : Res := ok (s.alu d a b mulHighN)

/-- A division word: INT_DIV0 for b = 0 (R116). -/
def State.divide (s : State) (d a b : Fin 64) (f : W64 → W64 → W64) : State :=
  if s.readS b.val = 0 then s.trapS 4 .intDiv0 0 else s.alu d a b f

def execSdiv (d a b : Fin 64) (s : State) : Res := ok (s.divide d a b fun x y => BitVec.ofInt 64 (x.toInt.tdiv y.toInt))
def execSdivN (d a b : Fin 64) (s : State) : Res := ok (s.divide d a b fun x y => BitVec.ofNat 64 (x.toNat / y.toNat))
def execSrem (d a b : Fin 64) (s : State) : Res := ok (s.divide d a b fun x y => BitVec.ofInt 64 (x.toInt.tmod y.toInt))
def execSremN (d a b : Fin 64) (s : State) : Res := ok (s.divide d a b fun x y => BitVec.ofNat 64 (x.toNat % y.toNat))

def execSmin (d a b : Fin 64) (s : State) : Res := ok (s.alu d a b fun x y => if x.toInt ≤ y.toInt then x else y)
def execSminN (d a b : Fin 64) (s : State) : Res := ok (s.alu d a b fun x y => if x.toNat ≤ y.toNat then x else y)
def execSmax (d a b : Fin 64) (s : State) : Res := ok (s.alu d a b fun x y => if x.toInt ≤ y.toInt then y else x)
def execSmaxN (d a b : Fin 64) (s : State) : Res := ok (s.alu d a b fun x y => if x.toNat ≤ y.toNat then y else x)

def execSand (d a b : Fin 64) (s : State) : Res := ok (s.alu d a b (· &&& ·))
def execSor (d a b : Fin 64) (s : State) : Res := ok (s.alu d a b (· ||| ·))
def execSxor (d a b : Fin 64) (s : State) : Res := ok (s.alu d a b (· ^^^ ·))

/-- Shifts by an amount that may reach or pass the width (R118, R152). -/
def shl {w : Nat} (x : BitVec w) (n : Nat) : BitVec w := if w ≤ n then 0 else x <<< n
def shr {w : Nat} (x : BitVec w) (n : Nat) : BitVec w := if w ≤ n then 0 else x >>> n
def sra {w : Nat} (x : BitVec w) (n : Nat) : BitVec w := x.sshiftRight (min n w)
def rot {w : Nat} (x : BitVec w) (n : Nat) : BitVec w := x.rotateLeft (n % w)

def execSshl (d a b : Fin 64) (s : State) : Res := ok (s.alu d a b fun x y => shl x y.toNat)
def execSshr (d a b : Fin 64) (s : State) : Res := ok (s.alu d a b fun x y => shr x y.toNat)
def execSsra (d a b : Fin 64) (s : State) : Res := ok (s.alu d a b fun x y => sra x y.toNat)
def execSrot (d a b : Fin 64) (s : State) : Res := ok (s.alu d a b fun x y => rot x y.toNat)

/-- Leading zero bits. -/
def clz {w : Nat} (x : BitVec w) : Nat := ((List.range w).find? fun i => x.getLsbD (w - 1 - i)).getD w
/-- One bits. -/
def popc {w : Nat} (x : BitVec w) : Nat := ((List.range w).filter fun i => x.getLsbD i).length

def execSclz (d a : Fin 64) (s : State) : Res := ok (s.alu1 d a fun x => BitVec.ofNat 64 (clz x))
def execSpopc (d a : Fin 64) (s : State) : Res := ok (s.alu1 d a fun x => BitVec.ofNat 64 (popc x))
def execSextI8 (d a : Fin 64) (s : State) : Res := ok (s.alu1 d a fun x => (x.setWidth 8).signExtend 64)
def execSextI16 (d a : Fin 64) (s : State) : Res := ok (s.alu1 d a fun x => (x.setWidth 16).signExtend 64)
def execSextI32 (d a : Fin 64) (s : State) : Res := ok (s.alu1 d a fun x => (x.setWidth 32).signExtend 64)
def execSlea (d a b : Fin 64) (sh : Fin 4) (s : State) : Res := ok (s.alu d a b fun x y => x + (y <<< sh.val))

/-! ## Compare and select (R121, R122) -/

/-- 1 when a condition holds, 0 otherwise. -/
def flag (b : Bool) : W64 := if b then 1 else 0

def execScmpEq (d a b : Fin 64) (s : State) : Res := ok (s.alu d a b fun x y => flag (x == y))
def execScmpNe (d a b : Fin 64) (s : State) : Res := ok (s.alu d a b fun x y => flag (x != y))
def execScmpLt (d a b : Fin 64) (s : State) : Res := ok (s.alu d a b fun x y => flag (decide (x.toInt < y.toInt)))
def execScmpLe (d a b : Fin 64) (s : State) : Res := ok (s.alu d a b fun x y => flag (decide (x.toInt ≤ y.toInt)))
def execScmpGt (d a b : Fin 64) (s : State) : Res := ok (s.alu d a b fun x y => flag (decide (y.toInt < x.toInt)))
def execScmpGe (d a b : Fin 64) (s : State) : Res := ok (s.alu d a b fun x y => flag (decide (y.toInt ≤ x.toInt)))
def execScmpLtN (d a b : Fin 64) (s : State) : Res := ok (s.alu d a b fun x y => flag (decide (x.toNat < y.toNat)))
def execScmpLeN (d a b : Fin 64) (s : State) : Res := ok (s.alu d a b fun x y => flag (decide (x.toNat ≤ y.toNat)))
def execScmpGtN (d a b : Fin 64) (s : State) : Res := ok (s.alu d a b fun x y => flag (decide (y.toNat < x.toNat)))
def execScmpGeN (d a b : Fin 64) (s : State) : Res := ok (s.alu d a b fun x y => flag (decide (y.toNat ≤ x.toNat)))
def execSsel (d a b : Fin 64) (s : State) : Res := ok (s.alu d a b fun x y => if s.readS d.val ≠ 0 then x else y)

/-! ## Immediate forms (R117 to R120) -/

def execSaddImm (d a : Fin 64) (i : BitVec 14) (s : State) : Res := ok (s.alu1 d a (· + i.signExtend 64))
def execSandImm (d a : Fin 64) (i : BitVec 14) (s : State) : Res := ok (s.alu1 d a (· &&& i.signExtend 64))
def execSorImm (d a : Fin 64) (i : BitVec 14) (s : State) : Res := ok (s.alu1 d a (· ||| i.signExtend 64))
def execSxorImm (d a : Fin 64) (i : BitVec 14) (s : State) : Res := ok (s.alu1 d a (· ^^^ i.signExtend 64))
def execSshlImm (d a n : Fin 64) (s : State) : Res := ok (s.alu1 d a (shl · n.val))
def execSshrImm (d a n : Fin 64) (s : State) : Res := ok (s.alu1 d a (shr · n.val))
def execSsraImm (d a n : Fin 64) (s : State) : Res := ok (s.alu1 d a (sra · n.val))
def execSrotImm (d a n : Fin 64) (s : State) : Res := ok (s.alu1 d a (rot · n.val))

/-- The w lowest bits of a word (w at least 1). -/
def lowMask (w : Nat) : W64 := BitVec.ofNat 64 (2 ^ w - 1)

/-- SBFX (R119): w holds the width minus 1. -/
def execSbfx (d a : Fin 64) (sx : Bool) (p w : Fin 64) (s : State) : Res :=
  ok (s.alu1 d a fun x =>
    let n := w.val + 1
    let f := (x >>> p.val) &&& lowMask n
    if sx then (f <<< (64 - n)).sshiftRight (64 - n) else f)

/-- SBFI (R119). -/
def execSbfi (d a p w : Fin 64) (s : State) : Res :=
  ok (s.alu1 d a fun x =>
    let m := lowMask (w.val + 1) <<< p.val
    (s.readS d.val &&& ~~~m) ||| ((x <<< p.val) &&& m))

def execSli (d : Fin 64) (i : BitVec 14) (s : State) : Res := ok (s.put d (i.signExtend 64))
def execSli32 (d : Fin 64) (x : W32) (s : State) : Res := ok ((s.writeS d.val (x.signExtend 64)).advance 8)
def execSlui (d : Fin 64) (x : W32) (s : State) : Res := ok ((s.writeS d.val (x ++ (s.readS d.val).setWidth 32)).advance 8)

/-! ## Branches (R123, R124) -/

/-- A taken branch to t: its checks come first; k runs before the jump. -/
def State.branch (s : State) (t : W64) (k : State → State) : State :=
  if 2 ^ 54 ≤ t.toNat then s.trapS 4 .xlateAbsent t
  else if t.toNat % 4 ≠ 0 then s.trapS 4 .misalign t
  else (k s).jump t

/-- A PC-relative target (R75). -/
def State.target (s : State) (o : W64) : W64 := s.pod.pc + o * 4

def State.branchIf (s : State) (c : Bool) (o : BitVec 20) : State := if c then s.branch (s.target (o.signExtend 64)) id else s.advance 4

def execBr (o : BitVec 26) (s : State) : Res := ok (s.branch (s.target (o.signExtend 64)) id)
def execCall (o : BitVec 26) (s : State) : Res := ok (s.branch (s.target (o.signExtend 64)) fun s => s.writeS 63 (s.pod.pc + 4))
def execBz (c : Fin 64) (o : BitVec 20) (s : State) : Res := ok (s.branchIf (s.readS c.val == 0) o)
def execBnz (c : Fin 64) (o : BitVec 20) (s : State) : Res := ok (s.branchIf (s.readS c.val != 0) o)
def execBany (k : Fin 16) (o : BitVec 20) (s : State) : Res := ok (s.branchIf (s.readK k.val &&& s.readK 0 != 0) o)
def execBall (k : Fin 16) (o : BitVec 20) (s : State) : Res := ok (s.branchIf (s.readK k.val &&& s.readK 0 == s.readK 0) o)
def execBnone (k : Fin 16) (o : BitVec 20) (s : State) : Res := ok (s.branchIf (s.readK k.val &&& s.readK 0 == 0) o)
def execBrx (a b : Fin 64) (s : State) : Res := ok (s.branch (s.readS a.val + s.readS b.val * 4) id)
def execRet (a : Fin 64) (s : State) : Res := ok (s.branch (s.readS a.val) id)

/-! ## Lane blocks (R21, R23, R126, R127) -/

/-- LGO: the block joins the queue, which holds four, with s32 to s47 bound as q0 to q15. -/
def execLgo (i : BitVec 26) (s : State) : Res :=
  ok <|
    if 4 ≤ s.pod.queue.length then s.holdS .plain
    else
      let b : Block := { word := i.toNat, q := (List.range 16).map fun n => (s.readS (32 + n)).setWidth 32, rep := 0, act := 0, hRun := 0 }
      ({ s with pod := { s.pod with queue := s.pod.queue ++ [b] } } : State).advance 4

def execLwait (s : State) : Res := ok (s.afterLanes fun s => s.advance 4)

/-! ## Mask registers (R128) -/

/-- A result for a mask register. -/
def State.putK (s : State) (d : Fin 16) (x : W32) : State := (s.writeK d.val x).advance 4

def execKmovKK (d a : Fin 16) (s : State) : Res := ok (s.putK d (s.readK a.val))
def execKmovKS (d : Fin 16) (a : Fin 64) (s : State) : Res := ok (s.putK d ((s.readS a.val).setWidth 32))
def execKmovSK (d : Fin 64) (a : Fin 16) (s : State) : Res := ok (s.put d ((s.readK a.val).setWidth 64))
def execKand (d a b : Fin 16) (s : State) : Res := ok (s.putK d (s.readK a.val &&& s.readK b.val))
def execKor (d a b : Fin 16) (s : State) : Res := ok (s.putK d (s.readK a.val ||| s.readK b.val))
def execKxor (d a b : Fin 16) (s : State) : Res := ok (s.putK d (s.readK a.val ^^^ s.readK b.val))
def execKnot (d a : Fin 16) (s : State) : Res := ok (s.putK d (~~~ s.readK a.val))
def execKpop (d : Fin 64) (a : Fin 16) (s : State) : Res := ok (s.put d (BitVec.ofNat 64 (popc (s.readK a.val &&& s.readK 0))))
def execKfirst (d : Fin 64) (a : Fin 16) (s : State) : Res :=
  ok (s.put d (BitVec.ofNat 64 ((lanes.find? fun j => (s.readK a.val &&& s.readK 0).getLsbD j).getD 32)))

/-! ## Scalar memory (R129 to R132) -/

def execSld (d a : Fin 64) (z : Fin 4) (sx : Bool) (o : BitVec 11) (s : State) : Res :=
  ok <| s.flat 4 (s.memAddr a z o) (sizeOf z) false fun l s => s.loadS l (sizeOf z) fun bs s => s.put d (extendLoad z sx bs)

def execSst (d a : Fin 64) (z : Fin 4) (o : BitVec 11) (s : State) : Res :=
  ok <| s.flat 4 (s.memAddr a z o) (sizeOf z) true fun l s =>
    match s.storeGen s.core.n s.curJob l (toBytes (s.readS d.val) (sizeOf z)) with
    | none => s.holdS .plain
    | some s => s.advance 4

/-- A load of the constant path: from the K-cache, which fills with published bytes (R278, R302, R438). -/
def State.loadK (s0 : State) (core : Nat) (l : Loc) (n : Nat) : Ld :=
  let s := s0.touchHome l
  let line := l.line
  let off := l.key % 128
  let from' := fun (d : List Byte) => (List.range n).map fun i => d.getD (off + i) 0
  match alookup line (s.coreBy core).kcache with
  | some d => if imagePoison d off n then .poison s else .ok s (from' d)
  | none =>
    let keep := fun (s : State) (d : List Byte) => s.mapCore core fun c => { c with kcache := ((line, d) :: c.kcache).take Config.kcacheLines }
    if lineRemote line then
      let asked := (s.peerBy (lineDev line)).any fun p => p.out.any fun r => r.who == .kfill core line
      .wait (if asked then s else s.sendRequest (lineDev line) (.read (line % spaceLines)) (.kfill core line))
    else if !s.homeIdle line then .wait s
    else
      let d := s.lineImage line
      if imagePoison d off n then .poison s else .ok (keep s d) (from' d)

def execSldk (d a : Fin 64) (z : Fin 4) (sx : Bool) (o : BitVec 11) (s : State) : Res :=
  ok <| s.flat 4 (s.memAddr a z o) (sizeOf z) false fun l s =>
    match s.loadK s.core.n l (sizeOf z) with
    | .ok s bs => s.put d (extendLoad z sx bs)
    | .wait s => s.holdS .plain
    | .poison s => s.faultPod .poison

def execSlds (d a : Fin 64) (z : Fin 4) (sx : Bool) (o : BitVec 11) (s : State) : Res :=
  ok <|
    let e := s.memAddr a z o
    s.scratchAt 4 e (sizeOf z) fun s => s.loadScratch e.toNat (sizeOf z) fun bs s => s.put d (extendLoad z sx bs)

def execSsts (d a : Fin 64) (z : Fin 4) (o : BitVec 11) (s : State) : Res :=
  ok <|
    let e := s.memAddr a z o
    s.scratchAt 4 e (sizeOf z) fun s => (s.storeScratch e.toNat (toBytes (s.readS d.val) (sizeOf z))).advance 4

end Sys2Proof.Machine
end

