-- ==== Sys2Proof/Machine/System.lean ====
section
/-! DEFINITION. Special values (R13, R14, R133, R134), TRAP and BRK (R135), NOP and EXIT (R136, R19), LAYDEF and LAYQ (R137 to R141). -/

namespace Sys2Proof.Machine

/-! ## Special values -/

/-- Trap registers of the pod (R13). -/
def Special.isTrap : Special → Bool
  | .tcause | .tspc | .tlpc | .tmask | .taddr => true
  | _ => false

/-- A special value, zero-extended (R13). -/
def State.special (s : State) (n : Special) : W64 :=
  let l := s.curLaunch
  let dim := fun (f : Launch → Nat) => BitVec.ofNat 64 ((l.map f).getD 0)
  match n with
  | .wgX => s.wg.x.setWidth 64
  | .wgY => s.wg.y.setWidth 64
  | .wgZ => s.wg.z.setWidth 64
  | .wgdimX => dim (·.gx)
  | .wgdimY => dim (·.gy)
  | .wgdimZ => dim (·.gz)
  | .pod => BitVec.ofNat 64 s.pod.key.pod
  | .pods => BitVec.ofNat 64 s.wg.grant.pods
  | .core => BitVec.ofNat 64 s.core.n
  | .die => BitVec.ofNat 64 (dieOf s.core.n)
  | .dev => BitVec.ofNat 64 s.dev
  | .launch => BitVec.ofNat 64 (s.wg.launch % 2 ^ 32)
  | .cycle => s.cycle
  | .fsr => s.pod.fsr.setWidth 64
  | .ten => s.pod.ten.setWidth 64
  | .brnd => s.pod.brnd.setWidth 64
  | .drnd => s.pod.drnd.setWidth 64
  | .tcause => s.pod.tcause.setWidth 64
  | .tspc => s.pod.tspc
  | .tlpc => s.pod.tlpc
  | .tmask => s.pod.tmask.setWidth 64
  | .taddr => s.pod.taddr

/-- A matrix step of the pod has not given its flags yet (R61, R200). -/
def State.flagsOpen (s : State) : Bool := s.core.steps.any fun m => m.pod == some s.pod.key

/-- SRD (R133): fsr waits for the steps that can still set a flag. -/
def execSrd (d : Fin 64) (n : Special) (s : State) : Res :=
  ok (if n == .fsr && s.flagsOpen then s.holdS .plain else s.put d (s.special n))

/-- SWR (R14, R133). -/
def execSwr (a : Fin 64) (n : Special) (s : State) : Res :=
  ok <|
    let x := s.readS a.val
    let set := fun (p : Pod) => ({ s with pod := p } : State).advance 4
    let trapReg := fun (p : Pod) => if s.pod.inHandler then set p else s.trapS 4 .priv 0
    match n with
    | .fsr => if s.flagsOpen then s.holdS .plain else set { s.pod with fsr := x.setWidth 10 }
    | .ten => set { s.pod with ten := x.setWidth 10 }
    | .brnd => if 4 < x.toNat % 8 then s.illegalS 4 else set { s.pod with brnd := x.setWidth 3 }
    | .drnd => if 6 < x.toNat % 8 then s.illegalS 4 else set { s.pod with drnd := x.setWidth 3 }
    | .tcause => trapReg { s.pod with tcause := x.setWidth 8 }
    | .tspc => trapReg { s.pod with tspc := x }
    | .tlpc => trapReg { s.pod with tlpc := x }
    | .tmask => trapReg { s.pod with tmask := x.setWidth 32 }
    | .taddr => trapReg { s.pod with taddr := x }
    | .wgX | .wgY | .wgZ | .wgdimX | .wgdimY | .wgdimZ | .pod | .pods | .core | .die | .dev | .launch | .cycle => s.trapS 4 .priv 0

/-- STEN (R134). -/
def execSten (a b : Fin 64) (s : State) : Res :=
  ok <|
    let m : BitVec 10 := (s.readS b.val).setWidth 10
    let x : BitVec 10 := (s.readS a.val).setWidth 10
    ({ s with pod := { s.pod with ten := (s.pod.ten &&& ~~~m) ||| (x &&& m) } } : State).advance 4

/-! ## TRAP, BRK, NOP and EXIT -/

def execTrap (c : BitVec 8) (s : State) : Res := ok (s.trapS 4 .trap (c.setWidth 64))

/-- BRK (R135): in halt-debug the pod halts at the word and is reported to the debugger (R488). -/
def execBrk (c : BitVec 8) (s : State) : Res :=
  ok <|
    if s.skepin.dbg = .halt then
      s.afterLanes fun s => ({ s with pod := { s.pod with halted := true } } : State).out (.debug s.pod.key (c.setWidth 64))
    else s.trapS 4 .brk (c.setWidth 64)

def execNop (s : State) : Res := ok (s.advance 4)

/-- The pod in focus ends; the last of its workgroup ends the workgroup (R19, R219, R248, R360, R391). -/
def State.exitPod (s : State) : State :=
  let k := s.pod.key
  let s1 := s.closeCoat
  let s2 : State := { s1 with pod := { s1.pod with exited := true, inHandler := false, held := .none, sTxn := Txn.empty } }
  if (s2.livePods k.wg).isEmpty then s2.endWg k.wg else (s2.syncMaybe k.wg).formJobs k.wg 2

/-- Words of a collective wait for none but this pod's: its EXIT completes their job (R360). -/
def State.leavesWords (s : State) : Bool :=
  let ps := (s.podsByIndex s.wg).filterMap id
  ps.all (fun p => p.key == s.pod.key || p.leaves || !p.tcopies.isEmpty) && ps.any fun p => !p.tcopies.isEmpty

/-- EXIT (R19, R136, R300): the last pod of a workgroup waits for the workgroup's steps and engine jobs, those among them that its EXIT completes (phase 20), and publishes the core's stores. -/
def execExit (s : State) : Res :=
  ok <| s.afterLanes fun s =>
    if !s.pod.leaves && s.leavesWords && decide (Config.engineQueue ≤ s.core.jobs.length) then s.holdS .plain
    else if (s.livePods s.wg.id).length ≤ 1 then
      if !s.pod.leaves && s.leavesWords then ((s.setTxn .s { s.pod.sTxn with phase := 20 }).formJobs s.wg.id 2).holdS .plain
      else if s.core.jobs.any (fun j => j.wg == s.wg.id) || s.core.steps.any (fun m => m.wg == s.wg.id) then s.holdS .plain
      else s.release .s 20 .dev State.exitPod
    else s.exitPod

/-! ## Layout entries -/

/-- The fields of a layout record (R137). -/
def parseLay (b : List Byte) : LayEntry :=
  { base := ofBytes 64 (b.take 8), ctl := ofBytes 64 ((b.drop 8).take 8)
    ext := (List.range 5).map fun i => ofBytes 32 ((b.drop (16 + 4 * i)).take 4)
    stride := (List.range 4).map fun i => ofBytes 32 ((b.drop (36 + 4 * i)).take 4)
    scale := ofBytes 64 ((b.drop 52).take 8) }

/-- The record of an entry (R137). -/
def LayEntry.bytes (e : LayEntry) : List Byte :=
  toBytes e.base 8 ++ toBytes e.ctl 8 ++ e.ext.flatMap (fun x => toBytes x 4) ++ e.stride.flatMap (fun x => toBytes x 4)
  ++ toBytes e.scale 8 ++ [0, 0, 0, 0]

/-- The highest byte that an entry reaches (R139, reason 0x16). -/
def LayEntry.highest (e : LayEntry) : Nat :=
  e.base.toNat + ((List.range 4).map fun d => if d + 1 < e.rank then (e.extent (d + 1) - 1) * e.strideOf (d + 1) else 0).sum
    + e.extent 0 * e.fmt.bits / 8 - 1

/-- The checks of R139 in order; the status of the first that fails. -/
def layCheck (window : Nat) (b : List Byte) : Option W32 :=
  let e := parseLay b
  let r := e.rank
  let first := fun (code why lo hi : Nat) (bad : Nat → Bool) => ((List.range hi).find? fun d => decide (lo ≤ d) && bad d).map fun d => status code why 0 d
  let flat := fun (code why : Nat) (bad : Bool) => if bad then some (status code why 0 0) else none
  let stride := fun (d : Nat) => if d = 0 then 0 else e.strideOf d
  [ flat errAlign 0x01 ((e.space == 0 && decide (e.base.toNat % 128 ≠ 0)) || (e.space == 1 && decide (e.base.toNat % 16 ≠ 0))),
    first errAlign 0x02 1 (min r 5) (fun d => decide (e.strideOf d % 16 ≠ 0)),
    flat errAlign 0x03 (decide (e.scale.toNat % 16 ≠ 0)),
    flat errBounds 0x10 ((b.drop 60).any (· != 0) || decide (e.bits 58 6 ≠ 0) || e.space == 3 || (Fmt.ofCode e.fmtCode).isNone
      || (decide (e.perm ≠ 0) && e.space != 1)),
    flat errBounds 0x11 (decide (r = 0) || decide (5 < r)),
    first errBounds 0x12 0 5 (fun d =>
      if d < r then decide (e.extent d = 0) else decide (e.extent d ≠ 0) || decide (stride d ≠ 0) || decide (e.box d ≠ 1)),
    first errBounds 0x13 0 r (fun d => decide (e.extent d < e.box d)),
    flat errBounds 0x14 (decide (e.box 0 * e.fmt.bits % 128 ≠ 0)),
    flat errBounds 0x15 (if e.fmt.scaled then decide (e.scale.toNat = 0) || decide (e.extent 0 % 32 ≠ 0) || decide (e.box 0 % 32 ≠ 0)
      else decide (e.scale.toNat ≠ 0)),
    flat errBounds 0x16 ((e.space == 0 && decide (2 ^ 54 ≤ e.highest)) || (e.space == 1 && decide (window ≤ e.highest))),
    flat errBounds 0x17 (e.space == 2 && (decide (15 < e.base.toNat) || e.stride.any (· != 0))) ].findSome? id

/-- The checked access of LAYDEF and LAYQ: 64 bytes at s_a (R138). -/
def State.record (s : State) (a : Nat) (sp store : Bool) (mem : Loc → State → State) (scr : Nat → State → State) : State :=
  let e := s.readS a
  if e.toNat % 64 ≠ 0 then s.trapS 4 .misalign e
  else if sp then s.scratchAt 4 e 64 (scr e.toNat)
  else s.flat 4 e 64 store mem

/-- LAYDEF (R138, R139). -/
def execLaydef (d a n : Fin 64) (sp : Bool) (s : State) : Res :=
  ok <|
    if s.wg.grant.lays ≤ n.val then s.illegalS 4
    else
      let fin := fun (b : List Byte) (s : State) =>
        match layCheck s.wg.grant.scratch b with
        | some st => (({ s with wg := { s.wg with lay := aerase n.val s.wg.lay } } : State).writeStatus d.val st).advance 4
        | none => (({ s with wg := { s.wg with lay := ainsert n.val (parseLay b) s.wg.lay } } : State).writeStatus d.val 0).advance 4
      s.record a.val sp false (fun l s => s.loadS l 64 fin) fun o s => s.loadScratch o 64 fin

/-- LAYQ (R141). -/
def execLayq (d a n : Fin 64) (sp : Bool) (s : State) : Res :=
  ok <|
    if s.wg.grant.lays ≤ n.val then s.illegalS 4
    else
      let b := match s.wg.entry n.val with
        | some e => e.bytes
        | none => List.replicate 64 0
      let fin := fun (s : State) => (s.writeStatus d.val (if (s.wg.entry n.val).isSome then 1 else 0)).advance 4
      s.record a.val sp true (fun l s => match s.storeGen s.core.n s.curJob l b with
        | none => s.holdS .plain
        | some s => fin s) fun o s => fin (s.storeScratch o b)

end Sys2Proof.Machine
end

