-- ==== Sys2Proof/Machine/Matrix.lean ====
section
/-! DEFINITION. Matrix steps (R193 to R201), the journal (R391), ALG (R203 to R205), moves of tiles and accumulators (R206 to R216), and the reset of the matrix array (R399). -/

namespace Sys2Proof.Machine

/-! ## The journal -/

/-- An instruction that writes n accumulators from lo on: under an open coat it journals those that no entry holds yet (R391). It waits for steps whose results a preimage needs. -/
def State.journaled (s : State) (len lo n : Nat) (k : State → State) : State :=
  match s.pod.coat with
  | none => k s
  | some _ =>
    let need := ((List.range n).map (lo + ·)).filter fun a => s.wg.journal.all fun e => e.acc != a
    let room := min 16 s.wg.grant.accs - s.wg.journal.length
    match need[room]? with
    | some a => s.trapS len .coatAcc (BitVec.ofNat 64 a)
    | none =>
      if need.any fun a => s.accBusy a 1 then s.holdS .plain
      else
        let entry := fun (a : Nat) => JEntry.mk a ((List.range 256).map (s.wg.cell a)) s.pod.key.pod (s.wg.accMarks a)
        k { s with wg := { s.wg with journal := s.wg.journal ++ need.map entry } }

/-! ## Matrix steps -/

/-- The grants of a step hold (R196). -/
def stepGranted (g : Grants) (k : MKind) (f : MmaFields) : Bool :=
  tileGranted g f.fmtA f.tileA.val && tileGranted g f.fmtB f.tileB.val && decide (f.acc.val + stepDim k f ≤ g.accs)
  && (!(k == .mmag) || decide (f.slot.val < g.algs))

/-- The latch after a step is accepted (R199). -/
def latchAfter (w : Nat) (f : MmaFields) : Option KaLatch :=
  if f.ka then some { wg := w, tile := f.tileA.val, view := f.ta, fmt := f.fmtA } else none

/-- Puts a step behind those that the array of the core in focus holds (R200). -/
def State.accept (s : State) (k : MKind) (f : MmaFields) (x : W64) : State :=
  let m : MStep :=
    { wg := s.wg.id, pod := some s.pod.key, job := none, kind := k, f := f, dims := x
      tiles := s.wg.tilesOf (stepTiles f.fmtA f.tileA.val ++ stepTiles f.fmtB f.tileB.val)
      alg := (alookup f.slot.val s.wg.alg).getD AlgTable.real }
  let c := { s.core with steps := s.core.steps ++ [m], ka := latchAfter s.wg.id f, stepSince := if s.core.steps.isEmpty then s.cycle else s.core.stepSince }
  ({ s with core := c } : State).send (.matrixStepComplete s.core.n)

/-- The issue of a step (R194, R196, R391, R404). -/
def State.step3 (s : State) (k : MKind) (f : MmaFields) : State :=
  let x := s.readS f.a.val
  if !stepGranted s.wg.grant k f then s.illegalS 8
  else if !extOk (stepKmax k f) x then (s.writeStatus f.d.val (status errBounds 0x20 0 0)).advance 8
  else s.journaled 8 f.acc.val (stepDim k f) fun s =>
    if s.wg.stepPoisoned k f x then s.faultPod .poison
    else ((s.accept k f x).writeStatus f.d.val 0).advance 8

def execMma (f : MmaFields) (s : State) : Res := ok (s.step3 .mma f)
def execMmaw (f : MmaFields) (s : State) : Res := ok (s.step3 .mmaw f)
def execMmag (f : MmaFields) (s : State) : Res := ok (s.step3 .mmag f)

/-- The results of the oldest step of a core stand (R195, R200, R201); one that adds to marked cells of an accumulator tile faults its job (R192, R404). A follow-on step lets its job go on (R362, R366); its flags reach the issuing pods (R61). -/
def execMatrixStepComplete (core : Nat) (s : State) : Res :=
  ok <| match (s.coreBy core).steps with
  | [] => s
  | m :: rest =>
    if (s.wgBy m.wg).any fun w => w.accBad m then
      let s1 := s.mapCore core fun c => { c with steps := rest, stepSince := s.cycle }
      match (s.wgBy m.wg).bind fun w => s.launchBy w.launch with
      | some l => s1.faultJob l.job .poison
      | none => s1
    else
    let r := m.apply (((s.wgBy m.wg).map (·.acc)).getD [])
    let flags : BitVec 10 := r.2.setWidth 10
    let s1 := (s.mapCore core fun c => { c with steps := rest, stepSince := s.cycle }).mapWg m.wg (·.putAcc r.1)
    let raiseOn := fun (s : State) (p : PodKey) => s.mapPod p fun p => { p with fsr := p.fsr ||| flags }
    match m.pod, m.job with
    | some p, _ => raiseOn s1 p
    | none, some j =>
      let ps := ((s1.jobOf core j).map fun j => j.regs.map (·.1)).getD []
      (ps.foldl raiseOn s1).jobNext core j
    | none, none => s1

/-- The reset of a matrix array that completes no step for 2^20 cycles (R399). -/
def execMatrixReset (core : Nat) (s : State) : Res :=
  ok <|
    if (s.coreBy core).steps.isEmpty ∨ s.since (s.coreBy core).stepSince < 2 ^ 20 then s
    else
      let lost := s.allWgs.filter fun w => w.resident && w.core == core && (decide (0 < w.grant.tiles) || decide (0 < w.grant.accs))
      let s1 := lost.foldl (fun s w => s.mapWg w.id fun w => { w with tile := [], acc := [], tilePoison := [], accPoison := [] }) s
      let s2 := (s1.mapCore core fun c => { c with steps := [], ka := none }).log 0x07 noCtx [core]
      (dedup (lost.filterMap fun w => (s.launchBy w.launch).map (·.job))).foldl (fun s j => s.faultJob j .matrixReset) s2

/-! ## ALG -/

/-- The table of a record (R202). -/
def parseAlg (b : List Byte) : AlgTable :=
  { dim := (b.getD 0 0).toNat, conj := b.getD 1 0, tab := NMap.ofList (b.drop 8) }

/-- The checks of R204 in order; the status of the first that fails. -/
def algCheck (b : List Byte) : Option W32 :=
  let dim := (b.getD 0 0).toNat
  let entry := fun (i : Nat) => (b.getD (8 + i) 0).toNat
  let outside := fun (i : Nat) => decide (dim ≤ i / 8) || decide (dim ≤ i % 8)
  let bad := fun (i : Nat) =>
    let e := entry i
    e / 8 % 4 == 2 || decide (32 ≤ e) || decide (dim ≤ e % 8) || (e / 8 % 4 == 0 && decide (e % 8 ≠ 0))
  let first := fun (why n : Nat) (p : Nat → Bool) => ((List.range n).find? p).map fun i => status errBounds why 0 i
  [ if [1, 2, 4, 8].contains dim && ((b.drop 2).take 6).all (· == 0) then none else some (status errBounds 0x30 0 0),
    first 0x31 8 (fun c => decide (dim ≤ c) && (b.getD 1 0).getLsbD c),
    first 0x32 64 (fun i => outside i && decide (entry i ≠ 0)),
    first 0x33 64 bad ].findSome? id

/-- A load of the S-stream that may cross a line and a page: k gets its bytes (R203). -/
def State.loadAcross (s : State) (e : W64) (l : Loc) (n : Nat) (k : List Byte → State → State) : State :=
  let here := min n (128 - l.key % 128)
  s.loadS l here fun b s =>
    if here = n then k b s
    else match s.locate s.core.n s.wg.ctx (e.toNat + here) with
      | some m => s.loadS m (n - here) fun c s => k (b ++ c) s
      | none => s

/-- ALG (R203 to R205). A record that leaves the window reports e in taddr, as R131 says, which R203 names; R38 speaks of the first offset outside (DEDUCED, log entry 89). -/
def execAlg (d a : Fin 64) (g : Fin 4) (sp : Bool) (s : State) : Res :=
  ok <|
    let e := s.readS a.val
    let fin := fun (b : List Byte) (s : State) => match algCheck b with
      | some st => (s.writeStatus d.val st).advance 4
      | none => (({ s with wg := { s.wg with alg := ainsert g.val (parseAlg b) s.wg.alg } } : State).writeStatus d.val 0).advance 4
    if s.wg.grant.algs ≤ g.val then s.illegalS 4
    else if e.toNat % 8 ≠ 0 then s.trapS 4 .misalign e
    else
      if sp then
        if s.wg.grant.scratch < e.toNat + 72 then
          s.trapS 4 .xlateAbsent e
        else s.loadScratch e.toNat 72 fin
      else match s.checkFlatAt s.core.n s.wg.ctx e 8 72 with
        | .trap c => s.trapS 4 c e
        | .busy => s.holdS .plain
        | .ok l => s.loadAcross e l 72 fin

/-! ## Moves of tiles -/

/-- The checks of R207 for TLD and TST in order. -/
def State.tileMoveCheck (s : State) (a t lay : Nat) : Except W32 LayEntry :=
  match s.wg.entry lay with
  | none => .error (status errBounds 0x40 0 0)
  | some e =>
    if e.space = 2 then .error (status errBounds 0x40 0 0)
    else if 64 < a + e.rank then .error (status errBounds 0x42 0 0)
    else if e.fmt.scaled && (decide (t % 2 = 1) || decide (s.wg.grant.tiles ≤ t + 1)) then .error (status errBounds 0x43 0 0)
    else if e.volume * e.fmt.bits ≠ 16384 ∨ (e.fmt.scaled ∧ e.box 0 ≠ 256 / unitNibbles e.fmt 1) then .error (status errFootprint 0x44 0 0)
    else if e.fmt.scaled && decide ((s.coordsFrom a e.rank).getD 0 0 % 32 ≠ 0) then .error (status errAlign 0x45 0 0)
    else .ok e

/-- The common part of TLD and TST: grants, checks, traps and waits (R206, R207, R210). -/
def State.tileMove (s : State) (d a t lay : Nat) (store : Bool) (k : LayEntry → List Int → List (Nat × Nat) → State → State) : State :=
  if s.wg.grant.tiles ≤ t ∨ s.wg.grant.lays ≤ lay then s.illegalS 8
  else match s.tileMoveCheck a t lay with
    | .error st => (s.writeStatus d st).advance 8
    | .ok e =>
      let org := s.coordsFrom a e.rank
      let ps := e.places org (fun _ => true) e.fmt.scaled
      if s.placesWait e ps then s.holdS .plain
      else match s.checkPlaces e ps store false with
      | some (c, x) => s.trapS 8 c x
      | none => if s.boxWaits e ps || (store && !s.placesFit e ps) then s.holdS .plain else k e org ps s

/-- The groups of a box: the number of each and the place of its scale, where it is inside (R209). -/
def LayEntry.groups (e : LayEntry) (org : List Int) : List (Nat × Option Nat) :=
  (List.range (e.volume / 32)).map fun g => (g, e.scaleAt org (32 * g))

/-- The scale tile that a TLD writes (R209). -/
def State.scaleTile (s : State) (e : LayEntry) (org : List Int) : List Byte :=
  let z := scaleBytes e.fmt
  let bs := (e.groups org).flatMap fun g => match g.2 with
    | some a => s.boxRead e a z
    | none => List.replicate z 0
  (bs ++ List.replicate 2048 (0 : Byte)).take 2048

/-- TLD (R206 to R210). -/
def execTld (d a : Fin 64) (t : Fin 32) (lay : Fin 64) (s : State) : Res :=
  ok <| s.tileMove d.val a.val t.val lay.val false fun e org ps s =>
    if s.boxPoison e ps then s.faultPod .poison
    else
      let s1 := s.putTile t.val 0 (s.readBox e org)
      let s2 := if e.fmt.scaled then s1.putTile (t.val + 1) 0 (s.scaleTile e org) else s1
      (s2.writeStatus d.val 0).advance 8

/-- TST (R206 to R210). -/
def execTst (d a : Fin 64) (t : Fin 32) (lay : Fin 64) (s : State) : Res :=
  ok <| s.tileMove d.val a.val t.val lay.val true fun e org _ s =>
    let z := scaleBytes e.fmt
    let marked := fun (t x : Nat) => NMap.get s.wg.tilePoison (t * 64 + x) == 1
    let elems := s.boxPuts e org (NMap.ofList (s.wg.tileBytes t.val 0 2048)) (marked t.val)
    let scales := if e.fmt.scaled then (e.groups org).filterMap fun g =>
        g.2.map fun x => Put.mk x (s.wg.tileBytes (t.val + 1) (g.1 * z) z) (marked (t.val + 1) (g.1 * z / 32))
      else []
    ((s.boxStore s.curJob e (elems ++ scales)).writeStatus d.val 0).advance 8

/-- A v register of a lane of the pod in focus, with the bank in the handler (R12). -/
def Pod.readV (p : Pod) (n lane : Nat) : W32 :=
  if p.inHandler && decide (240 ≤ n) then NMap.get p.bankV (n * 32 + lane) else NMap.get p.v (n * 32 + lane)

def Pod.writeV (p : Pod) (n lane : Nat) (x : W32) : Pod :=
  if p.inHandler && decide (240 ≤ n) then { p with bankV := NMap.set p.bankV (n * 32 + lane) x }
  else { p with v := NMap.set p.v (n * 32 + lane) x }

/-- A live-in v register of the open coat (R384, R389). -/
def Pod.liveInV (p : Pod) (n : Nat) : Bool :=
  match p.coat with
  | none => false
  | some c => decide (c.vB ≤ n) && decide (n < c.vB + c.vN) && !(p.inHandler && decide (240 ≤ n))

/-- The live lanes of the pod in focus. -/
def State.liveLanes (s : State) : List Nat := lanes.filter fun j => s.pod.liveMask.getLsbD j

/-- TMOV vx, tN, i (R214): the row's poison faults the job (R404). -/
def execTmovToV (v : Fin 64) (t : Fin 32) (row : Fin 16) (s : State) : Res :=
  ok <|
    if s.wg.grant.regs ≤ v.val ∨ s.wg.grant.tiles ≤ t.val then s.illegalS 4
    else
      let reads := s.liveLanes.map fun j => (t.val * 2048 + 128 * row.val + 4 * j) / 32
      if reads.any fun x => NMap.get s.wg.tilePoison x == 1 then s.faultPod .poison
      else
        let s1 := if s.pod.liveInV v.val then s.closeCoat else s
        let p := s1.liveLanes.foldl (fun p j => p.writeV v.val j (ofBytes 32 (s1.wg.tileBytes t.val (128 * row.val + 4 * j) 4))) s1.pod
        ({ s1 with pod := p } : State).advance 4

/-- TMOV tN, i, vx (R214). -/
def execTmovToTile (v : Fin 64) (t : Fin 32) (row : Fin 16) (s : State) : Res :=
  ok <|
    if s.wg.grant.regs ≤ v.val ∨ s.wg.grant.tiles ≤ t.val then s.illegalS 4
    else
      (s.liveLanes.foldl (fun s j => s.putTile t.val (128 * row.val + 4 * j) (toBytes (s.pod.readV v.val j) 4)) s).advance 4

/-- TZERO (R215). -/
def execTzero (t : Fin 32) (s : State) : Res :=
  ok (if s.wg.grant.tiles ≤ t.val then s.illegalS 4 else (s.putTile t.val 0 (List.replicate 2048 0)).advance 4)

/-! ## Moves of accumulators -/

/-- ACLR (R215). -/
def execAclr (x : Fin 256) (c : Fin 4) (s : State) : Res :=
  ok <|
    let n := 2 ^ c.val
    if s.wg.grant.accs < x.val + n then s.illegalS 4
    else if s.accBusy x.val n then s.holdS .plain
    else s.journaled 4 x.val n fun s =>
      ({ s with wg := { s.wg with acc := NMap.clear s.wg.acc (x.val * 256) ((x.val + n) * 256), accPoison := NMap.clear s.wg.accPoison (x.val * 32) ((x.val + n) * 32) } } : State).advance 4

/-- The cell of an element that ALD loads, and its flag (R211). -/
def aldCell (t : LType) (raw : Nat) : W32 × Exc :=
  if t = .f32 then (BitVec.ofNat 32 raw, excNone)
  else
    let v := (binFmt t).value raw
    (BitVec.ofNat 32 (fmtF32.deliver .rn false v).1, excOf [v])

/-- ALD (R206, R207, R210, R211). -/
def execAld (d a : Fin 64) (acc : Fin 256) (lay : Fin 64) (s : State) : Res :=
  ok <|
    if s.wg.grant.accs ≤ acc.val ∨ s.wg.grant.lays ≤ lay.val then s.illegalS 8
    else match s.accMoveCheck a.val lay.val none with
    | .error st => (s.writeStatus d.val st).advance 8
    | .ok e =>
      let org := s.coordsFrom a.val e.rank
      let ps := e.places org (fun _ => true) false
      if s.placesWait e ps then s.holdS .plain
      else match s.checkPlaces e ps false false with
      | some (c, x) => s.trapS 8 c x
      | none =>
        if s.boxWaits e ps || s.accBusy acc.val 1 then s.holdS .plain
        else s.journaled 8 acc.val 1 fun s =>
          if s.boxPoison e ps then s.faultPod .poison
          else
            let cells := (e.elems org).map fun el => match el.place with
              | some p => (acc.val * 256 + el.l, aldCell (LType.ofFmt e.fmt) (natOfBytes (s.readElem e p)))
              | none => (acc.val * 256 + el.l, (0, excNone))
            let f := cells.foldl (fun f c => f ||| c.2.2) excNone
            let s1 : State := { s with wg := s.wg.putAcc (cells.map fun c => (c.1, c.2.1)) }
            ((s1.raiseBin f).writeStatus d.val 0).advance 8

/-- The element of a cell that ASTORE stores, and its flags (R212). -/
def astoreElem (t : LType) (cell : W32) : List Byte × Exc :=
  if t = .f32 then (toBytes cell 4, excNone)
  else
    let r := (binFmt t).deliver .rn false (fmtF32.value cell.toNat)
    (toBytes (BitVec.ofNat 64 r.1) (t.bits / 8), r.2)

/-- ASTORE (R206, R207, R210, R212). -/
def execAstore (d a b : Fin 64) (acc : Fin 256) (lay : Fin 64) (s : State) : Res :=
  ok <|
    if s.wg.grant.accs ≤ acc.val ∨ s.wg.grant.lays ≤ lay.val then s.illegalS 8
    else match s.accMoveCheck a.val lay.val (some (s.readS b.val)) with
    | .error st => (s.writeStatus d.val st).advance 8
    | .ok e =>
      let org := s.coordsFrom a.val e.rank
      let ps := e.places org (fun _ => true) false
      if s.placesWait e ps then s.holdS .plain
      else match s.checkPlaces e ps true false with
      | some (c, x) => s.trapS 8 c x
      | none =>
        if s.boxWaits e ps || !s.placesFit e ps || s.accBusy acc.val 1 then s.holdS .plain
        else
          let out := (storedCells (s.readS b.val) e org).map fun c =>
            let x := astoreElem (LType.ofFmt e.fmt) (s.wg.cell acc.val c.1)
            (Put.mk c.2.1 x.1 (NMap.get s.wg.accPoison (acc.val * 32 + c.1 / 8) == 1), x.2)
          let s1 := s.boxStore s.curJob e (out.map (·.1))
          let f := out.foldl (fun f o => f ||| o.2) excNone
          ((s1.raiseBin f).writeStatus d.val 0).advance 8

/-- The cell that unit x of a tile converted from n accumulators comes from: the accumulator, and its cell's index (R213). -/
def atotCell (tr : Bool) (n x : Nat) : Nat × Nat :=
  let i := x / (16 * n)
  let c := x % (16 * n)
  (c / 16, if tr then 16 * (c % 16) + i else 16 * i + c % 16)

/-- A tile converted from marked accumulators takes their marks (R404). -/
def State.moveMarks (t base n u : Nat) (tr : Bool) (s : State) : State :=
  if s.wg.accPoison.isEmpty then s
  else
    let bad := (List.range (256 * n)).filter fun x =>
      let c := atotCell tr n x
      NMap.get s.wg.accPoison ((base + c.1) * 32 + c.2 / 8) == 1
    { s with wg := { s.wg with tilePoison := bad.foldl (fun m x => NMap.set m (t * 64 + x * u / 32) 1) s.wg.tilePoison } }

/-- Formats of ATOT (R213). -/
def atotType (f : Fin 4) : LType :=
  match f.val with
  | 0 => .f16
  | 1 => .bf16
  | 2 => .e4m3
  | _ => .e5m2

/-- ATOT (R213). -/
def execAtot (b : Fin 64) (tr : Bool) (t : Fin 32) (f : Fin 4) (sat : Bool) (s : State) : Res :=
  ok <|
    let base := 4 * b.val
    let n := atotCount f
    let ty := atotType f
    let u := ty.bits / 8
    if s.wg.grant.accs < base + n ∨ s.wg.grant.tiles ≤ t.val then s.illegalS 4
    else if s.accBusy base n then s.holdS .plain
    else
      let unit := fun (x : Nat) =>
        -- byte x·u of the row view is unit (i, c)
        let c := atotCell tr n x
        let v := fmtF32.value (s.wg.cell (base + c.1) c.2).toNat
        let r := (binFmt ty).deliver .rn sat v
        (toBytes (BitVec.ofNat 64 r.1) u, r.2 ||| excOf [v])
      let us := (List.range (256 * n)).map unit
      (((s.putTile t.val 0 (us.flatMap (·.1))).moveMarks t.val base n u tr).raiseBin (us.foldl (fun f x => f ||| x.2) excNone)).advance 4

end Sys2Proof.Machine
end

