-- ==== Sys2Proof/Machine/Lane.lean ====
section
/-! DEFINITION. What every lane word shares (R25, R26, R32 to R36, R60, R82 to R90, R142): active lanes, operands, checks at issue, the bypass latches, writing results, and going on to the next repetition or word. -/

namespace Sys2Proof.Machine

/-! ## The word at issue -/

/-- The block whose word is at issue. -/
def State.block (s : State) : Block := s.pod.queue.headD { word := 0, q := [], rep := 0, act := 0, hRun := 0 }

/-- Lanes that a predicate selects (R25). -/
def State.select (s : State) (k : Nat) (neg : Bool) : W32 :=
  (if neg then ~~~(s.readK k) else s.readK k) &&& s.pod.liveMask

/-- The active lanes of the word: the predicate as its first repetition found it (R26). -/
def State.active (s : State) (f : LFields) : W32 := if s.block.rep = 0 then s.select f.k.val f.neg else s.block.act

/-- A mask of the lanes that satisfy p. -/
def maskWhere (p : Nat → Bool) : W32 := lanes.foldl (fun m j => if p j then m ||| (1#32 <<< j) else m) 0

/-- How far class 00 and o registers have stepped in this repetition (R88). -/
def State.stepped (s : State) (f : LFields) : Nat := s.block.rep * (f.stride.val + 1)

/-- v registers that a field names from n on in all repetitions, with a span of further registers (R88). -/
def repRegs (f : LFields) (n span : Nat) : List Nat :=
  (List.range (f.rep.val + 1)).flatMap fun i => (List.range (span + 1)).map fun c => n + i * (f.stride.val + 1) + c

def srcRegs (f : LFields) (span : Option Nat) : Src → List Nat
  | .v n => match span with
    | some x => repRegs f n x
    | none => []
  | _ => []

def destRegs (f : LFields) (span : Nat) : List Nat :=
  match f.dest with
  | .v n => if f.n then [] else repRegs f n span
  | _ => []

/-- Spans of the register fields beyond the first register; a source that is not read has none. -/
structure Spans where
  d : Nat := 0
  a : Option Nat := none
  b : Option Nat := none
  c : Option Nat := none
deriving DecidableEq, Repr

def useSpan (u : SrcUse) (t : LType) : Option Nat := if u = .no then none else some (wideSpan (u.isWide t))

/-- The spans that R143 gives a word whose sources are used as a row says. -/
def rowSpans (r : LRow) (t : LType) : Spans :=
  { d := wideSpan (t.wide && !r.narrow), a := useSpan r.a t, b := useSpan r.b t, c := useSpan r.c t }

/-- The v registers that a word reads. -/
def readRegs (f : LFields) (sp : Spans) : List Nat := srcRegs f sp.a f.a ++ srcRegs f sp.b f.b ++ srcRegs f sp.c f.c

/-- The o registers that a word names: sources and destination. -/
def oRegsOf (f : LFields) : List Nat :=
  let of := fun (x : Src) => match x with
    | .o n => repRegs f n 1
    | _ => []
  of f.a ++ of f.b ++ of f.c ++ (match f.dest with
    | .o n => repRegs f n 1
    | _ => [])

def isLatch : Src → Bool
  | .b _ => true
  | _ => false

def usesLatch (f : LFields) : Bool := isLatch f.a || isLatch f.b || isLatch f.c

/-- A v register that the pod may name (R10). -/
def State.granted (s : State) (n : Nat) : Bool := decide (n < s.wg.grant.regs) || (s.pod.inHandler && decide (240 ≤ n) && decide (n < 256))

/-- An SFU word in flight writes one of these registers (R162). -/
def Pod.sfuTouches (p : Pod) (vs os : List Nat) : Bool :=
  p.sfu.any fun o => (o.vw.any fun e => vs.contains (e.1 / 32)) || (o.ow.any fun e => os.contains (e.1 / 32))

/-- The checks at issue: registers within the grant (R10, R103), latches that hold (R35), registers and latches that an SFU word in flight still has to write (R162). -/
def State.issueL (s : State) (act : W32) (vs os : List Nat) (latch : Bool) (k : State → State) : State :=
  if !vs.all s.granted then s.trapL .illegal act 0 s.block.rep
  else if latch && (decide (s.block.hRun = 0) || decide (8 < s.block.hRun)) then s.trapL .latchLost act 0 s.block.rep
  else if !s.pod.sfu.isEmpty && (latch || s.pod.sfuTouches vs os) then s.holdL
  else k s

/-! ## Operands -/

/-- The bits of a small immediate for a type (R85). -/
def smallImm (t : LType) (n : Int) : W64 :=
  if t.isBin then BitVec.ofNat 64 ((binFmt t).deliver .rn false (Val.ofInt n)).1
  else if t = .d64 then BitVec.ofNat 64 (DVal.num (decide (n < 0)) n.natAbs 0).encode
  else if t.wide then BitVec.ofInt 64 n else (BitVec.ofInt 32 n).setWidth 64

/-- The bits of an imm24 operand for a type (R85). -/
def imm24Bits (t : LType) (x : BitVec 24) : W64 :=
  match t with
  | .f32 => x.setWidth 64 <<< 8
  | .f64 => x.setWidth 64 <<< 40
  | .f16 | .bf16 | .e4m3 | .e5m2 => x.setWidth 64
  | .d64 => BitVec.ofNat 64 (DVal.num (decide (x.toInt < 0)) x.toInt.natAbs 0).encode
  | .i64 | .n64 => x.signExtend 64
  | .i32 | .n32 | .i16 | .n16 | .i8 | .n8 => (x.signExtend 32).setWidth 64

/-- A 64-bit operand from two registers (R11). -/
def pairUp (lo hi : W32) : W64 := (hi ++ lo : BitVec 64)

def Pod.readO (p : Pod) (n lane : Nat) : W32 := NMap.get p.o (n * 32 + lane)

/-- One lane's bits of a source read as type t, with step registers added (R84, R86, R88). -/
def State.source (s : State) (step : Nat) (t : LType) (imm : BitVec 24) (x : Src) (lane : Nat) : W64 :=
  let pr := fun (read : Nat → W32) (n : Nat) => if t.wide then pairUp (read n) (read (n + 1)) else (read n).setWidth 64
  match x with
  | .v n => pr (fun r => s.pod.readV r lane) (n + step)
  | .o n => pr (fun r => s.pod.readO r lane) (n + step)
  | .q n => pr (fun r => s.block.q.getD r 0) n
  | .b n => let y := NMap.get s.pod.b (n * 32 + lane); if t.wide then y else (y.setWidth 32).setWidth 64
  | .imm24 => imm24Bits t imm
  | .imm n => smallImm t n

/-- The three sources of a word, as the given types. -/
def State.srcA (s : State) (f : LFields) (t : LType) (lane : Nat) : W64 := s.source (s.stepped f) t f.imm f.a lane
def State.srcB (s : State) (f : LFields) (t : LType) (lane : Nat) : W64 := s.source (s.stepped f) t f.imm f.b lane
def State.srcC (s : State) (f : LFields) (t : LType) (lane : Nat) : W64 := s.source (s.stepped f) t f.imm f.c lane

/-- An integer result as it stands in its register or pair (R42). -/
def intResult (t : LType) (x : Int) : W64 :=
  if t.wide then BitVec.ofInt 64 x else (BitVec.ofInt 32 (wrapInt t x)).setWidth 64

/-- The value of a source read as an integer of type t. -/
def intOf (t : LType) (x : W64) : Int := intValue t x.toNat

/-- The value of a source read in a binary format. -/
def valOf (t : LType) (x : W64) : Val := (binFmt t).value x.toNat

/-- The rounding mode of a binary or integer result (R55, R56). -/
def rndOf (code : BitVec 3) : Rnd :=
  match code.toNat with
  | 0 => .rn | 1 => .rna | 2 => .rz | 3 => .rp | 4 => .rm | 5 => .rnz | _ => .raz

def State.binRnd (s : State) (r : Rnd) : Rnd := if r = .dyn then rndOf s.pod.brnd else r
def State.decRnd (s : State) (r : Rnd) : Rnd := if r = .dyn then rndOf s.pod.drnd else r

/-! ## Results -/

/-- Flags of fsr, binary in [4:0] and decimal in [9:5] (R15). -/
abbrev Flags := BitVec 10
def binFlags (e : Exc) : Flags := e.setWidth 10
def decFlags (e : Exc) : Flags := e.setWidth 10 <<< 5

/-- The cause of an exception flag (R377). -/
def flagCause : Nat → Cause
  | 0 => .bI | 1 => .bZ | 2 => .bO | 3 => .bU | 4 => .bX | 5 => .dI | 6 => .dZ | 7 => .dO | 8 => .dU | _ => .dX

/-- The enabled exception of lowest code and the lanes that raise it (R60). -/
def enabledTrap (ten : Flags) (es : List (Nat × Flags)) : Option (Cause × W32) :=
  (List.range 10).findSome? fun i =>
    if ten.getLsbD i && es.any fun e => e.2.getLsbD i then
      some (flagCause i, maskWhere fun j => es.any fun e => e.1 == j && e.2.getLsbD i)
    else none

/-- The latches after one more result (R32, R33); lanes that are not listed enter zero. -/
def shiftLatch (b : NMap 64) (xs : List (Nat × W64)) : NMap 64 :=
  let old := fun (n : Nat) => (lanes.map fun j => (n * 32 + j, NMap.get b ((n - 1) * 32 + j)))
  NMap.setMany b (old 3 ++ old 2 ++ old 1 ++ lanes.map fun j => (j, (alookup j xs).getD 0))

/-- Writes a register or pair of a lane. -/
def Pod.writeDest (p : Pod) (d : Dest) (wide : Bool) (lane : Nat) (x : W64) : Pod :=
  let put := fun (w : Pod → Nat → W32 → Pod) (n : Nat) =>
    let q := w p n (x.setWidth 32)
    if wide then w q (n + 1) (x.extractLsb' 32 32) else q
  match d with
  | .v n => put (fun p r y => p.writeV r lane y) n
  | .o n => put (fun p r y => { p with o := NMap.set p.o (r * 32 + lane) y }) n
  | .k _ | .none => p

/-- A destination moved on by some registers. -/
def destPlus (d : Dest) (i : Nat) : Dest :=
  match d with
  | .v n => .v (n + i)
  | .o n => .o (n + i)
  | .k n => .k (n + i)
  | .none => .none

/-- The lane stream goes on to the next repetition, or to the next word (R35, R88). -/
def State.nextRep (s : State) (h : Bool) (reps : Nat) (act : W32) : State :=
  match s.pod.queue with
  | [] => s
  | b :: r =>
    let b1 := if b.rep < reps then { b with rep := b.rep + 1, act := act }
      else { b with word := b.word + 1, rep := 0, act := 0, hRun := if h then b.hRun + 1 else 0 }
    { s with pod := { s.pod with queue := b1 :: r, lHeld := false, lFe := false, lTxn := Txn.empty } }

/-- A word that names a live-in register as a destination closes the coat (R386). -/
def State.coatV (s : State) (ds : List Nat) : State := if ds.any s.pod.liveInV then s.closeCoat else s

/-- The results of one repetition: a word for each component of each active lane, with its flags. -/
abbrev Results := List (Nat × List W64 × Flags)

/-- Gives a repetition its effect, unless it raises an enabled exception (R32, R60, R61). Component c goes w registers on from the one before it; extra is what the word does beside. -/
def State.deliver (s : State) (f : LFields) (wide : Bool) (comps : Nat) (ds : List Nat) (act : W32) (rs : Results)
    (extra : State → State) : State :=
  match enabledTrap s.pod.ten (rs.map fun r => (r.1, r.2.2)) with
  | some (c, m) => s.trapL c m 0 s.block.rep
  | none =>
    let s1 := s.coatV ds
    let w := if wide then 2 else 1
    let put := fun (p : Pod) (r : Nat × List W64 × Flags) =>
      (List.range comps).foldl (fun p c => p.writeDest (destPlus f.dest (s.stepped f + c * w)) wide r.1 (r.2.1.getD c 0)) p
    let p1 := if f.n then s1.pod else rs.foldl put s1.pod
    let b := (List.range comps).foldl (fun b c => shiftLatch b (rs.map fun r => (r.1, r.2.1.getD c 0))) p1.b
    let flags := rs.foldl (fun e r => e ||| r.2.2) p1.fsr
    (extra { s1 with pod := { p1 with b := b, fsr := flags } }).nextRep f.h f.rep.val act

/-- A word of one value per lane: the checks at issue, then op of each active lane. -/
def State.valueWord (s : State) (f : LFields) (sp : Spans) (op : State → Nat → W64 × Flags) : State :=
  let act := s.active f
  s.issueL act (readRegs f sp ++ destRegs f sp.d) (oRegsOf f) (usesLatch f) fun s =>
    s.deliver f (decide (sp.d = 1)) 1 (destRegs f sp.d) act ((lanesOf act).map fun j => let r := op s j; (j, [r.1], r.2)) id

/-- The same for a word that raises nothing. -/
def State.plainWord (s : State) (f : LFields) (sp : Spans) (op : State → Nat → W64) : State :=
  s.valueWord f sp fun s j => (op s j, 0)

/-- A word that writes a mask: bit j for each active lane (R145). -/
def State.maskWord (s : State) (f : LFields) (sp : Spans) (op : State → Nat → Bool × Flags) : State :=
  let act := s.active f
  s.issueL act (readRegs f sp) (oRegsOf f) (usesLatch f) fun s =>
    let rs := (lanesOf act).map fun j => (j, op s j)
    match enabledTrap s.pod.ten (rs.map fun r => (r.1, r.2.2)) with
    | some (c, m) => s.trapL c m 0 s.block.rep
    | none =>
      let dests := match f.dest with
        | .k n => (List.range (f.rep.val + 1)).map fun i => n + i * (f.stride.val + 1)
        | _ => []
      let s1 := if dests.any s.pod.liveInK then s.closeCoat else s
      let n := (dests[s.block.rep]?).getD 0
      let set := maskWhere fun j => rs.any fun r => r.1 == j && r.2.1
      let s2 := s1.writeK n ((s1.readK n &&& ~~~act) ||| set)
      ({ s2 with pod := { s2.pod with fsr := rs.foldl (fun e r => e ||| r.2.2) s2.pod.fsr } } : State).nextRep f.h f.rep.val act

end Sys2Proof.Machine
end

