-- ==== Sys2Proof/Machine/LaneInt.lean ====
section
/-! DEFINITION. Integer, logic, shift, bit-field, compare, select and data-movement lane words (R149 to R155, R172 to R176). -/

namespace Sys2Proof.Machine

/-! ## Integer arithmetic (R149 to R151) -/

/-- An exact integer delivered with wrap or saturation (R149). -/
def intOut (f : LFields) (r : Int) : W64 := intResult f.ty (if f.sat then satInt f.ty r else wrapInt f.ty r)

/-- A word of two integer sources. -/
def State.int2 (s : State) (row : LRow) (f : LFields) (g : Int → Int → Int) : Res :=
  ok <| s.plainWord f (rowSpans row f.ty) fun s j => intOut f (g (intOf f.ty (s.srcA f f.ty j)) (intOf f.ty (s.srcB f f.ty j)))

/-- A word of one integer source. -/
def State.int1 (s : State) (row : LRow) (f : LFields) (g : Int → Int) : Res :=
  ok <| s.plainWord f (rowSpans row f.ty) fun s j => intOut f (g (intOf f.ty (s.srcA f f.ty j)))

def execIadd (f : LFields) (s : State) : Res := s.int2 rowInt2Sat f (· + ·)
def execIsub (f : LFields) (s : State) : Res := s.int2 rowInt2Sat f (· - ·)
def execImul (f : LFields) (s : State) : Res := s.int2 rowInt2Sat f (· * ·)
def execImin (f : LFields) (s : State) : Res := s.int2 rowInt2 f min
def execImax (f : LFields) (s : State) : Res := s.int2 rowInt2 f max
def execIabs (f : LFields) (s : State) : Res := s.int1 rowNeg f fun a => Int.ofNat a.natAbs
def execIneg (f : LFields) (s : State) : Res := s.int1 rowNeg f fun a => -a

/-- IMULH (R149): the product's high half. -/
def execImulh (f : LFields) (s : State) : Res := s.int2 rowImulh f fun a b => a * b / 2 ^ f.ty.bits

/-- IMAD (R149). -/
def execImad (f : LFields) (s : State) : Res :=
  ok <| s.plainWord f (rowSpans rowImad f.ty) fun s j =>
    intOut f (intOf f.ty (s.srcA f f.ty j) * intOf f.ty (s.srcB f f.ty j) + intOf f.ty (s.srcC f f.ty j))

/-- IDIV and IREM (R150): INT_DIV0 where an active lane divides by zero. -/
def State.divWord (s : State) (row : LRow) (f : LFields) (g : Int → Int → Int) : Res :=
  let sp := rowSpans row f.ty
  let act := s.active f
  ok <| s.issueL act (readRegs f sp ++ destRegs f sp.d) (oRegsOf f) (usesLatch f) fun s =>
    let a := fun (j : Nat) => intOf f.ty (s.srcA f f.ty j)
    let b := fun (j : Nat) => intOf f.ty (s.srcB f f.ty j)
    let zero := maskWhere fun j => act.getLsbD j && b j == 0
    if zero ≠ 0 then s.trapL .intDiv0 zero 0 s.block.rep
    else s.deliver f f.ty.wide 1 (destRegs f sp.d) act ((lanesOf act).map fun j => (j, [intOut f (g (a j) (b j))], 0)) id

def execIdiv (f : LFields) (s : State) : Res := s.divWord rowIdiv f Int.tdiv
def execIrem (f : LFields) (s : State) : Res := s.divWord rowIrem f Int.tmod

/-- Sum or difference with a carry, on the unsigned readings: the result's bits and the carry out (R151). -/
def addCarry (w : Nat) (sub : Bool) (a b cin : Nat) : Nat × Bool :=
  if sub then ((2 ^ (w + 1) + a - b - cin) % 2 ^ w, decide (a < b + cin)) else ((a + b + cin) % 2 ^ w, decide (2 ^ w ≤ a + b + cin))

/-- IADDC (R151): k_c is read before it is written. -/
def execIaddc (f : LFields) (s : State) : Res :=
  let sp := rowSpans rowIaddc f.ty
  let act := s.active f
  let c := f.ctl 0 4
  ok <| s.issueL act (readRegs f sp ++ destRegs f sp.d) (oRegsOf f) (usesLatch f) fun s =>
    let k := s.readK c
    let r := fun (j : Nat) =>
      addCarry f.ty.bits (decide (f.ctl 4 1 = 1)) ((s.srcA f f.ty j).toNat % 2 ^ f.ty.bits) ((s.srcB f f.ty j).toNat % 2 ^ f.ty.bits) (k.getLsbD j).toNat
    let rs := (lanesOf act).map fun j => (j, r j)
    let out := maskWhere fun j => rs.any fun x => x.1 == j && x.2.2
    s.deliver f f.ty.wide 1 (destRegs f sp.d) act (rs.map fun x => (x.1, [BitVec.ofNat 64 x.2.1], 0)) fun s =>
      s.writeK c ((k &&& ~~~act) ||| out)

/-! ## Logic, shifts and bit fields (R152, R153) -/

/-- A result of w bits extended under R42. -/
def extendTo (t : LType) (x : W64) : W64 := if t.isInt then intResult t (intOf t x) else BitVec.ofNat 64 (x.toNat % 2 ^ t.bits)

/-- A word of bit operations on one or two sources. -/
def State.bit2 (s : State) (f : LFields) (g : W64 → W64 → W64) : Res :=
  ok <| s.plainWord f (rowSpans rowInt2 f.ty) fun s j => extendTo f.ty (g (s.srcA f f.ty j) (s.srcB f f.ty j))

/-- A function of the w bits of the source and of an amount. -/
def State.shift (s : State) (f : LFields) (g : (w : Nat) → BitVec w → Nat → BitVec w) : Res :=
  ok <| s.plainWord f (rowSpans rowShift f.ty) fun s j =>
    extendTo f.ty ((g f.ty.bits ((s.srcA f f.ty j).setWidth f.ty.bits) (s.srcB f .n32 j).toNat).setWidth 64)

def State.bit1 (s : State) (f : LFields) (g : (w : Nat) → BitVec w → BitVec w) : Res :=
  ok <| s.plainWord f (rowSpans rowInt1 f.ty) fun s j => extendTo f.ty ((g f.ty.bits ((s.srcA f f.ty j).setWidth f.ty.bits)).setWidth 64)

def execAnd (f : LFields) (s : State) : Res := s.bit2 f (· &&& ·)
def execOr (f : LFields) (s : State) : Res := s.bit2 f (· ||| ·)
def execXor (f : LFields) (s : State) : Res := s.bit2 f (· ^^^ ·)
def execNot (f : LFields) (s : State) : Res := s.bit1 f fun _ x => ~~~x
def execShl (f : LFields) (s : State) : Res := s.shift f fun _ x n => shl x n
def execShr (f : LFields) (s : State) : Res := s.shift f fun _ x n => shr x n
def execSra (f : LFields) (s : State) : Res := s.shift f fun _ x n => sra x n
def execRot (f : LFields) (s : State) : Res := s.shift f fun _ x n => rot x n
def execClz (f : LFields) (s : State) : Res := s.bit1 f fun w x => BitVec.ofNat w (clz x)
def execPopc (f : LFields) (s : State) : Res := s.bit1 f fun w x => BitVec.ofNat w (popc x)
def execBrev (f : LFields) (s : State) : Res := s.bit1 f fun _ x => x.reverse

/-- BFX on w bits (R153). -/
def bfx (w : Nat) (signed : Bool) (a p n : Nat) : Nat :=
  if w ≤ p ∨ n = 0 then 0
  else
    let m := min n (w - p)
    let x := a / 2 ^ p % 2 ^ m
    if signed && decide (2 ^ (m - 1) ≤ x) then x + (2 ^ w - 2 ^ m) else x

/-- BFI on w bits (R153). -/
def bfi (w : Nat) (old a p n : Nat) : Nat :=
  if w ≤ p ∨ n = 0 then old
  else
    let m := min n (w - p)
    old % 2 ^ p + a % 2 ^ m * 2 ^ p + old / 2 ^ (p + m) * 2 ^ (p + m)

/-- BFX (R153). -/
def execBfx (f : LFields) (s : State) : Res :=
  ok <| s.plainWord f (rowSpans rowBf f.ty) fun s j =>
    extendTo f.ty (BitVec.ofNat 64 (bfx f.ty.bits f.ty.signed (s.srcA f f.ty j).toNat (s.srcB f .n32 j).toNat (s.srcC f .n32 j).toNat))

/-- The destination register or pair as it stands, for the words that read it. -/
def State.oldDest (s : State) (f : LFields) (t : LType) (lane : Nat) : W64 :=
  match f.dest with
  | .v n => s.source (s.stepped f) t 0 (.v n) lane
  | .o n => s.source (s.stepped f) t 0 (.o n) lane
  | _ => 0

/-- A word whose destination is a source too (R89). -/
def State.updateWord (s : State) (f : LFields) (sp : Spans) (t : LType) (op : State → Nat → W64 → W64 × Flags) : State :=
  let act := s.active f
  let own := match f.dest with
    | .v n => repRegs f n sp.d
    | _ => []
  s.issueL act (readRegs f sp ++ own) (oRegsOf f) (usesLatch f) fun s =>
    s.deliver f (decide (sp.d = 1)) 1 (destRegs f sp.d) act ((lanesOf act).map fun j => let r := op s j (s.oldDest f t j); (j, [r.1], r.2)) id

/-- BFI (R153). -/
def execBfi (f : LFields) (s : State) : Res :=
  ok <| s.updateWord f (rowSpans rowBf f.ty) f.ty fun s j old =>
    (BitVec.ofNat 64 (bfi f.ty.bits old.toNat (s.srcA f f.ty j).toNat (s.srcB f .n32 j).toNat (s.srcC f .n32 j).toNat), 0)

/-! ## Compare and select (R154, R155) -/

/-- The conditions eq, ne, lt, le, gt, ge by code. -/
def condition (code : Nat) (c : Int) : Bool :=
  match code with
  | 0 => c == 0
  | 1 => c != 0
  | 2 => decide (c < 0)
  | 3 => decide (c ≤ 0)
  | 4 => decide (0 < c)
  | _ => decide (0 ≤ c)

/-- ICMP (R154). -/
def execIcmp (f : LFields) (s : State) : Res :=
  ok <| s.maskWord f (rowSpans rowIcmp f.ty) fun s j =>
    (condition (f.ctl 0 3) (intOf f.ty (s.srcA f f.ty j) - intOf f.ty (s.srcB f f.ty j)), 0)

/-- SEL (R155). -/
def execSel (f : LFields) (s : State) : Res :=
  ok <| s.plainWord f (rowSpans rowSel f.ty) fun s j =>
    extendTo f.ty (if (s.readK (f.ctl 0 4)).getLsbD j then s.srcA f f.ty j else s.srcB f f.ty j)

/-! ## Data movement and votes (R172 to R176) -/

/-- MOV (R172). -/
def execMov (f : LFields) (s : State) : Res :=
  ok <| s.plainWord f (rowSpans rowMov f.ty) fun s j => extendTo f.ty (s.srcA f f.ty j)

/-- LIDX (R172). -/
def execLidx (f : LFields) (s : State) : Res := ok <| s.plainWord f (rowSpans rowLidx f.ty) fun _ j => BitVec.ofNat 64 j

/-- MOVI (R173): it counts as reading every granted register. -/
def execMovi (f : LFields) (s : State) : Res :=
  let sp := rowSpans rowMovi f.ty
  let act := s.active f
  let base := match f.a with
    | .v n => n + s.stepped f
    | _ => 0
  ok <| s.issueL act (readRegs f sp ++ destRegs f sp.d) (oRegsOf f) (usesLatch f) fun s =>
    if !s.pod.sfu.isEmpty then s.holdL
    else s.deliver f false 1 (destRegs f sp.d) act ((lanesOf act).map fun j =>
      let r := base + (s.srcB f .n32 j).toNat
      (j, [if r < s.wg.grant.regs then (s.pod.readV r j).setWidth 64 else 0], 0)) id

/-- The source lane of SHFL (R174). -/
def shflLane (mode j n : Nat) : Nat :=
  match mode with
  | 0 => n % 32
  | 1 => if n ≤ j then j - n else j
  | 2 => if j + n ≤ 31 then j + n else j
  | _ => Nat.xor j (n % 32)

/-- SHFL (R174). -/
def execShfl (f : LFields) (s : State) : Res :=
  ok <| s.plainWord f (rowSpans rowShfl f.ty) fun s j =>
    extendTo f.ty (s.srcA f f.ty (shflLane (f.ctl 0 2) j (s.srcB f .n32 j).toNat))

/-- BCAST (R175). -/
def execBcast (f : LFields) (s : State) : Res :=
  ok <| s.plainWord f (rowSpans rowBcast f.ty) fun s _ => extendTo f.ty (s.srcA f f.ty ((s.srcB f .n32 0).toNat % 32))

/-- The value of a vote over the active lanes' operands (R176). -/
def voteOf (mode : Nat) (xs : List W64) : Nat :=
  match mode with
  | 0 => if xs.any (· != 0) then 1 else 0
  | 1 => if xs.all (· != 0) then 1 else 0
  | 2 => if xs.all (· == xs.headD 0) then 1 else 0
  | _ => (xs.filter (· != 0)).length

/-- VOTE (R176). -/
def execVote (f : LFields) (s : State) : Res :=
  ok <| s.plainWord f (rowSpans rowVote f.ty) fun s _ =>
    BitVec.ofNat 64 (voteOf (f.ctl 0 2) ((lanesOf (s.active f)).map fun i => s.srcA f f.ty i))

end Sys2Proof.Machine
end

