-- ==== Sys2Proof/Machine/LaneFloat.lean ====
section
/-! DEFINITION. Floating-point, conversion, packing, decimal, reduction and algebra lane words (R156 to R160, R163 to R171, R177 to R181). -/

namespace Sys2Proof.Machine

/-! ## Binary arithmetic (R156 to R160) -/

/-- A value delivered in the word's binary format, with flags (R62). -/
def binOut (t : LType) (m : Rnd) (r : Val × Exc) : W64 × Flags :=
  let x := (binFmt t).deliver m false r.1
  (BitVec.ofNat 64 x.1, binFlags (x.2 ||| r.2))

/-- farith with two operands (R156). -/
def State.float2 (s : State) (f : LFields) (g : Rnd → Val → Val → Val × Exc) : Res :=
  ok <| s.valueWord f (rowSpans rowF2 f.ty) fun s j =>
    let m := s.binRnd f.rnd
    binOut f.ty m (g m (valOf f.ty (s.srcA f f.ty j)) (valOf f.ty (s.srcB f f.ty j)))

def execFadd (f : LFields) (s : State) : Res := s.float2 f fun m a b => a.add m b
def execFsub (f : LFields) (s : State) : Res := s.float2 f fun m a b => a.add m b.negate
def execFmul (f : LFields) (s : State) : Res := s.float2 f fun _ a b => a.mul b

/-- FFMA (R156). -/
def execFfma (f : LFields) (s : State) : Res :=
  ok <| s.valueWord f (rowSpans rowFfma f.ty) fun s j =>
    let m := s.binRnd f.rnd
    binOut f.ty m ((valOf f.ty (s.srcA f f.ty j)).fma m (valOf f.ty (s.srcB f f.ty j)) (valOf f.ty (s.srcC f f.ty j)))

/-- The lesser or the greater of two operands, bit for bit (R157). -/
def pick (t : LType) (greater : Bool) (x y : W64) : W64 × Flags :=
  let a := valOf t x
  let b := valOf t y
  let low := fun (z : W64) => BitVec.ofNat 64 (z.toNat % 2 ^ t.bits)
  let less := decide (a.cmp b < 0) || (a.cmp b == 0 && a.neg && !b.neg)
  let r := if a.isNan && b.isNan then BitVec.ofNat 64 (binFmt t).nanBits
    else if a.isNan then low y
    else if b.isNan then low x
    else if less != greater then low x else low y
  (r, binFlags (excOf [a, b]))

def execFmin (f : LFields) (s : State) : Res :=
  ok <| s.valueWord f (rowSpans rowF2 f.ty) fun s j => pick f.ty false (s.srcA f f.ty j) (s.srcB f f.ty j)
def execFmax (f : LFields) (s : State) : Res :=
  ok <| s.valueWord f (rowSpans rowF2 f.ty) fun s j => pick f.ty true (s.srcA f f.ty j) (s.srcB f f.ty j)

/-- FRND (R158). -/
def roundIntegral (t : LType) (m : Rnd) (v : Val) : W64 × Flags :=
  let r : Val := match v with
    | .num s n d => .num s (roundNat m s n d) 1
    | v => v
  (BitVec.ofNat 64 ((binFmt t).deliver m false r).1, binFlags (excOf [v]))

def execFrnd (f : LFields) (s : State) : Res :=
  ok <| s.valueWord f (rowSpans rowF1 f.ty) fun s j => roundIntegral f.ty (s.binRnd f.rnd) (valOf f.ty (s.srcA f f.ty j))

/-- A comparison of two values by code, and whether it is invalid (R159). -/
def compareVals (code : Nat) (a b : Val) : Bool × Exc :=
  let un := a.isNan || b.isNan
  let c := a.cmp b
  match code with
  | 6 => (un, excOf [a, b])
  | 7 => (!un, excOf [a, b])
  | 0 => (!un && condition 0 c, excOf [a, b])
  | 1 => (un || condition 1 c, excOf [a, b])
  | n => (!un && condition n c, if un then excI else excNone)

/-- FCMP (R159). -/
def execFcmp (f : LFields) (s : State) : Res :=
  ok <| s.maskWord f (rowSpans rowFcmp f.ty) fun s j =>
    let r := compareVals (f.ctl 0 3) (valOf f.ty (s.srcA f f.ty j)) (valOf f.ty (s.srcB f f.ty j))
    (r.1, binFlags r.2)

/-- The class bit of a binary value (R160). -/
def classBit (t : LType) (x : Nat) : Nat :=
  match (binFmt t).value x with
  | .inf s => if s then 0 else 7
  | .nan g => if g then 8 else 9
  | .num s n _ =>
    let sub := x / 2 ^ (binFmt t).f % 2 ^ (binFmt t).e = 0
    if n = 0 then (if s then 3 else 4) else if sub then (if s then 2 else 5) else (if s then 1 else 6)

/-- FCLASS (R160). -/
def execFclass (f : LFields) (s : State) : Res :=
  ok <| s.plainWord f (rowSpans rowFclass f.ty) fun s j =>
    let x := (s.srcA f f.ty j).toNat
    BitVec.ofNat 64 (2 ^ (if f.ty = .d64 then (DVal.decode x).classBit else classBit f.ty x))

/-! ## Conversion and packing (R163 to R165) -/

/-- A conversion between two different types (R63 to R65). -/
def convertTo (t : LType) (m : Rnd) (sat : Bool) (ts : LType) (x : W64) : W64 × Flags :=
  if ts.isInt then
    let v := intOf ts x
    if t.isInt then (intResult t (if sat then satInt t v else wrapInt t v), 0)
    else if t = .d64 then let r := deliverD m 0 (Val.ofInt v); (BitVec.ofNat 64 r.1.encode, decFlags r.2)
    else let r := (binFmt t).deliver m sat (Val.ofInt v); (BitVec.ofNat 64 r.1, binFlags r.2)
  else
    let v := if ts = .d64 then (DVal.decode x.toNat).value else valOf ts x
    if t.isInt then
      let r := cvtToInt t m sat v
      (intResult t r.1, if ts = .d64 then decFlags r.2 else binFlags r.2)
    else if t = .d64 then let r := deliverD m 0 v; (BitVec.ofNat 64 r.1.encode, decFlags (r.2 ||| excOf [v]))
    else
      let r := (binFmt t).deliver m sat v
      let e := r.2 ||| excOf [v]
      (BitVec.ofNat 64 r.1, if ts = .d64 then decFlags e else binFlags e)

/-- CVT of a value (R163): a type converted to itself keeps its bits, but for NaNs and non-canonical decimals. -/
def convert (t : LType) (m : Rnd) (sat : Bool) (ts : LType) (x : W64) : W64 × Flags :=
  if t = ts then
    if t.isInt then (extendTo t x, 0)
    else if t = .d64 then
      let v := DVal.decode x.toNat
      (BitVec.ofNat 64 v.encode, decFlags (excOf [v.value]))
    else
      let v := valOf t x
      (if v.isNan then BitVec.ofNat 64 (binFmt t).nanBits else extendTo t x, binFlags (excOf [v]))
  else convertTo t m sat ts x

/-- The mode of a conversion (R66). -/
def State.cvtRnd (s : State) (t : LType) (r : Rnd) : Rnd := if t = .d64 then s.decRnd r else s.binRnd r

/-- CVT (R163): an immediate source has the value of R85 in the source type (DEDUCED, log entry 77). -/
def execCvt (f : LFields) (s : State) : Res :=
  let ts := (LType.ofCode (f.ctl 0 4)).getD .i32
  let sp : Spans := { d := wideSpan f.ty.wide, a := some (wideSpan ts.wide) }
  ok <| s.valueWord f sp fun s j => convert f.ty (s.cvtRnd f.ty f.rnd) f.sat ts (s.srcA f ts j)

/-- Bits of an element of a packed format, its lane type where it has one, and the bounds of its integers (R164). -/
def packBits (fm : Nat) : Nat := if fm < 4 then 16 else if fm < 8 then 8 else 4
def packType (fm : Nat) : LType :=
  match fm with
  | 0 => .f16 | 1 => .bf16 | 2 => .i16 | 3 => .n16 | 4 => .e4m3 | 5 => .e5m2 | 6 => .i8 | _ => .n8

/-- One source of PACK in its packed form (R164). -/
def packOne (fm : Nat) (t : LType) (m : Rnd) (sat : Bool) (x : W64) : Nat × Flags :=
  if 8 ≤ fm then
    let v := intOf t x
    let h : Int := if fm = 8 then 8 else 4
    let y := if sat then max (-h) (min (h - 1) v) else (v + h) % (2 * h) - h
    (intBits 4 y, 0)
  else let r := convertTo (packType fm) m sat t x; (r.1.toNat % 2 ^ packBits fm, r.2)

/-- PACK (R164). -/
def execPack (f : LFields) (s : State) : Res :=
  let fm := f.ctl 0 4
  let w := packBits fm
  let lo := 2 * w * f.ctl 4 2
  ok <| s.updateWord f (rowSpans rowPack f.ty) .n32 fun s j old =>
    let m := s.binRnd f.rnd
    let a := packOne fm f.ty m f.sat (s.srcA f f.ty j)
    let b := packOne fm f.ty m f.sat (s.srcB f f.ty j)
    let o := old.toNat
    (BitVec.ofNat 64 (o % 2 ^ lo + (a.1 + b.1 * 2 ^ w) * 2 ^ lo + o / 2 ^ (lo + 2 * w) * 2 ^ (lo + 2 * w)), a.2 ||| b.2)

/-- UNPK of an element's bits (R165). -/
def unpackOne (fm x : Nat) : W64 × Flags :=
  if fm = 8 then (intResult .i32 (weightOf false x), 0)
  else if fm = 9 then (intResult .i32 (weightOf true x), 0)
  else if (packType fm).isInt then (intResult .i32 (intValue (packType fm) x), 0)
  else
    let v := (binFmt (packType fm)).value x
    (BitVec.ofNat 64 (fmtF32.deliver .rn false v).1, binFlags (excOf [v]))

/-- UNPK (R165). -/
def execUnpk (f : LFields) (s : State) : Res :=
  let fm := f.ctl 0 4
  let w := packBits fm
  ok <| s.valueWord f (rowSpans rowUnpk f.ty) fun s j => unpackOne fm ((s.srcA f f.ty j).toNat / 2 ^ (w * f.ctl 4 3) % 2 ^ w)

/-! ## Decimal64 (R166 to R171) -/

def decOut (r : DVal × Exc) : W64 × Flags := (BitVec.ofNat 64 r.1.encode, decFlags r.2)
def decOf (x : W64) : DVal := DVal.decode x.toNat

/-- A decimal word of two sources. -/
def State.dec2 (s : State) (f : LFields) (g : Rnd → DVal → DVal → DVal × Exc) : Res :=
  ok <| s.valueWord f (rowSpans rowDec2 f.ty) fun s j => decOut (g (s.decRnd f.rnd) (decOf (s.srcA f .d64 j)) (decOf (s.srcB f .d64 j)))

def execDadd (f : LFields) (s : State) : Res := s.dec2 f dAdd
def execDsub (f : LFields) (s : State) : Res := s.dec2 f fun m a b => dAdd m a b.negate
def execDmul (f : LFields) (s : State) : Res := s.dec2 f dMul
def execDdiv (f : LFields) (s : State) : Res := s.dec2 f dDiv
def execDqua (f : LFields) (s : State) : Res := s.dec2 f dQuantize

/-- DFMA (R167). -/
def execDfma (f : LFields) (s : State) : Res :=
  ok <| s.valueWord f (rowSpans rowDfma f.ty) fun s j =>
    decOut (dFma (s.decRnd f.rnd) (decOf (s.srcA f .d64 j)) (decOf (s.srcB f .d64 j)) (decOf (s.srcC f .d64 j)))

/-- DSCB (R169). -/
def execDscb (f : LFields) (s : State) : Res :=
  ok <| s.valueWord f (rowSpans rowDscb f.ty) fun s j =>
    decOut (dScale (s.decRnd f.rnd) (decOf (s.srcA f .d64 j)) (intOf .i32 (s.srcB f .i32 j)))

/-- DCMP (R170). -/
def execDcmp (f : LFields) (s : State) : Res :=
  ok <| s.maskWord f (rowSpans rowDcmp f.ty) fun s j =>
    let r := compareVals (f.ctl 0 3) (decOf (s.srcA f .d64 j)).value (decOf (s.srcB f .d64 j)).value
    (r.1, decFlags r.2)

/-- DCVT (R171). -/
def execDcvt (f : LFields) (s : State) : Res :=
  ok <| s.valueWord f (rowSpans rowDcvt f.ty) fun s j =>
    let x := (s.srcA f .d64 j).toNat
    let v := if f.ctl 0 1 = 0 then DVal.decode x else DVal.decodeDpd x
    (BitVec.ofNat 64 (if f.ctl 0 1 = 0 then v.encodeDpd else v.encode), decFlags (excOf [v.value]))

/-! ## Lane reduction (R177) -/

/-- A node of the tree: the lanes that it covers, its value if any of them is active, and each lane's flags. -/
structure RedNode where
  lanes : List Nat
  value : Option W64
  flags : List (Nat × Flags)

/-- Two nodes combined: an exception is raised for every active lane below. -/
def RedNode.combine (comb : W64 → W64 → W64 × Flags) (x y : RedNode) : RedNode :=
  match x.value, y.value with
  | some a, some b =>
    let r := comb a b
    { lanes := x.lanes ++ y.lanes, value := some r.1, flags := x.flags ++ y.flags ++ (x.lanes ++ y.lanes).map fun j => (j, r.2) }
  | some _, none => x
  | none, _ => y

/-- One level of the tree. -/
def redLevel (comb : W64 → W64 → W64 × Flags) : List RedNode → List RedNode
  | x :: y :: r => x.combine comb y :: redLevel comb r
  | r => r

/-- The combining operation of a word (R177). -/
def State.redComb (s : State) (f : LFields) (a b : W64) : W64 × Flags :=
  let op := f.ctl 0 3
  if f.ty.isInt then
    let x := intOf f.ty a
    let y := intOf f.ty b
    (match op with
     | 0 => intOut f (x + y)
     | 1 => intOut f (min x y)
     | 2 => intOut f (max x y)
     | 3 => extendTo f.ty (a &&& b)
     | 4 => extendTo f.ty (a ||| b)
     | _ => extendTo f.ty (a ^^^ b), 0)
  else match op with
    | 0 => let m := s.binRnd f.rnd; binOut f.ty m ((valOf f.ty a).add m (valOf f.ty b))
    | 1 => pick f.ty false a b
    | _ => pick f.ty true a b

/-- REDP (R177): a NaN comes out canonical, of one active lane too (R46). -/
def execRedp (f : LFields) (s : State) : Res :=
  let sp := rowSpans rowRedp f.ty
  let act := s.active f
  ok <| s.issueL act (readRegs f sp ++ destRegs f sp.d) (oRegsOf f) (usesLatch f) fun s =>
    let leaves := lanes.map fun j =>
      if act.getLsbD j then RedNode.mk [j] (some (extendTo f.ty (s.srcA f f.ty j))) [] else RedNode.mk [] none []
    let up := redLevel (s.redComb f)
    let root := (up (up (up (up (up leaves))))).headD (RedNode.mk [] none [])
    let y := root.value.getD 0
    let x := if !f.ty.isInt && (valOf f.ty y).isNan then BitVec.ofNat 64 (binFmt f.ty).nanBits else y
    let rs := (lanesOf act).map fun j => (j, [x], (root.flags.filter fun e => e.1 == j).foldl (fun e r => e ||| r.2) 0)
    s.deliver f f.ty.wide 1 (destRegs f sp.d) act rs id

/-! ## Algebra in lanes (R178 to R181) -/

/-- The exact sum of the members of one component, rounded once (R179). An exact zero is -0 where every member is, and in rm where one is or where members of both signs cancel; a sum of +0 members, or of none, is +0 (R57, log entry 42). -/
def algSum (t : LType) (m : Rnd) (ms : List (Val × Exc)) : W64 × Flags :=
  let b := binFmt t
  let vs := ms.map (·.1)
  let e := ms.foldl (fun e x => e ||| x.2) excNone
  let pos := vs.any (· == .inf false)
  let neg := vs.any (· == .inf true)
  if vs.any Val.isNan then (BitVec.ofNat 64 b.nanBits, binFlags e)
  else if pos && neg then (BitVec.ofNat 64 b.nanBits, binFlags (e ||| excI))
  else if pos || neg then (BitVec.ofNat 64 (b.infOut neg false), binFlags e)
  else
    let sum := vs.foldl (fun (a : Int × Nat) v => match v with
      | .num s n d => (a.1 * Int.ofNat d + signedNum s n * Int.ofNat a.2, a.2 * d)
      | _ => a) (0, 1)
    if sum.1 = 0 then (BitVec.ofNat 64 (b.signed (vs.any Val.neg && (m == .rm || vs.all Val.neg)) 0), binFlags e)
    else
      let r := b.round m false (decide (sum.1 < 0)) sum.1.natAbs sum.2
      (BitVec.ofNat 64 r.1, binFlags (e ||| r.2))

/-- Registers of an algebra group beyond its first (R178). -/
def groupSpan (f : LFields) : Nat := algDim (f.ctl 5 2) * (if f.ty.wide then 2 else 1) - 1

/-- The d components of a source group in one lane, as bits (R178). -/
def State.group (s : State) (f : LFields) (x : Src) (lane : Nat) : List W64 :=
  (List.range (algDim (f.ctl 5 2))).map fun c => s.source (s.stepped f + c * (if f.ty.wide then 2 else 1)) f.ty f.imm x lane

/-- An algebra word: slot and groups within the grant, and a NaN with BI where the slot's dimension differs (R178, R181). comps is the number of components it writes. -/
def State.algWord (s : State) (f : LFields) (sp : Spans) (comps : Nat) (op : State → AlgTable → Nat → List W64 × Flags) : Res :=
  let act := s.active f
  ok <|
    if s.wg.grant.algs ≤ f.ctl 0 2 then s.trapL .illegal act 0 s.block.rep
    else s.issueL act (readRegs f sp ++ destRegs f sp.d) (oRegsOf f) (usesLatch f) fun s =>
      let g := (alookup (f.ctl 0 2) s.wg.alg).getD AlgTable.real
      let bad := (List.replicate comps (BitVec.ofNat 64 (binFmt f.ty).nanBits), binFlags excI)
      s.deliver f f.ty.wide comps (destRegs f sp.d) act
        ((lanesOf act).map fun j => (j, if g.dim = algDim (f.ctl 5 2) then op s g j else bad)) id

/-- The components of a product, each summed and rounded (R179). -/
def State.algProduct (s : State) (f : LFields) (g : AlgTable) (a b c : List W64) (withC : Bool) : List W64 × Flags :=
  let d := algDim (f.ctl 5 2)
  let m := s.binRnd f.rnd
  let va := a.map (valOf f.ty)
  let vb := b.map (valOf f.ty)
  let va := if f.ctl 3 1 = 1 then g.conjugate va else va
  let vb := if f.ctl 4 1 = 1 then g.conjugate vb else vb
  let lr := if f.ctl 2 1 = 1 then (vb, va) else (va, vb)
  let out := (List.range d).map fun k =>
    let v := valOf f.ty (c.getD k 0)
    algSum f.ty m (g.products d k lr.1 lr.2 ++ if withC then [(v, excOf [v])] else [])
  (out.map (·.1), out.foldl (fun e x => e ||| x.2) 0)

/-- AMUL (R179). -/
def execAmul (f : LFields) (s : State) : Res :=
  let n := groupSpan f
  s.algWord f { d := n, a := some n, b := some n } (algDim (f.ctl 5 2)) fun s g j => s.algProduct f g (s.group f f.a j) (s.group f f.b j) [] false

/-- AFMA (R179). -/
def execAfma (f : LFields) (s : State) : Res :=
  let n := groupSpan f
  s.algWord f { d := n, a := some n, b := some n, c := some n } (algDim (f.ctl 5 2)) fun s g j =>
    s.algProduct f g (s.group f f.a j) (s.group f f.b j) (s.group f f.c j) true

/-- ACONJ (R180). -/
def execAconj (f : LFields) (s : State) : Res :=
  let n := groupSpan f
  s.algWord f { d := n, a := some n } (algDim (f.ctl 5 2)) fun s g j =>
    let vs := (s.group f f.a j).map (valOf f.ty)
    ((g.conjugate vs).map fun v => BitVec.ofNat 64 ((binFmt f.ty).deliver .rn false v).1, binFlags (excOf vs))

/-- ANORM (R180): component 0 of a times its conjugate. -/
def execAnorm (f : LFields) (s : State) : Res :=
  s.algWord f { d := wideSpan f.ty.wide, a := some (groupSpan f) } 1 fun s g j =>
    let vs := (s.group f f.a j).map (valOf f.ty)
    let r := algSum f.ty (s.binRnd f.rnd) (g.products (algDim (f.ctl 5 2)) 0 vs (g.conjugate vs))
    ([r.1], r.2)

end Sys2Proof.Machine
end

