-- ==== Sys2Proof/Machine/Sfu.lean ====
section
/-! DEFINITION. The functions of the special-function unit (R161): exact ones through exact fractions; exponentials, logarithms, sines and cosines through bounds that are rounded on both sides, with a free value where the two differ. -/

namespace Sys2Proof.Machine

/-! ## Fixed-point series: numbers times 2 to the 640 -/

def fixBits : Nat := 640
def fixOne : Nat := 2 ^ fixBits

/-- Σ z^(2k+1) / (2k+1) from term k on; t is z^(2k+1), z2 is z². -/
def atanhFrom (z2 : Nat) : Nat → Nat → Nat → Nat
  | 0, _, _ => 0
  | n + 1, k, t => t / (2 * k + 1) + atanhFrom z2 n (k + 1) (t * z2 / fixOne)

/-- The inverse hyperbolic tangent of p / q ≤ 1/3. -/
def fixAtanh (p q : Nat) : Nat := let z := p * fixOne / q; atanhFrom (z * z / fixOne) 220 0 z

def fixLn2 : Nat := 2 * fixAtanh 1 3

/-- Alternating Σ (−1)^k z^(2k+1) / (2k+1) for z = 1 / q. -/
def atanFrom (q2 : Nat) : Nat → Nat → Nat → Int
  | 0, _, _ => 0
  | n + 1, k, t => Int.ofNat (t / (2 * k + 1)) - atanFrom q2 n (k + 1) (t / q2)

def fixAtanInv (q : Nat) : Int := atanFrom (q * q) 150 0 (fixOne / q)

/-- π by Machin's formula. -/
def fixPi : Nat := (16 * fixAtanInv 5 - 4 * fixAtanInv 239).toNat

/-- Σ y^k / k! from term k on; t is y^k / k!. -/
def expFrom (y : Nat) : Nat → Nat → Nat → Nat
  | 0, _, _ => 0
  | n + 1, k, t => t + expFrom y n (k + 1) (t * y / fixOne / (k + 1))

/-- Alternating Σ (−1)^k y^(2k+1) / (2k+1)!. -/
def sinFrom (y2 : Nat) : Nat → Nat → Nat → Int
  | 0, _, _ => 0
  | n + 1, k, t => Int.ofNat t - sinFrom y2 n (k + 1) (t * y2 / fixOne / ((2 * k + 2) * (2 * k + 3)))

/-- The bound taken for the error of a series above: 2 to the −600. -/
def fixErr : Nat := 2 ^ 40

/-! ## Rounding from bounds -/

/-- Delivers a number that lies between lo / d and hi / d (of one sign), from its rounding at both ends; where they differ the result is a free value. -/
def BinFmt.between (b : BinFmt) (m : Rnd) (neg : Bool) (lo hi d key : Nat) : Nat × Exc :=
  let x := b.round m false neg lo d
  let y := b.round m false neg hi d
  if x = y then x else ((Config.freeSfu key).toNat % (2 * b.top), excX)

/-- 2 to the power of a number that is no integer. -/
def exp2Bounds (neg : Bool) (n d : Nat) : Nat × Nat × Int :=
  -- the number is whole + f with 0 < f < 1
  let whole : Int := if neg then -(Int.ofNat (n / d)) - 1 else Int.ofNat (n / d)
  let f := if neg then d - n % d else n % d
  let y := f * fixLn2 / d
  let v := expFrom y 200 0 fixOne
  (v - fixErr, v + fixErr, whole)

/-- EXP2 (R161). Beyond 4,096 in magnitude the exponent changes neither the result nor the flags. -/
def sfuExp2 (b : BinFmt) (m : Rnd) (key : Nat) : Val → Nat × Exc
  | .nan s => (b.nanBits, if s then excI else excNone)
  | .inf s => if s then (0, excNone) else (b.infOut false false, excNone)
  | .num s n d =>
    let e : Int := if s then -(Int.ofNat (min (n / d) 4096)) else Int.ofNat (min (n / d) 4096)
    if n % d = 0 ∨ 4096 ≤ n / d then let r := scaled2 1 1 e; b.round m false false r.1 r.2
    else
      let v := exp2Bounds s n d
      let lo := scaled2 v.1 fixOne v.2.2
      let hi := scaled2 v.2.1 fixOne v.2.2
      b.between m false lo.1 hi.1 lo.2 key

/-- LOG2 (R161). -/
def sfuLog2 (b : BinFmt) (m : Rnd) (key : Nat) : Val → Nat × Exc
  | .nan s => (b.nanBits, if s then excI else excNone)
  | .inf s => if s then (b.nanBits, excI) else (b.infOut false false, excNone)
  | .num s n d =>
    if n = 0 then (b.infOut true false, excZ)
    else if s then (b.nanBits, excI)
    else
      let e := expo2 n d
      let a := scaled2 n d (-e)
      if a.1 = a.2 then b.round m false (decide (e < 0)) e.natAbs 1
      else
        -- log₂ a = 2 artanh((a − 1) / (a + 1)) / ln 2, between 0 and 1
        let l := 2 * fixAtanh (a.1 - a.2) (a.1 + a.2) * fixOne / fixLn2
        let v : Int := e * Int.ofNat fixOne + Int.ofNat l
        let w := v.natAbs
        b.between m (decide (v < 0)) (w - fixErr) (w + fixErr) fixOne key

/-- sin(πx) for 0 < x = n / d < 1/2 or x = 1/2: bounds over 2 to the 640. -/
def sinBounds (n d : Nat) : Nat × Nat :=
  let y := n * fixPi / d
  let v := (sinFrom (y * y / fixOne) 100 0 y).toNat
  (v - fixErr, v + fixErr)

/-- A sine of the given sign at x = n / d from 0 to 1/2. -/
def BinFmt.sine (b : BinFmt) (m : Rnd) (neg : Bool) (n d key : Nat) : Nat × Exc :=
  if 2 * n = d then b.round m false neg 1 1
  else
    let v := sinBounds n d
    b.between m neg v.1 v.2 fixOne key

/-- SINPI (R161): x is folded by its period and symmetries. -/
def sfuSinpi (b : BinFmt) (m : Rnd) (key : Nat) : Val → Nat × Exc
  | .nan s => (b.nanBits, if s then excI else excNone)
  | .inf _ => (b.nanBits, excI)
  | .num s n d =>
    if n % d = 0 then (b.signed s 0, excNone)
    else
      let r := n % (2 * d)
      let flip := decide (d < r)
      let r := r % d
      b.sine m (s != flip) (if d < 2 * r then d - r else r) d key

/-- COSPI (R161): cos(πx) = sin(π(1/2 − x)). -/
def sfuCospi (b : BinFmt) (m : Rnd) (key : Nat) : Val → Nat × Exc
  | .nan s => (b.nanBits, if s then excI else excNone)
  | .inf _ => (b.nanBits, excI)
  | .num _ n d =>
    -- x modulo 2, then folded to 0 to 1
    let r := n % (2 * d)
    let r := if d < r then 2 * d - r else r
    if 2 * r = d then (0, excNone)
    else if 2 * r < d then b.sine m false (d - 2 * r) (2 * d) key
    else b.sine m true (2 * r - d) (2 * d) key

/-! ## Exact functions -/

/-- RCP (R161). -/
def sfuRcp (b : BinFmt) (m : Rnd) (v : Val) : Nat × Exc :=
  let r := (Val.num false 1 1).div v
  let x := b.deliver m false r.1
  (x.1, x.2 ||| r.2)

/-- DIV (R161). -/
def sfuDiv (b : BinFmt) (m : Rnd) (u v : Val) : Nat × Exc :=
  let r := u.div v
  let x := b.deliver m false r.1
  (x.1, x.2 ||| r.2)

/-- SQRT (R161). -/
def sfuSqrt (b : BinFmt) (m : Rnd) : Val → Nat × Exc
  | .nan s => (b.nanBits, if s then excI else excNone)
  | .inf s => if s then (b.nanBits, excI) else (b.infOut false false, excNone)
  | .num s n d =>
    if n = 0 then (b.signed s 0, excNone)
    else if s then (b.nanBits, excI)
    else let r := sqrtFrac n d; b.round m false false r.1 r.2

/-- RSQ (R161). -/
def sfuRsq (b : BinFmt) (m : Rnd) : Val → Nat × Exc
  | .nan s => (b.nanBits, if s then excI else excNone)
  | .inf s => if s then (b.nanBits, excI) else (0, excNone)
  | .num s n d =>
    if n = 0 then (b.infOut s false, excNone)
    else if s then (b.nanBits, excI)
    else let r := sqrtFrac d n; b.round m false false r.1 r.2

end Sys2Proof.Machine
end

