-- ==== Sys2Proof/Machine/LaneSfu.lean ====
section
/-! DEFINITION. The words of the special-function unit (R161, R162) and the words that end and pad blocks (R24, R187). -/

namespace Sys2Proof.Machine

/-- An SFU word whose results have been computed leaves them in flight (R162). -/
def State.launchSfu (s : State) (f : LFields) (ds : List Nat) (act : W32) (rs : List (Nat × W64 × Flags)) : State :=
  let s1 := s.coatV ds
  let words := fun (base : Nat) => rs.flatMap fun r =>
    (base * 32 + r.1, r.2.1.setWidth 32) :: (if f.ty.wide then [((base + 1) * 32 + r.1, (r.2.1.extractLsb' 32 32 : W32))] else [])
  let n := s1.stepped f
  let op : SfuOp :=
    { vw := match f.dest with
        | .v d => if f.n then [] else words (d + n)
        | _ => []
      ow := match f.dest with
        | .o d => words (d + n)
        | _ => []
      flags := rs.foldl (fun e r => e ||| r.2.2) 0 }
  let p := { s1.pod with sfu := s1.pod.sfu ++ [op], b := shiftLatch s1.pod.b (rs.map fun r => (r.1, r.2.1)) }
  (({ s1 with pod := p } : State).send (.sfuComplete s.pod.key)).nextRep f.h f.rep.val act

/-- An SFU word: at most four in flight; at once where a binary exception is enabled or in the handler (R162). -/
def State.sfuWord (s : State) (row : LRow) (f : LFields) (op : BinFmt → Rnd → Nat → Val → Val → Nat × Exc) : Res :=
  let sp := rowSpans row f.ty
  let act := s.active f
  let ds := destRegs f sp.d
  ok <| s.issueL act (readRegs f sp ++ ds) (oRegsOf f) (usesLatch f) fun s =>
    if 4 ≤ s.pod.sfu.length then s.holdL
    else
      let m := s.binRnd f.rnd
      let one := fun (j : Nat) =>
        let a := s.srcA f f.ty j
        let r := op (binFmt f.ty) m a.toNat (valOf f.ty a) (valOf f.ty (s.srcB f f.ty j))
        (BitVec.ofNat 64 r.1, binFlags r.2)
      let rs := (lanesOf act).map fun j => (j, one j)
      if s.pod.ten.setWidth 5 ≠ (0 : BitVec 5) ∨ s.pod.inHandler then
        s.deliver f f.ty.wide 1 ds act (rs.map fun r => (r.1, [r.2.1], r.2.2)) id
      else s.launchSfu f ds act rs

def execRcp (f : LFields) (s : State) : Res := s.sfuWord rowSfu f fun b m _ a _ => sfuRcp b m a
def execRsq (f : LFields) (s : State) : Res := s.sfuWord rowSfu f fun b m _ a _ => sfuRsq b m a
def execSqrt (f : LFields) (s : State) : Res := s.sfuWord rowSfu64 f fun b m _ a _ => sfuSqrt b m a
def execDiv (f : LFields) (s : State) : Res := s.sfuWord rowDiv f fun b m _ a c => sfuDiv b m a c
def execExp2 (f : LFields) (s : State) : Res := s.sfuWord rowSfu f fun b m key a _ => sfuExp2 b m key a
def execLog2 (f : LFields) (s : State) : Res := s.sfuWord rowSfu f fun b m key a _ => sfuLog2 b m key a
def execSinpi (f : LFields) (s : State) : Res := s.sfuWord rowSfu f fun b m key a _ => sfuSinpi b m key a
def execCospi (f : LFields) (s : State) : Res := s.sfuWord rowSfu f fun b m key a _ => sfuCospi b m key a

/-- The oldest SFU word of a pod completes: its registers and its flags (R162). -/
def execSfuComplete (k : PodKey) (s : State) : Res :=
  ok <| s.mapPod k fun p => match p.sfu with
    | [] => p
    | o :: r => { p with sfu := r, v := NMap.setMany p.v o.vw, o := NMap.setMany p.o o.ow, fsr := p.fsr ||| o.flags }

/-- LEND (R24, R187): its block leaves the queue once the results of the SFU stand; the hold bit is ignored. -/
def execLend (_h : Bool) (s : State) : Res :=
  ok <|
    if !s.pod.sfu.isEmpty then s.holdL
    else { s with pod := { s.pod with queue := s.pod.queue.drop 1, lHeld := false, lFe := false, lTxn := Txn.empty } }

/-- LNOP (R187). -/
def execLnop (h _neg : Bool) (_k : Fin 16) (s : State) : Res := ok (s.nextRep h 0 0)

end Sys2Proof.Machine
end

