-- ==== Sys2Proof/Machine/LaneMem.lean ====
section
/-! DEFINITION. Lane memory words (R182 to R186), ATOM (R322, R324), DAUB (R327, R328) and WST (R449 to R451). -/

namespace Sys2Proof.Machine

/-! ## Addresses and checks -/

/-- The displacement of a word that has one (R182, R327, R449). -/
def lDisp (f : LFields) : BitVec 16 := f.imm.setWidth 16

/-- The effective location of a lane (R182). ATOM has neither an index nor a displacement (R322). -/
def State.laneAddr (s : State) (f : LFields) (disp : BitVec 16) (scratch : Bool) (withB : Bool) (lane : Nat) : W64 :=
  let b : W64 := if withB then ((s.srcB f .i32 lane).setWidth 32).signExtend 64 else 0
  if scratch then
    let a : W32 := (s.srcA f .n32 lane).setWidth 32
    (a + b.setWidth 32 + disp.signExtend 32).setWidth 64
  else s.srcA f .n64 lane + b + disp.signExtend 64

/-- The active lanes with their locations. -/
def State.laneAddrs (s : State) (f : LFields) (disp : BitVec 16) (scratch withB : Bool) (act : W32) : List (Nat × W64) :=
  (lanesOf act).map fun j => (j, s.laneAddr f disp scratch withB j)

/-- The first check of R130 that a location fails, by its place in the order; a page that has to be tracked comes last (R324). -/
def State.flatFails (s : State) (e : W64) (size : Nat) (store tracked : Bool) : Option (Nat × Cause) :=
  match s.checkFlat s.core.n s.wg.ctx e size store with
  | .busy => none
  | .trap c =>
    some (if 2 ^ 54 ≤ e.toNat then 0 else if e.toNat % size ≠ 0 then 1 else if c = .xlateAbsent then 2 else 3, c)
  | .ok l => if tracked && !l.tracked then some (4, .xlatePerm) else none

/-- The first check of R131 that an offset fails. -/
def State.scratchFails (s : State) (e : W64) (size : Nat) : Option (Nat × Cause) :=
  (checkScratch s.wg.grant.scratch e size).map fun c => (if c = .misalign then 0 else 1, c)

/-- The trap of a memory word: the first check that some lane fails, the lanes that fail it, and the location of the lowest of them (R184). -/
def laneFault (fails : W64 → Option (Nat × Cause)) (es : List (Nat × W64)) : Option (Cause × W32 × W64) :=
  let bad := es.filterMap fun e => (fails e.2).map fun r => (e, r)
  (List.range 5).findSome? fun rank =>
    match bad.filter fun b => b.2.1 == rank with
    | [] => none
    | b :: r => some (b.2.2, maskWhere fun j => (b :: r).any fun x => x.1.1 == j, b.1.2)

/-- No place; a location that has passed its checks has one. -/
def noLoc : Loc := { key := 0, leaf := 0, level := 0 }

/-- Where a location that has passed its checks lies: the place found then, once it has been kept. -/
def State.locOf (s : State) (e : W64) : Loc :=
  match s.pod.lTxn.locs.find? fun x => x.1 == e with
  | some x => x.2
  | none => (s.locate s.core.n s.wg.ctx e.toNat).getD noLoc

/-- Keeps the places of a repetition's accesses: its checks are made once, before any lane accesses anything (R184). -/
def State.keepLocs (s : State) (es : List (Nat × W64)) : State :=
  let s1 := es.foldl (fun s e => let l := s.locOf e.2; s.holdLeaf s.core.n s.wg.ctx e.2.toNat (l.level, l.leaf)) s
  { s1 with pod := { s1.pod with lTxn := { s1.pod.lTxn with locs := es.map fun e => (e.2, s.locOf e.2) } } }

/-- A lane's access waits for a walk (R289, R302). -/
def State.lanesWait (s : State) (es : List (Nat × W64)) : Bool :=
  es.any fun e => decide (e.2.toNat < 2 ^ 54) && s.walkBusy s.core.n s.wg.ctx e.2.toNat

/-- The common issue of a memory word: checks at issue, then the access checks of every active lane (R184), made once for a repetition. -/
def State.memWord (s : State) (f : LFields) (disp : BitVec 16) (sp : Spans) (scratch withB : Bool) (fails : State → W64 → Option (Nat × Cause))
    (k : W32 → List (Nat × W64) → State → State) : State :=
  let act := s.active f
  s.issueL act (readRegs f sp ++ destRegs f sp.d) (oRegsOf f) (usesLatch f) fun s =>
    let es := s.laneAddrs f disp scratch withB act
    if !s.pod.lTxn.locs.isEmpty then k act es s
    else if !scratch && s.lanesWait es then s.holdL
    else match laneFault (fails s) es with
      | some (c, m, e) => s.trapL c m e s.block.rep
      | none => k act es (if scratch then s else s.keepLocs es)

/-! ## Order and scope (R183, R318) -/

def scopeOf (n : Nat) : Scope :=
  match n with
  | 0 => .pod | 1 => .wg | 2 => .dev | _ => .sys

def laneScope (f : LFields) : Scope := scopeOf (f.ctl 20 2)

/-- The release part of a word: once, before its first store. -/
def State.laneRelease (s : State) (f : LFields) (act : W32) (k : State → State) : State :=
  let o := f.ctl 22 2
  if decide (2 ≤ o) && s.block.rep == 0 && act != 0 then s.release .l 0 (laneScope f) k else k s

/-- The acquire part of a word: once, after its last load. -/
def State.laneAcquire (s : State) (f : LFields) (act : W32) : State :=
  let o := f.ctl 22 2
  if (o == 1 || o == 3) && s.block.rep == f.rep.val && act != 0 then s.acquire (laneScope f) else s

/-! ## Loads -/

/-- Notes that a lane of the word has made its access. -/
def State.laneDone (s : State) (j : Nat) (x : W64) : State :=
  { s with pod := { s.pod with lTxn := { s.pod.lTxn with replies := s.pod.lTxn.replies ++ [(j, x)] } } }

/-- Loads lane after lane, each once (R185). -/
def State.loadLanes (load : State → Loc → Ld) : List (Nat × W64) → State → (State → State) → State
  | [], s, k => k s
  | (j, e) :: r, s, k =>
    if s.pod.lTxn.replies.any fun x => x.1 == j then State.loadLanes load r s k
    else match load s (s.locOf e) with
      | .ok s bs => State.loadLanes load r (s.laneDone j (ofBytes 64 bs)) k
      | .wait s => s.holdL
      | .poison s => s.faultPod .poison

/-- The registers of a load from the values its lanes got (R182). -/
def State.loaded (s : State) (f : LFields) (sp : Spans) (act : W32) : State :=
  let xs := s.pod.lTxn.replies
  s.deliver f f.ty.wide 1 (destRegs f sp.d) act ((lanesOf act).map fun j => (j, [extendTo f.ty ((alookup j xs).getD 0)], 0)) id

def typeBytes (t : LType) : Nat := t.bits / 8

/-- LD (R182 to R185, R318). -/
def execLd (f : LFields) (s : State) : Res :=
  let sp := rowSpans rowLoad f.ty
  let n := typeBytes f.ty
  ok <| s.memWord f (lDisp f) sp false true (fun s e => s.flatFails e n false false) fun act es s =>
    State.loadLanes (fun s l => s.loadGen s.core.n (s.pod.key, .l) l n) es s fun s => (s.laneAcquire f act).loaded f sp act

/-- LDK: the constant path (R185). -/
def execLdk (f : LFields) (s : State) : Res :=
  let sp := rowSpans rowLoad f.ty
  let n := typeBytes f.ty
  ok <| s.memWord f (lDisp f) sp false true (fun s e => s.flatFails e n false false) fun act es s =>
    State.loadLanes (fun s l => s.loadK s.core.n l n) es s fun s => s.loaded f sp act

/-- The granules that hold the locations (R186). -/
def granules (es : List (Nat × W64)) : List Nat := dedup (es.map fun e => e.2.toNat / 16)

/-- LDS and LDS.fe (R182, R186). -/
def execLds (f : LFields) (s : State) : Res :=
  let sp := rowSpans rowLoadS f.ty
  let n := typeBytes f.ty
  ok <| s.memWord f (lDisp f) sp true true (fun s e => s.scratchFails e n) fun act es s =>
    let fe := f.ctl 19 1 = 1
    if fe ∧ (granules es).any fun g => NMap.get s.wg.fe g == 0 then
      ({ s with pod := { s.pod with lFe := true } } : State).holdL
    else if es.any fun e => poisoned s.wg.scratchPoison e.2.toNat n then s.faultPod .poison
    else
      let s1 := es.foldl (fun s e => s.laneDone e.1 (ofBytes 64 (NMap.bytes s.wg.scratch e.2.toNat n))) s
      let s2 : State :=
        if fe ∧ f.ctl 18 1 = 1 then { s1 with wg := { s1.wg with fe := (granules es).foldl (fun m g => NMap.set m g 0) s1.wg.fe } } else s1
      s2.loaded f sp act

/-! ## Stores -/

/-- The bytes that a lane stores. -/
def State.laneBytes (s : State) (f : LFields) (lane : Nat) : List Byte := toBytes (s.srcC f f.ty lane) (typeBytes f.ty)

/-- Stores lane after lane, each once; a later lane wins a shared byte (R185). -/
def State.storeLanes (f : LFields) : List (Nat × W64) → State → (State → State) → State
  | [], s, k => k s
  | (j, e) :: r, s, k =>
    if s.pod.lTxn.replies.any fun x => x.1 == j then State.storeLanes f r s k
    else match s.storeGen s.core.n s.curJob (s.locOf e) (s.laneBytes f j) with
      | none => s.holdL
      | some s => State.storeLanes f r (s.laneDone j 0) k

/-- The bytes that the lanes write, by line, the highest lane winning (R185, R328). -/
def State.laneLines (s : State) (f : LFields) (es : List (Nat × W64)) : List (Nat × LineBytes) :=
  let all := es.map fun e => ((s.locOf e.2), s.laneBytes f e.1)
  (dedup (all.map fun x => x.1.line)).map fun line =>
    (line, (all.filter fun x => x.1.line == line).foldl (fun m x => (lineSpan x.1.key x.2).foldl (fun m b => ainsert b.1 b.2 m) m) [])

/-- A lane word without a destination goes on (R32). -/
def State.noResult (s : State) (f : LFields) (act : W32) : State := s.nextRep f.h f.rep.val act

/-- ST (R182 to R185, R318). -/
def execSt (f : LFields) (s : State) : Res :=
  let sp := rowSpans rowStore f.ty
  let n := typeBytes f.ty
  ok <| s.memWord f (lDisp f) sp false true (fun s e => s.flatFails e n true false) fun act es s =>
    s.laneRelease f act fun s =>
      State.storeLanes f es s fun s =>
        let sc := laneScope f
        let s := s.mapCore s.core.n (·.coverMarks (s.laneLines f es))
        let own := (s.laneLines f es).filter fun x => es.any fun e => (s.locOf e.2).line == x.1 && (s.locOf e.2).tracked
        if decide (2 ≤ f.ctl 22 2) && decide (2 ≤ f.ctl 20 2) && act != 0 then
          s.awaitPub .l 2 (fun s => s.publish s.core.n own) (fun s => !(sc == .sys) || s.farAcked s.core.n) fun s => s.noResult f act
        else s.noResult f act

/-- STS and STS.fe (R182, R186): lanes store in ascending order. -/
def execSts (f : LFields) (s : State) : Res :=
  let sp := rowSpans rowStoreS f.ty
  let n := typeBytes f.ty
  ok <| s.memWord f (lDisp f) sp true true (fun s e => s.scratchFails e n) fun act es s =>
    let s0 := es.foldl (fun s e => s.storeScratch e.2.toNat (s.laneBytes f e.1)) s
    let s1 : State := { s0 with wg := s0.wg.covered (es.flatMap fun e => (List.range n).map (e.2.toNat + ·)) }
    let s2 : State :=
      if f.ctl 19 1 = 1 then { s1 with wg := { s1.wg with fe := (granules es).foldl (fun m g => NMap.set m g 1) s1.wg.fe } } else s1
    s2.noResult f act

/-! ## ATOM (R322, R324) -/

def atomOpOf (f : LFields) : AtomOp := (AtomOp.ofCode (f.ctl 15 4)).getD .add

/-- The requests of one repetition, one for each line, its lanes ascending (R324). -/
def State.atomRequests (s : State) (f : LFields) (es : List (Nat × W64)) : List (AtomicReq × Loc) :=
  let item := fun (e : Nat × W64) =>
    AtomItem.mk e.1 (s.locOf e.2).key (s.srcB f f.ty e.1) (if atomOpOf f = .cas then s.srcC f f.ty e.1 else 0)
  (dedup (es.map fun e => (s.locOf e.2).line)).map fun line =>
    let mine := es.filter fun e => (s.locOf e.2).line == line
    (⟨s.core.n, s.pod.key, .l, line, atomOpOf f, f.ty, mine.map item⟩, (mine.map fun e => s.locOf e.2).headD noLoc)

/-- Sends requests in turn while the pod lives (R404). -/
def State.sendEach {α : Type} (send : State → α → State) (k : PodKey) : List α → State → State
  | [], s => s
  | r :: rs, s => if s.pod.live && s.pod.key == k then State.sendEach send k rs (send s r) else s

/-- The word is complete: old values to the destination (R322), the acquire part before. -/
def State.endAtom (s : State) (f : LFields) (sp : Spans) (act : W32) : State :=
  let s1 := s.laneAcquire f act
  let xs := s1.pod.lTxn.replies
  if f.dest = .none then s1.noResult f act
  else s1.deliver f f.ty.wide 1 (destRegs f sp.d) act ((lanesOf act).map fun j => (j, [(alookup j xs).getD 0], 0)) id

/-- The spans of an ATOM (R322). -/
def atomSpans (f : LFields) : Spans :=
  { d := wideSpan f.ty.wide, a := some (if f.ctl 19 1 = 1 then 0 else 1), b := some (wideSpan f.ty.wide)
    c := if atomOpOf f = .cas then some (wideSpan f.ty.wide) else none }

/-- ATOM (R322, R324): phase 4 marks that its requests have been sent. -/
def execAtom (f : LFields) (s : State) : Res :=
  let sp := atomSpans f
  let n := typeBytes f.ty
  let scratch := decide (f.ctl 19 1 = 1)
  ok <| s.memWord f 0 sp scratch false (fun s e => if scratch then s.scratchFails e n else s.flatFails e n true true) fun act es s =>
    let done := fun (s : State) => s.endAtom f sp act
    if s.pod.lTxn.phase = 4 then if s.pod.lTxn.outstanding ≠ 0 then s.holdL else done s
    else s.laneRelease f act fun s =>
      if es.isEmpty then done s
      else if scratch then
        if es.any fun e => poisoned s.wg.scratchPoison e.2.toNat n then s.faultPod .poison
        else
          done (es.foldl (fun s e =>
            let x := natOfBytes (NMap.bytes s.wg.scratch e.2.toNat n)
            let y := atomNew (atomOpOf f) f.ty x (s.srcB f f.ty e.1).toNat (s.srcC f f.ty e.1).toNat
            (s.storeScratch e.2.toNat (toBytes (BitVec.ofNat 64 y) n)).laneDone e.1 (BitVec.ofNat 64 x)) s.closeCoat)
      else
        let s2 := s.setTxn .l { s.pod.lTxn with phase := 4, replies := [], outstanding := 0 }
        let s3 := State.sendEach (fun s (r : AtomicReq × Loc) => s.sendAtomic r.1 r.2) s.pod.key (s.atomRequests f es) s2
        if !(s3.pod.live && s3.pod.key == s.pod.key) then s3
        else if s3.pod.lTxn.outstanding ≠ 0 then s3.holdL
        else done s3

/-! ## DAUB (R327, R328) -/

/-- The cores that a DAUB names, numbered over the device (R327). -/
def daubTargets (die mode w : Nat) (b : W64) : List Nat :=
  match mode with
  | 0 => if b.toNat % 2 ^ 32 < 72 then [72 * die + b.toNat % 2 ^ 32] else []
  | 1 => if b.toNat % 2 ^ 32 < 18 then (List.range 4).map fun i => 72 * die + 4 * (b.toNat % 2 ^ 32) + i else []
  | _ => ((List.range 64).filter fun i => b.getLsbD i && decide (8 * w + i < 72)).map fun i => 72 * die + 8 * w + i

def daubSpans (f : LFields) : Spans := { a := some 1, b := some (if f.ctl 18 2 = 2 then 1 else 0), c := some (wideSpan f.ty.wide) }

/-- DAUB (R327, R328): phase 4 marks that its daubs have been sent. -/
def execDaub (f : LFields) (s : State) : Res :=
  let n := typeBytes f.ty
  let mode := f.ctl 18 2
  ok <| s.memWord f (lDisp f) (daubSpans f) false false (fun s e => s.flatFails e n true true) fun act es s =>
    if s.pod.lTxn.phase = 4 then if s.pod.lTxn.outstanding ≠ 0 then s.holdL else s.noResult f act
    else s.laneRelease f act fun s =>
      if es.isEmpty then s.noResult f act
      else
        let b := if mode = 2 then s.srcB f .n64 0 else s.srcB f .n32 0
        let targets := daubTargets (dieOf s.core.n) mode (f.ctl 17 1) b
        let reqs := (s.laneLines f es).map fun x =>
          (DaubReq.mk s.core.n s.pod.key x.1 x.2 targets, ((es.find? fun e => (s.locOf e.2).line == x.1).map fun e => s.locOf e.2).getD noLoc)
        let s2 := s.setTxn .l { s.pod.lTxn with phase := 4, replies := [], outstanding := 0 }
        let s3 := State.sendEach (fun s (r : DaubReq × Loc) => s.sendDaub r.1 r.2) s.pod.key reqs s2
        if s3.pod.lTxn.outstanding ≠ 0 then s3.holdL else s3.noResult f act

/-! ## WST (R449 to R451) -/

/-- One wet-store message leaves the core: it joins the epoch that stands (R451). -/
def State.sendWet (s : State) (g : Nat) (line : Nat) (bs : LineBytes) : State :=
  let ctx := s.wg.ctx
  let x := s.groupOf ctx g
  let dev := if lineRemote line then lineDev line else s.dev
  let y : Group := { x with counts := ainsert dev ((alookup dev x.counts).getD 0 + 1) x.counts }
  let s1 : State :=
    { s with groups := if s.groups.any (fun z => z.ctx == ctx && z.group == g) then
        updateFirst (fun z => z.ctx == ctx && z.group == g) (fun _ => y) s.groups else s.groups ++ [y] }
  let s2 := s1.mapLaunch s.wg.launch fun l => { l with wetGroups := if l.wetGroups.contains (ctx, g) then l.wetGroups else l.wetGroups ++ [(ctx, g)] }
  let key : SetKey := ⟨s.dev, ctx, g, x.epoch⟩
  s2.sendSet dev (.wet key (line % spaceLines) bs) (.wetStoreMessage key line bs) key

/-- WST (R449): irrevocable, and never waits for the hawk (R386, R450). -/
def execWst (f : LFields) (s : State) : Res :=
  let sp := rowSpans rowStore f.ty
  let n := typeBytes f.ty
  ok <| s.memWord f (lDisp f) sp false true (fun s e => s.flatFails e n true true) fun act es s =>
    let s1 := if es.isEmpty then s else s.closeCoat
    let s2 := es.foldl (fun s e => s.touchHome (s.locOf e.2)) s1
    ((s2.laneLines f es).foldl (fun s x => s.sendWet (f.ctl 16 6) x.1 x.2) s2).noResult f act

end Sys2Proof.Machine
end

