-- ==== Sys2Proof/Machine/LanePair.lean ====
section
/-! DEFINITION. Paired words (R91 to R96, R102, R147). -/

namespace Sys2Proof.Machine

/-- What a half computes in one lane: integer halves wrap, floating halves round as dyn (R94, R147); an immediate source of a CVT half has its value in the source type (DEDUCED, log entry 77). -/
def State.halfValue (s : State) (x : Half) (j : Nat) : W64 × Flags :=
  let t := x.ty
  let a := s.source 0 (if x.op = .cvt then x.src else t) 0 x.a j
  let b := s.source 0 t 0 x.b j
  let n := (s.source 0 .n32 0 x.b j).toNat
  let ia := intOf t a
  let ib := intOf t b
  let va := valOf t a
  let vb := valOf t b
  let m := s.binRnd .dyn
  let int := fun (r : Int) => ((intResult t r, 0) : W64 × Flags)
  let word := fun (g : (w : Nat) → BitVec w → BitVec w) => ((extendTo t ((g t.bits (a.setWidth t.bits)).setWidth 64), 0) : W64 × Flags)
  match x.op with
  | .iadd => int (ia + ib)
  | .isub => int (ia - ib)
  | .imul => int (ia * ib)
  | .imin => int (min ia ib)
  | .imax => int (max ia ib)
  | .iabs => int (Int.ofNat ia.natAbs)
  | .ineg => int (-ia)
  | .and => (extendTo t (a &&& b), 0)
  | .or => (extendTo t (a ||| b), 0)
  | .xor => (extendTo t (a ^^^ b), 0)
  | .not => word fun _ y => ~~~y
  | .shl => word fun _ y => shl y n
  | .shr => word fun _ y => shr y n
  | .sra => word fun _ y => sra y n
  | .rot => word fun _ y => rot y n
  | .clz => word fun w y => BitVec.ofNat w (clz y)
  | .popc => word fun w y => BitVec.ofNat w (popc y)
  | .brev => word fun _ y => y.reverse
  | .mov => (extendTo t a, 0)
  | .lidx => (BitVec.ofNat 64 j, 0)
  | .fadd => binOut t m (va.add m vb)
  | .fsub => binOut t m (va.add m vb.negate)
  | .fmul => binOut t m (va.mul vb)
  | .fmin => pick t false a b
  | .fmax => pick t true a b
  | .frnd => roundIntegral t m va
  | .cvt => convert t m false x.src a

def halfLatch (x : Half) : Bool := isLatch x.a || isLatch x.b

/-- o registers that a half names. -/
def halfO (x : Half) : List Nat :=
  let of := fun (y : Src) => match y with
    | .o n => [n, n + 1]
    | _ => []
  of x.a ++ of x.b ++ (match x.dest with
    | .o n => [n, n + 1]
    | _ => [])

/-- A paired word (R96): both halves read before either writes; an enabled exception of either cancels both. -/
def execPairedWord (h : Bool) (x y : Half) (s : State) : Res :=
  let ax := s.select x.k.val x.neg
  let ay := s.select y.k.val y.neg
  ok <| s.issueL (ax ||| ay) (x.vReads ++ y.vReads ++ x.vDests ++ y.vDests) (halfO x ++ halfO y) (halfLatch x || halfLatch y) fun s =>
    let rx := (lanesOf ax).map fun j => (j, s.halfValue x j)
    let ry := (lanesOf ay).map fun j => (j, s.halfValue y j)
    match enabledTrap s.pod.ten ((rx ++ ry).map fun r => (r.1, r.2.2)) with
    | some (c, m) => s.trapL c m 0 s.block.rep
    | none =>
      let s1 := s.coatV (x.vDests ++ y.vDests)
      let p1 := rx.foldl (fun p r => p.writeDest x.dest x.ty.wide r.1 r.2.1) s1.pod
      let p2 := ry.foldl (fun p r => p.writeDest y.dest y.ty.wide r.1 r.2.1) p1
      let b := shiftLatch (shiftLatch p2.b (rx.map fun r => (r.1, r.2.1))) (ry.map fun r => (r.1, r.2.1))
      let flags := (rx ++ ry).foldl (fun e r => e ||| r.2.2) p2.fsr
      ({ s1 with pod := { p2 with b := b, fsr := flags } } : State).nextRep h 0 0

end Sys2Proof.Machine
end

