-- ==== Sys2Proof/Machine/Mgmt.lean ====
section
/-! DEFINITION. Resets and bring-up, the mailbox, firmware, power, security, debug and soft errors (R403, R404, R473 to R489). -/

namespace Sys2Proof.Machine

def State.setSkepin (s : State) (k : Skepin) : State := { s with skepin := k }

/-! ## Resets and bring-up -/

/-- Everything but Skepin as reset leaves it: the host's memory, what stands at the ports and the numbering of the free values are not the device's (R473). -/
def State.cleared (s : State) (k : Skepin) : State :=
  { State.reset with
    skepin := k
    mem := s.mem.filter fun e => decide (Config.hostBase ≤ e.1) && decide (e.1 < spaceBytes)
    agenda := s.agenda, outbox := s.outbox, freeCount := s.freeCount }

/-- What flash and fuses hold across a loss of power: the image, the security state, the log's serial number, set decisions and the last thermal trip (R473, R477). -/
def Skepin.flash (k : Skepin) : Skepin :=
  { Skepin.reset with
    version := k.version, svn := k.svn, fuse := k.fuse, imageOk := k.imageOk, sec := k.sec, decisions := k.decisions
    trip := k.trip, serial := k.serial, log := k.decisions }

/-- Power applied (R473). -/
def execColdReset (s : State) : Res := ok (s.cleared s.skepin.flash)

/-- The wet lines of prepared sets outlast a warm reset of the device that holds them: they are resolved as R454 says (R452). -/
def State.keepPrepared (s t : State) : State :=
  let hawk := s.hawk.filter fun h => h.prepared.isSome && h.pub.isNone
  { t with hawk := hawk.map fun h => { h with prepared := some 0 }, wet := s.wet.filter fun w => hawk.any fun h => h.key == w.key }

/-- A warm reset of the arithmetic part: bring-up goes on with step 4, and never with an image that was not verified (R473, R474, R481). -/
def State.warm (s : State) : State :=
  if s.skepin.pwr = .off then s
  else if !s.skepin.verified then s.cleared s.skepin
  else s.keepPrepared <| s.cleared { s.skepin with stage := 3, ready := false, recovery := false, failed := false, causes := [], pwr := .p0, idleSince := 0, p1Since := 0 }

def execWarmReset (s : State) : Res := ok s.warm

/-- Skepin's watchdog resets Skepin's processor: nothing that this model holds (R473). -/
def execSkepinReset (s : State) : Res := ok s

/-- Bring-up is still under way (R474). -/
def Skepin.rising (k : Skepin) : Bool :=
  decide (k.stage < 7) && !k.recovery && !k.failed && k.pwr != .off

/-- The thermal-trip entry put back into the log (R477). -/
def Skepin.restoreTrip (k : Skepin) : Skepin :=
  match k.trip with
  | some e => if k.log.any fun x => x.serial == e.serial && x.code == 0x0B then k else { k with log := k.log ++ [e] }
  | none => k

/-- A bring-up step ends, with success or not (R474, R481); step 2 verifies the image. -/
def execBringUpStep (good : Bool) (s : State) : Res :=
  ok <|
    let k := s.skepin
    if !k.rising then s
    else
      let n := k.stage + 1
      if n = 2 ∧ ¬(good = true ∧ k.imageOk = true) then s.setSkepin { k with stage := 2, recovery := true }
      else if !good then (s.log 0x0E noCtx [n]).setSkepin { (s.log 0x0E noCtx [n]).skepin with stage := n, failed := true }
      else if n = 2 then s.setSkepin { k with stage := 2, verified := true }
      else if n = 3 then s.setSkepin ({ k with stage := 3 } : Skepin).restoreTrip
      else if n = 5 then s.setSkepin { k with stage := 5, pwr := .p0 }
      else s.setSkepin { k with stage := n, ready := decide (n = 7) }

/-! ## Power -/

/-- The codes of the power states in a log entry (R475, R477): Off is 3. -/
def pwrCode : Pwr → Nat
  | .p0 => 0 | .p1 => 1 | .idle => 2 | .off => 3

/-- The codes of the causes in a log entry. -/
def p1CauseCode : P1Cause → Nat
  | .power => 1 | .temperature => 2 | .host => 3

/-- Moves to a power state and logs it (R477). -/
def State.toPower (s : State) (p : Pwr) (cause : Nat) : State :=
  if s.skepin.pwr = p then s
  else (s.log 0x0A noCtx [pwrCode s.skepin.pwr, pwrCode p, cause]).setSkepin { (s.log 0x0A noCtx [pwrCode s.skepin.pwr, pwrCode p, cause]).skepin with pwr := p }

/-- A cause of P1 is seen (R484). -/
def State.p1Enter (s : State) (c : P1Cause) : State :=
  if s.skepin.pwr = .p0 ∨ s.skepin.pwr = .p1 then
    (s.setSkepin { s.skepin with causes := if s.skepin.causes.contains c then s.skepin.causes else s.skepin.causes ++ [c], p1Since := s.cycle }).toPower .p1
      (p1CauseCode c)
  else s

def execP1Entry (c : P1Cause) (s : State) : Res := ok (s.p1Enter c)

/-- Cycles of 10 ms at 1.8 GHz (R484, R485). -/
def p1Cycles : Nat := 18000000

/-- P1 ends after 10 ms without a cause (R485). -/
def execP1Exit (s : State) : Res :=
  ok <|
    if s.skepin.pwr = .p1 ∧ p1Cycles ≤ s.since s.skepin.p1Since then
      (s.setSkepin { s.skepin with causes := [] }).toPower .p0 0
    else s

/-- Nothing is resident, untaken or open (R484). -/
def State.quiet (s : State) : Bool :=
  !(s.allWgs.any fun w => w.resident) && !(s.rings.any fun r => r.head != r.tail) && !(s.allCores.any fun c => !c.jobs.isEmpty)
  && s.rounds.isEmpty

def idleCycles : Nat := 270000

/-- Idle is entered after 270,000 quiet cycles, when the host allows it (R484). -/
def execIdleEntry (s : State) : Res :=
  ok <|
    if s.skepin.idleOk && s.quiet && decide (idleCycles ≤ s.since s.skepin.idleSince) && (s.skepin.pwr == .p0 || s.skepin.pwr == .p1)
        && s.skepin.ready then s.toPower .idle 0
    else s

/-- A doorbell, a UALink request or a host access leaves Idle for P0 (R485). -/
def execIdleExit (s : State) : Res := ok s.wake

/-- Off: every context is lost (R484, R486); only a cold reset goes on from here. -/
def State.powerOff (s : State) (cause : Nat) : State :=
  if s.skepin.pwr = .off then s
  else
    let t := s.toPower .off cause
    t.cleared { t.skepin with ready := false }

/-- A sector reaches 115 °C (R486). -/
def execThermalTrip (sector : Fin 12) (temp : W32) (s : State) : Res :=
  ok <|
    if s.skepin.pwr = .off then s
    else
      let t := s.log 0x0B noCtx [sector.val, temp.toNat]
      (t.setSkepin { t.skepin with trip := t.skepin.log.getLast? }).powerOff 2

def execPowerRemoved (s : State) : Res := ok (s.powerOff 1)

/-! ## The mailbox -/

/-- A mailbox command (R475): op and arg stand in MB_CMD, go clears as it ends. BAR0 is there from step 6 on, and in recovery for 0x03 and 0x04 alone (R474, R481). -/
def State.command (s : State) (op : Nat) (arg : Byte) (f : State → State × Nat) : State :=
  let k := s.skepin
  let answer := fun (t : State) (r : Nat) =>
    t.setSkepin { t.skepin with op := BitVec.ofNat 8 op, arg := arg, go := false, result := BitVec.ofNat 8 r }
  if k.pwr = .off then s
  else if k.recovery then
    if op = 3 ∨ op = 4 then answer (f s).1 (f s).2 else answer s 2
  else if k.stage < 6 ∨ k.failed then s
  else answer (f s).1 (f s).2

/-- Bytes of words, for the window. -/
def wordBytes (xs : List W32) : List Byte := xs.flatMap fun (x : W32) => toBytes x 4

/-- Command 0x01 (R476): sensors give the words 0 to 44, Skepin's counters the rest. -/
def execSensors (readings : List W32) (s : State) : Res :=
  ok <| s.command 1 0 fun s =>
    let ws : List W32 := (List.range 45).map (fun i => readings.getD i 0) ++ (List.range 19).map (fun i => s.skepin.counts.getD i 0)
    (s.setSkepin { s.skepin with readings := readings, window := NMap.setBytes [] 0 (wordBytes ws) }, 0)

/-- The 16 bytes of an entry's detail (R477): its items in their order, four bytes each; those of code 0x10, ring and opcode in two bytes, the address in eight, the cause in four (log entry 88). -/
def LogEntry.detailBytes (e : LogEntry) : List Byte :=
  let item := fun (i : Nat) => e.detail.getD i 0
  if e.code = 0x10 then toBytes ((item 0).setWidth 16) 2 ++ toBytes ((item 1).setWidth 16) 2 ++ wordBytes [item 2, item 3, item 4]
  else wordBytes [item 0, item 1, item 2, item 3]

/-- The 32 bytes of a log entry (R477). -/
def LogEntry.bytes (e : LogEntry) : List Byte :=
  toBytes e.time 8 ++ toBytes e.serial 4 ++ toBytes (BitVec.ofNat 16 e.code) 2 ++ toBytes (BitVec.ofNat 16 e.ctx) 2 ++ e.detailBytes

/-- Command 0x02 (R476): 128 entries of the log. -/
def execEventLog (arg : Byte) (s : State) : Res :=
  ok <| s.command 2 arg fun s =>
    if 31 < arg.toNat then (s, 1)
    else
      let es := (s.skepin.log.drop (128 * arg.toNat)).take 128
      (s.setSkepin { s.skepin with window := NMap.setBytes [] 0 (es.flatMap fun (e : LogEntry) => e.bytes) }, 0)

/-- Command 0x03 (R480): one window of the image. -/
def execImageChunk (arg : Byte) (s : State) : Res :=
  ok <| s.command 3 arg fun s =>
    (s.setSkepin { s.skepin with staged := NMap.setBytes s.skepin.staged (4096 * arg.toNat) (NMap.bytes s.skepin.window 0 4096) }, 0)

/-- Command 0x04 (R479, R480): the staged image, as its header and the checks of its signatures find it. In recovery a warm reset follows (R481). -/
def execImageCommit (img : ImageHeader) (s : State) : Res :=
  ok <| s.command 4 0 fun s =>
    let k := s.skepin
    if !(img.lengthOk && img.ed25519 && img.mlDsa) then (s, 3)
    else if img.svn < k.fuse then (s, 4)
    else
      let t := (s.setSkepin { k with version := img.version, svn := img.svn, fuse := max k.fuse img.svn, imageOk := true, verified := k.verified || k.recovery }).log 0x0C noCtx
        [img.version, img.svn]
      (if k.recovery then t.send .warmReset else t, 0)

/-- Command 0x05 (R484). -/
def execPowerRequest (arg : Byte) (s : State) : Res :=
  ok <| s.command 5 arg fun s =>
    match arg.toNat with
    | 0 => (s.setSkepin { s.skepin with idleOk := false }, 0)
    | 1 => (s.p1Enter .host, 0)
    | 2 => (s.setSkepin { s.skepin with idleOk := true, idleSince := if s.skepin.idleOk then s.skepin.idleSince else s.cycle }, 0)
    | _ => (s, 1)

def dbgCode : Dbg → Nat
  | .none => 0 | .halt => 1 | .trace => 2
def secCode : Sec → Nat
  | .factory => 0 | .sealed => 1 | .ownerOpen => 2

/-- Sets the debug state; a change is logged (R489). -/
def State.setDebug (s : State) (d : Dbg) : State :=
  if s.skepin.dbg = d then s
  else
    let t := s.log 0x0D noCtx [dbgCode s.skepin.dbg, dbgCode d]
    t.setSkepin { t.skepin with dbg := d }

/-- Sets the security state; a change to Sealed first sets debug to none (R489). -/
def State.setSec (s : State) (c : Sec) : State :=
  if s.skepin.sec = c then s
  else
    let s := if c = .sealed then s.setDebug .none else s
    let t := s.log 0x0D noCtx [secCode s.skepin.sec, secCode c]
    t.setSkepin { t.skepin with sec := c }

/-- Command 0x06 (R489): arg names the state, token says that the owner's token verifies. -/
def execSecurityState (arg : Byte) (token : Bool) (s : State) : Res :=
  ok <| s.command 6 arg fun s =>
    if 2 < arg.toNat then (s, 1)
    else if arg.toNat = 0 ∨ s.skepin.sec = .factory then (s, 2)
    else if !token then (s, 3)
    else (s.setSec (if arg.toNat = 1 then .sealed else .ownerOpen), 0)

/-- Command 0x07 (R487): the debug states but none are not reachable in Sealed. -/
def execDebugState (arg : Byte) (s : State) : Res :=
  ok <| s.command 7 arg fun s =>
    if 2 < arg.toNat then (s, 1)
    else if s.skepin.sec = .sealed ∧ arg.toNat ≠ 0 then (s, 2)
    else (s.setDebug (if arg.toNat = 0 then .none else if arg.toNat = 1 then .halt else .trace), 0)

/-- Command 0x08 (R473). -/
def execWarmResetCommand (s : State) : Res :=
  ok <| s.command 8 0 fun s => (s.send .warmReset, 0)

/-- Factory becomes Sealed once, at manufacture (R489). -/
def execSealAtManufacture (s : State) : Res :=
  ok (if s.skepin.sec = .factory then s.setSec .sealed else s)

/-- A host write to MB_CMD (R475), whose reserved bits count as 0 (R6): the command that it starts, with its operands from the window; an op that is no command ends with result 1, and a write without go only sets op and arg (log entry 86). -/
def State.mailbox (s : State) (x : W32) : Res :=
  let op := x.setWidth 8
  let arg := (x >>> 8).setWidth 8
  if !x.getLsbD 31 then ok (s.setSkepin { s.skepin with op := op, arg := arg })
  else match op.toNat with
    | 1 => execSensors ((List.range 45).map fun i => Config.sensor s.freeCount i) s
    | 2 => execEventLog arg s
    | 3 => execImageChunk arg s
    | 4 =>
      let h := Config.stagedImage s.skepin.staged
      execImageCommit { version := h.1, svn := h.2.1, lengthOk := h.2.2.1, ed25519 := h.2.2.2.1, mlDsa := h.2.2.2.2 } s
    | 5 => execPowerRequest arg s
    | 6 => execSecurityState arg (Config.ownerToken s.skepin.window) s
    | 7 => execDebugState arg s
    | 8 => execWarmResetCommand s
    | n => ok (s.command n arg fun s => (s, 1))

/-- A host write of 8 bytes to BAR0 (R6): MB_CMD (R475) in its low half; the bytes that lie in the mailbox window (R475); the registers of ring 0 (R463) and the doorbells (R461) at their own offsets; a write that names no register changes nothing. The width and what an offset inside a register does are the model's (log entry 86). -/
def execRegisterWrite (offset : BitVec 20) (x : W64) (s : State) : Res :=
  let o := offset.toNat
  if o = 0x80000 then s.mailbox (x.setWidth 32)
  else if 0x81000 < o + 8 ∧ o < 0x82000 then
    ok (s.setSkepin { s.skepin with window := NMap.setMany s.skepin.window (((withIndex (toBytes x 8)).filter fun b =>
      decide (0x81000 ≤ o + b.1) && decide (o + b.1 < 0x82000)).map fun b => (o + b.1 - 0x81000, b.2)) })
  else if o = 0x800 then execAdmBaseWrite x s
  else if o = 0x808 then execAdmHeadWrite x s
  else if o = 0x810 then execAdmCfgWrite (x.setWidth 32) s
  else if h : 0x1000 ≤ o ∧ o < 0x1800 ∧ o % 8 = 0 then execDoorbell ⟨(o - 0x1000) / 8, by omega⟩ (x.setWidth 32) s
  else ok s

/-- MB_STAT (R475). -/
def Skepin.stat (k : Skepin) : W32 :=
  BitVec.ofNat 32 (k.ready.toNat * 2 ^ 31 + k.stage * 2 ^ 28 + secCode k.sec * 2 ^ 26 + dbgCode k.dbg * 2 ^ 24 + pwrCode k.pwr * 2 ^ 22 + k.result.toNat)

/-- What a host read of the 32 bits at an offset of BAR0, a multiple of 4, answers: the registers with their reserved bits 0, and 0 where no register stands (R6, R463, R475); a doorbell answers its ring's tail (log entry 86). The read changes nothing. -/
def State.barRead (s : State) (o : Nat) : W32 :=
  if o = 0x800 then s.adm.base.setWidth 32
  else if o = 0x804 then (s.adm.base >>> 32).setWidth 32
  else if o = 0x808 then s.adm.head.setWidth 32
  else if o = 0x80C then (s.adm.head >>> 32).setWidth 32
  else if o = 0x810 then BitVec.ofNat 32 (s.adm.en.toNat * 2 ^ 31 + s.adm.k.toNat * 2 ^ 16 + s.adm.q.toNat)
  else if o = 0x80000 then BitVec.ofNat 32 (s.skepin.go.toNat * 2 ^ 31 + s.skepin.arg.toNat * 2 ^ 8 + s.skepin.op.toNat)
  else if o = 0x80004 then s.skepin.stat
  else if 0x81000 ≤ o ∧ o < 0x82000 then ofBytes 32 (NMap.bytes s.skepin.window (o - 0x81000) 4)
  else if 0x1000 ≤ o ∧ o < 0x1800 ∧ o % 8 = 0 then ((s.ringBy ((o - 0x1000) / 8)).map fun r => r.tail).getD 0
  else 0

/-! ## Attestation and link encryption -/

/-- SPDM (R482): the answer leaves with both signatures; a key exchange opens a session. -/
def execSpdmRequest (r : SpdmReq) (s : State) : Res :=
  ok <|
    if s.skepin.pwr = .off ∨ s.skepin.stage < 6 then s
    else (s.out (.spdm r)).setSkepin { s.skepin with spdm := if r = .keyExchange then s.skepin.spdm + 1 else s.skepin.spdm }

/-- IDE keys are set inside an SPDM session (R483). -/
def execIdeKm (s : State) : Res :=
  ok (if s.skepin.spdm = 0 then s else s.setSkepin { s.skepin with ide := true })

/-! ## The debugger -/

/-- The pod that a debugger's access names (R488). -/
def debugKey : DebugOp → PodKey
  | .readS p _ => p | .writeS p _ _ => p | .readV p _ _ => p | .writeV p _ _ _ => p | .resume p => p

/-- What the debugger does to a pod (R488): scalar registers outside the bank, lane registers, and the resumption behind the BRK. -/
def State.debugDo (s : State) (o : DebugOp) : State :=
  match o with
  | .readS p r => match s.podBy p with
    | some q => s.out (.debug p (if r.val = 0 then 0 else if q.banked r.val then NMap.get q.bankS r.val else NMap.get q.s r.val))
    | none => s
  | .writeS p r x => s.mapPod p fun q =>
      if r.val = 0 then q
      else if q.banked r.val then { q with bankS := NMap.set q.bankS r.val x } else { q with s := NMap.set q.s r.val x }
  | .readV p r lane => match s.podBy p with
    | some q => s.out (.debug p ((NMap.get q.v (r.val * 32 + lane.val)).setWidth 64))
    | none => s
  | .writeV p r lane x => s.mapPod p fun q => { q with v := NMap.set q.v (r.val * 32 + lane.val) x }
  | .resume p => s.mapPod p fun q => { q with halted := false, pc := q.pc + 4, held := .none }

/-- A debugger's access (R487, R488): in halt-debug, to a halted pod; it leaves Idle. -/
def execDebuggerAccess (o : DebugOp) (s : State) : Res :=
  ok <|
    if s.skepin.dbg ≠ .halt then s
    else
      let s := s.wake
      match s.podBy (debugKey o) with
      | some q => if q.halted then s.debugDo o else s
      | none => s

/-! ## Soft errors -/

/-- The HBM4E stack of a sector of physical memory, numbered over the device: block b of 4 KiB lies on stack b mod 3 of its die (R283). -/
def stackOf (sector : Nat) : Nat := dieOfPhys (sector * 32) * 3 + sector / 128 % 3

/-- The place of a block's counter among the words 45 to 62 (R476); a link has none. -/
def eccIndex (blk : EccBlock) (sector : Nat) : Option Nat :=
  match blk with
  | .l1 => some 0 | .scratch => some 1 | .regs => some 2 | .l2 | .stash | .hawk | .pipe => some 3 | .shelf => some 4 | .hub => some 5
  | .hbm => some (6 + stackOf sector)
  | .link => none

/-- Adds one to a counter, which saturates (R476). -/
def bumpCount (cs : List W32) (i : Nat) : List W32 :=
  (List.range 19).map fun j =>
    let x := cs.getD j 0
    if j = i then (if x = BitVec.allOnes 32 then x else x + 1) else x

/-- An image with one more sector marked. -/
def markImage (img : List Byte) (i : Nat) : List Byte := if img.isEmpty then img else img.take 128 ++ [img.getD 128 0 ||| BitVec.ofNat 8 (2 ^ i)]

/-- A mark added to a map, where there is data to mark. -/
def markIf (here : Bool) (m : NMap 1) (k : Nat) : Option (NMap 1) := if here then some (NMap.set m k 1) else none

/-- Marks a sector of a line of physical memory at its acting home (R404, R413). -/
def State.markHome (s : State) (sector : Nat) : State := { s with poison := NMap.set s.poison sector 1 }

/-- The payload of a message that crosses a die link arrives poisoned (R404, R410): sector i of the line that it carries. -/
def State.markMsg (s : State) (n i : Nat) : Option (Nat × State) :=
  let put := fun (line : Nat) (m : Msg) => some (line, ({ s with inflight := setAt s.inflight n m } : State))
  match s.inflight[n]? with
  | some (.fillReply core line img m) => if dieOf core ≠ s.homeDie line then put line (.fillReply core line (markImage img i) m) else none
  | some (.daubCopy core line q img p) => if dieOf core ≠ s.homeDie line then put line (.daubCopy core line q (markImage img i) p) else none
  | some (.relayedCopy d line q img p ts) => put line (.relayedCopy d line q (markImage img i) p ts)
  | some (.writeBack core line bs bad) => if dieOf core ≠ s.homeDie line then put line (.writeBack core line bs (bad ++ [i])) else none
  | some (.pendingBytes pub line) =>
    if (s.pubs.find? fun p => p.id == pub).any fun p => dieOf p.core != s.homeDie line then
      some (line, { s with pubs := s.pubs.map fun p =>
        if p.id = pub then { p with parts := p.parts.map fun q => if q.line = line then { q with bad := q.bad ++ [i] } else q } else p })
    else none
  | some (.ownerBytes _ line _) => some (line, s.markHome (line * 4 + i))
  | some (.recalledPart _ line _) => some (line, s.markHome (line * 4 + i))
  | _ => none

/-- Marks the sector at a place of a block poisoned (R404), where the block holds data there: memory by physical sector; an L1, a stash and a shelf by core and sector; a scratchpad by core and sector; tiles and accumulators by workgroup and sector; a hawk by sector; a pipe slot by its position among the tiles held. The first component is the sector's physical address over 32, where it has one. -/
def State.markSector (s : State) (blk : EccBlock) (place : Nat) : Option (Option Nat × State) :=
  let n := place % Config.cores
  let x := place / Config.cores
  let c := s.coreBy n
  match blk with
  | .l1 => (markIf ((c.lineOf (x / 4)).any fun l => l.bytes.any fun b => b.1 / 32 == x % 4) c.l1Poison x).map fun m =>
      (some x, s.mapCore n fun c => { c with l1Poison := m })
  | .stash => (markIf ((c.stashLine (x / 4)).any fun b => b.off / 32 == x % 4) c.stashPoison x).map fun m =>
      (some x, s.mapCore n fun c => { c with stashPoison := m })
  | .shelf =>
    if c.shelf.any fun e => e.line == x / 4 && e.copy.isSome then
      let mark := fun (e : ShelfEntry) => { e with copy := e.copy.map fun y => (y.1, markImage y.2 (x % 4)) }
      some (some x, s.mapCore n fun c => { c with shelf := updateFirst (fun e => e.line == x / 4) mark c.shelf })
    else none
  | .scratch => (s.allWgs.find? fun w => w.resident && w.core == place / 32768 && decide (w.base / 32 ≤ place % 32768)
      && decide (place % 32768 < (w.base + w.grant.scratch) / 32)).map fun w =>
      (none, s.mapWg w.id fun w => { w with scratchPoison := NMap.set w.scratchPoison (place % 32768 - w.base / 32) 1 })
  | .regs => (s.allWgs.find? fun w => w.id == place / 16384).bind fun w =>
    let y := place % 16384
    if y < w.grant.tiles * 64 then some (none, s.mapWg w.id fun w => { w with tilePoison := NMap.set w.tilePoison y 1 })
    else if 2048 ≤ y ∧ y - 2048 < w.grant.accs * 32 then some (none, s.mapWg w.id fun w => { w with accPoison := NMap.set w.accPoison (y - 2048) 1 })
    else none
  | .hawk =>
    if s.wet.any fun w => w.line == place / 4 then
      some (some place, { s with wet := updateFirst (fun w => w.line == place / 4) (fun w => { w with bad := w.bad ++ [place % 4] }) s.wet })
    else none
  | .pipe =>
    let at' := (s.pipelines.flatMap fun l => (withIndex l.pipes).flatMap fun p => (List.range p.2.slots.length).map fun t => (l.id, p.1, t))[place / 128]?
    let mark := fun (p : Pipe) (n : Nat) => { p with slots := (withIndex p.slots).map fun t => if t.1 = n then { t.2 with bad := t.2.bad ++ [place % 128] } else t.2 }
    at'.map fun e => (none, s.mapPl e.1 fun l => { l with pipes := (withIndex l.pipes).map fun p => if p.1 = e.2.1 then mark p.2 e.2.2 else p.2 })
  | .l2 | .hub | .hbm => if place * 32 < spaceBytes then some (some place, s.markHome place) else none
  | .link => (s.markMsg (place / 4) (place % 4)).map fun r => (some (r.1 * 4 + place % 4), r.2)

/-- A soft error (R403, R404): corrected and counted, or its sector marked, counted and logged (R476, R477). A sector that has no physical address is logged with all ones. -/
def execSoftError (blk : EccBlock) (correctable : Bool) (place : Nat) (s : State) : Res :=
  ok <|
    let bump := fun (s : State) (i : Nat) => s.setSkepin { s.skepin with counts := bumpCount s.skepin.counts i }
    if correctable then (eccIndex blk place).elim s (bump s)
    else match s.markSector blk place with
      | none => s
      | some (x, t) => (bump t 18).log 0x09 noCtx (x.elim [0xFFFFFFFF, 0xFFFFFFFF] fun x => [x % (spaceBytes / 32) * 32 % 2 ^ 32, x % (spaceBytes / 32) * 32 / 2 ^ 32])

/-- A flit is sent again (R410): no effect but time. -/
def execFlitReplay (_link : Nat) (s : State) : Res := ok s

/-! ## What the device hears -/

/-- What may stand on the agenda, and by what it is heard (R474, R481, R484): the world outside, and choices of its own that the spec leaves to a cache; Off and bring-up hear nothing of the host or of peers but what brings them up. -/
def State.admitted (s : State) (i : Instr) : Bool :=
  match i with
  | .coldReset | .warmReset | .skepinReset | .bringUpStep _ | .thermalTrip _ _ | .powerRemoved | .softError _ _ _ | .flitReplay _
  | .sealAtManufacture => true
  | .sensors _ | .eventLog _ | .imageChunk _ | .imageCommit _ | .powerRequest _ | .securityState _ _ | .debugState _
  | .warmResetCommand | .spdmRequest _ | .ideKm => s.skepin.pwr != .off
  | .hostWrite a _ => s.skepin.ready || decide (Config.hostBase ≤ a)
  | .registerWrite o _ => s.skepin.pwr != .off && (decide (6 ≤ s.skepin.stage) || s.skepin.recovery) && (s.skepin.ready || decide (0x80000 ≤ o.toNat))
  | .doorbell _ _ | .admCfgWrite _ | .admBaseWrite _ | .admHeadWrite _ | .hostRead _ _ | .hostSnoop _ | .hostAcknowledgement _
  | .ualinkRequest _ _ _ | .ualinkAck _ _ _ | .portDown _ _ | .portUp _ _ | .announce _ | .p1Entry _ | .idleExit | .debuggerAccess _
  | .evictionBytes _ _ | .untrackedWriteBack _ _ | .hbmWriteBack _ | .ownerWriteBack _ _ => s.skepin.ready
  | _ => false

end Sys2Proof.Machine
end

