-- ==== Sys2Proof/Machine/Messages.lean ====
section
/-! DEFINITION. What a message between the device's own agents does when it arrives, and which timer of an agent has run out. -/

namespace Sys2Proof.Machine

/-- The effect of a message at the agent that takes it: the meaning of the step that it stands for. Those that carry another message are taken apart before. -/
def State.takeMsg (m : Msg) (s : State) : Res :=
  match m with
  | .sfuComplete p => execSfuComplete p s
  | .matrixStepComplete c => execMatrixStepComplete c s
  | .launch r => execLaunch r s
  | .pipeline r => execPipeline r s
  | .cancelCommand r => execCancelCommand r s
  | .jobEnd r => execJobEnd r s
  | .wait r => execWait r s
  | .waitRecheck r => execWaitRecheck r s
  | .translationInvalidate r => execTranslationInvalidate r s
  | .descriptorInvalidate r => execDescriptorInvalidate r s
  | .setResolve r => execSetResolve r s
  | .contextCreate => execContextCreate s
  | .contextEnd => execContextEnd s
  | .ringConfigure => execRingConfigure s
  | .domain => execDomain s
  | .placementDecision => execPlacementDecision s
  | .preemptSave w => execPreemptSave w s
  | .balancerInterval pl => execBalancerInterval pl s
  | .completionRecord id => ok (execCompletionRecord id s)
  | .unitEnd => ok s.runEndings
  | .seedBinTimeout d l e => execSeedBinTimeout d l e s
  | .pipePushAccept pl p => execPipePushAccept pl p s
  | .pipePopAccept pl p => execPipePopAccept pl p s
  | .pipeDeadlockDeclare pl => execPipeDeadlockDeclare pl s
  | .pipeDrainSpill pl => execPipeDrainSpill pl s
  | .matrixReset c => execMatrixReset c s
  | .jobStart c j => execJobStart c j s
  | .landingSlotGrant c j => execLandingSlotGrant c j s
  | .landing c j => execLanding c j s
  | .memoryWrite c j => execMemoryWrite c j s
  | .jobStatusLand c j => execJobStatusLand c j s
  | .pendingBytes p l => execPendingBytes p l s
  | .notice c l => execNotice c l s
  | .noticeAcknowledge l => execNoticeAcknowledge l s
  | .homeReport p l => execHomeReport p l s
  | .commit p l => execCommit p l s
  | .commitConfirm p l => execCommitConfirm p l s
  | .fill r => execFill r s
  | .fillReply c l d m => execFillReply c l d m s
  | .guestInvalidation x l => execGuestInvalidation x l s
  | .atomicAtHome r => execAtomicAtHome r s
  | .addstLine r => execAddstLine r s
  | .ticketOperation r => execTicketOperation r s
  | .ticketServingValue p k v => execTicketServingValue p k v s
  | .daubAtHome r => execDaubAtHome r s
  | .daubCopy c l q d p => execDaubCopy c l q d p s
  | .daubAnswer p l a => execDaubAnswer p l a s
  | .discardArrival j lo n => ok (s.discard j lo n)
  | .ownershipGrant d l p => execOwnershipGrant d l p s
  | .forwardedFill r => execForwardedFill r s
  | .writeBackAck d l => execWriteBackAck d l s
  | .recall d l => execRecall d l s
  | .recalledPart d l b => execRecalledPart d l b s
  | .relayedNotice d l => execRelayedNotice d l s
  | .relayedCopy d l q x p ts => execRelayedCopy d l q x p ts s
  | .ownerBytes d l b => execOwnerBytes d l b s
  | .writeBack c l b m => ok (s.writeUntracked c l b m)
  | .ringFetch n => ok (s.ringNext n.val)
  | .homeServe _ | .atCore _ _ _ => ok s
  | .reductionContribution c => execReductionContribution c s
  | .roundTimeout d l g => execRoundTimeout d l g s
  | .reductionDelivery d l g => execReductionDelivery d l g s
  | .serve src seq op => execServe src seq op s
  | .retransmitTimeout d q => execRetransmitTimeout d q s
  | .xsendPacket p => execXsendPacket p s
  | .wetStoreMessage k l b => execWetStoreMessage k l b s
  | .setPrepare k n => execSetPrepare k n s
  | .setReady k d r => execSetReady k d r s
  | .prepareTimeout k => execPrepareTimeout k s
  | .setCommit k => execSetCommit k s
  | .commitResend k => execCommitResend k s
  | .setScrape k => execSetScrape k s
  | .decisionQuery k => execDecisionQuery k s
  | .bridgeOpenTimeout pl p => execBridgeOpenTimeout pl p s
  | .bridgeTile d t x => execBridgeTile d t x s
  | .bridgeCredit d t => execBridgeCredit d t s
  | .bridgeClose d t => execBridgeClose d t s
  | .heldBridgeOpenDrop d t => execHeldBridgeOpenDrop d t s
  | .hostRead a n => execHostRead a n s
  | .lineWrite l b => ok (s.writeHomeLine l b)
  | .xferStep id => ok (s.xferNext id)
  | .waitaRecheck p => execWaitaRecheck p s
  | .warmReset => execWarmReset s
  | .p1Exit => execP1Exit s
  | .idleEntry => execIdleEntry s

/-- The home of a line takes the oldest request that waits there (R348); those that it makes wait again stand before the others. -/
def State.serveHome (line : Nat) (s : State) : Res :=
  match s.homeOf line with
  | none => ok s
  | some h =>
    match h.waiting with
    | m :: r =>
      if h.free then
        match (s.mapHome line fun h => { h with waiting := [] }).takeMsg m with
        | .next t => ok ((t.mapHome line fun h => { h with waiting := h.waiting ++ r }).releaseHome line)
        | x => x
      else ok s
    | [] => ok s

/-- The effect of a message. A request that waits at its core for its window leaves when it fits (R336). -/
def State.handle (m : Msg) (s : State) : Res :=
  match m with
  | .homeServe line => s.serveHome line
  | .atCore core line x => if s.windowRoom core line then s.takeMsg x else ok (s.send (.atCore core line x))
  | x => s.takeMsg x

/-! ## Classes of messages (R334, R410) -/

/-- The class in which a message travels: 0 requests, 1 responses, 2 coherence messages, 3 reductions; 4 what an agent does by itself. -/
def Msg.cls : Msg → Nat
  | .fill _ | .forwardedFill _ | .pendingBytes _ _ | .atomicAtHome _ | .addstLine _ | .daubAtHome _ | .ticketOperation _
  | .writeBack _ _ _ _ | .lineWrite _ _ | .discardArrival _ _ _ | .hostRead _ _ | .atCore _ _ _ => 0
  | .fillReply _ _ _ _ => 1
  | .notice _ _ | .noticeAcknowledge _ | .guestInvalidation _ _ | .daubCopy _ _ _ _ _ | .daubAnswer _ _ _ | .homeReport _ _ | .commit _ _
  | .commitConfirm _ _ | .ticketServingValue _ _ _ | .relayedNotice _ _ | .relayedCopy _ _ _ _ _ _ | .ownershipGrant _ _ _
  | .recall _ _ | .recalledPart _ _ _ | .ownerBytes _ _ _ | .writeBackAck _ _ => 2
  | .reductionContribution _ | .reductionDelivery _ _ _ => 3
  | _ => 4

/-- The message that arrives next: the classes take turns, and none waits behind a message of another; within its class the oldest goes first (R334). -/
def State.nextMsg (s : State) : Option (Msg × State) :=
  (List.range 5).findSome? fun i =>
    let c := (s.classTurn + i) % 5
    (s.inflight.find? fun m => m.cls == c).map fun m =>
      (m, { s with inflight := removeFirst (fun m => m.cls == c) s.inflight, classTurn := (c + 1) % 5 })

/-! ## Timers -/

/-- Works and timers of the front end: units that can end (R222, R398), a record that can be written (R220), a save that can go on (R393), a seed bin (R242), a waiting ring (R465), the balancer and the monitor of a pipeline (R239, R400, R401). -/
def State.dueFront (s : State) : Option Msg :=
  if s.endings.any s.endingReady then some .unitEnd
  else match s.records.find? s.recordReady with
  | some r => some (.completionRecord r.id)
  | none =>
  match s.allWgs.find? s.saveReady with
  | some w => some (.preemptSave w.id)
  | none =>
  match s.seeds.find? fun r => decide (5400 ≤ s.since r.arrived) with
  | some r => some (.seedBinTimeout r.die r.launch r.entry)
  | none =>
  match s.rings.find? fun r => r.waiting.any fun w => decide (1024 ≤ s.since w.2.2) with
  | some r => some (.waitRecheck (Fin.ofNat 256 r.n))
  | none =>
  match s.pipelines.find? fun l => l.state == .draining && (s.stagePods l).isEmpty && !s.drainWaits l with
  | some l => some (.pipeDrainSpill l.id)
  | none =>
  match s.pipelines.find? fun l => l.state == .running && s.allPipeWait l && decide (65536 ≤ s.since l.quiet) with
  | some l => some (.pipeDeadlockDeclare l.id)
  | none =>
  match s.pipelines.find? fun l => l.balancer && (l.state == .running || l.state == .draining || l.state == .preempted)
      && decide (4096 ≤ s.since l.interval) with
  | some l => some (.balancerInterval l.id)
  | none => none

/-- Timers of the cores and of the reduction network (R216, R343). -/
def State.dueCore (s : State) : Option Msg :=
  match s.allCores.find? fun c => !c.steps.isEmpty && decide (2 ^ 20 ≤ s.since c.stepSince) with
  | some c => some (.matrixReset c.n)
  | none =>
  match s.rounds.find? fun r => decide (65536 ≤ s.since r.start) with
  | some r => some (.roundTimeout r.die r.launch r.group)
  | none => none

/-- A bridge-open message that the device still holds: its bridge has been admitted since, or 20 ms have passed (R458). -/
def State.heldDue (s : State) (o : HeldOpen) : Bool :=
  (match s.bridgeWith o.peer o.tag with
    | some (l, _, _, _) => !(l.state == .waiting)
    | none => false) || decide (54000000 ≤ s.since o.since)

/-- Timers of the fabric (R434, R452, R454, R458). -/
def State.dueFabric (s : State) : Option Msg :=
  match (s.pipelines.filter fun l => !(l.state == .waiting) && !(l.state == .done)).findSome? fun l =>
      ((withIndex l.pipes).find? fun e => e.2.bridge.any fun b => !b.isOpen && decide (54000000 ≤ s.since b.since)).map fun e => (l.id, e.1) with
  | some e => some (.bridgeOpenTimeout e.1 e.2)
  | none =>
  match s.heldOpens.find? s.heldDue with
  | some o => some (.heldBridgeOpenDrop (Fin.ofNat 512 o.peer) (BitVec.ofNat 32 o.tag))
  | none =>
  match s.sets.find? fun o => o.stage == .preparing && decide (10800000 ≤ s.since o.start) with
  | some o => some (.prepareTimeout o.key)
  | none =>
  match s.sets.find? fun o => o.stage == .committing && decide (5400000 ≤ s.since o.sent) with
  | some o => some (.commitResend o.key)
  | none =>
  match s.hawk.find? fun h => h.pub.isNone && h.prepared.any fun t => decide (43200000 ≤ s.since t) with
  | some h => some (.decisionQuery h.key)
  | none =>
  match s.peers.findSome? fun p => (p.out.find? fun r => r.tries != 0 && decide (5400000 ≤ s.since r.sent)).map fun r => (p.dev, r.seq) with
  | some e => some (.retransmitTimeout (Fin.ofNat 512 e.1) e.2)
  | none => none

/-- Timers of Skepin: the end of P1 and the beginning of Idle (R484, R485). -/
def State.duePower (s : State) : Option Msg :=
  if s.skepin.pwr == .p1 && decide (p1Cycles ≤ s.since s.skepin.p1Since) then some .p1Exit
  else if s.skepin.idleOk && s.quiet && (s.skepin.pwr == .p0 || s.skepin.pwr == .p1) && s.skepin.ready
      && decide (idleCycles ≤ s.since s.skepin.idleSince) then some .idleEntry
  else none

/-- The timer that has run out, if any. -/
def State.due (s : State) : Option Msg :=
  (s.dueFront.or s.dueCore).or (s.dueFabric.or s.duePower)

/-! ## Time -/

/-- The pods whose cycles the balancer counts: residentC, and blockedC or starvedC of those that wait at a pipe (R239). -/
def Pod.ticked (n : Nat) (p : Pod) : Pod :=
  { p with
    residentC := p.residentC + n
    blockedC := match p.held with
      | .pushFull _ => p.blockedC + n
      | _ => p.blockedC
    starvedC := match p.held with
      | .popEmpty _ => p.starvedC + n
      | _ => p.starvedC }

end Sys2Proof.Machine
end

