-- ==== Sys2Proof/Decode.lean ====
section
/-! DEFINITION. The decoder of S words (R73 to R80, R97 to R100) and of L words (R81 to R84, R91 to R93, R101, R102), total on any word and answering with well-formed instructions only (R103); and the encoder, written from the same tables. -/

namespace Sys2Proof

/-- Bits [lo + len - 1 : lo] of a word. -/
def bits (w lo len : Nat) : Nat := w / 2 ^ lo % 2 ^ len

def f4 (n : Nat) : Fin 4 := Fin.ofNat 4 n
def f8 (n : Nat) : Fin 8 := Fin.ofNat 8 n
def f16 (n : Nat) : Fin 16 := Fin.ofNat 16 n
def f32 (n : Nat) : Fin 32 := Fin.ofNat 32 n
def f64 (n : Nat) : Fin 64 := Fin.ofNat 64 n
def f256 (n : Nat) : Fin 256 := Fin.ofNat 256 n
def bit (n : Nat) : Bool := decide (n = 1)
def bitN (b : Bool) : Nat := if b then 1 else 0

/-- The instruction if a condition on the word's fields holds (R74, R77). -/
def only (c : Bool) (i : Instr) : Option Instr := if c then some i else none

/-! ## Codes -/

def Scope.ofCode : Nat → Scope
  | 0 => .pod | 1 => .wg | 2 => .dev | _ => .sys
def Scope.code : Scope → Nat
  | .pod => 0 | .wg => 1 | .dev => 2 | .sys => 3
def Order.ofCode : Nat → Order
  | 0 => .relaxed | 1 => .acq | 2 => .rel | _ => .acqrel
def Order.code : Order → Nat
  | .relaxed => 0 | .acq => 1 | .rel => 2 | .acqrel => 3
def Rnd.ofCode : Nat → Rnd
  | 0 => .rn | 1 => .rna | 2 => .rz | 3 => .rp | 4 => .rm | 5 => .rnz | 6 => .raz | _ => .dyn
def Rnd.code : Rnd → Nat
  | .rn => 0 | .rna => 1 | .rz => 2 | .rp => 3 | .rm => 4 | .rnz => 5 | .raz => 6 | .dyn => 7

/-- Compact type codes (R40). -/
def LType.ofCompact : Nat → LType
  | 0 => .i32 | 1 => .n32 | 2 => .i64 | 3 => .n64 | 4 => .f32 | 5 => .f64 | 6 => .f16 | _ => .bf16
def LType.compactCode : LType → Nat
  | .i32 => 0 | .n32 => 1 | .i64 => 2 | .n64 => 3 | .f32 => 4 | .f64 => 5 | .f16 => 6 | .bf16 => 7 | _ => 0

/-- Names of special values (R80). -/
def Special.ofCode : Nat → Option Special
  | 0x00 => some .wgX | 0x01 => some .wgY | 0x02 => some .wgZ | 0x03 => some .wgdimX | 0x04 => some .wgdimY | 0x05 => some .wgdimZ
  | 0x06 => some .pod | 0x07 => some .pods | 0x08 => some .core | 0x09 => some .die | 0x0A => some .dev | 0x0B => some .launch
  | 0x0C => some .cycle | 0x10 => some .fsr | 0x11 => some .ten | 0x12 => some .brnd | 0x13 => some .drnd
  | 0x18 => some .tcause | 0x19 => some .tspc | 0x1A => some .tlpc | 0x1B => some .tmask | 0x1C => some .taddr | _ => none
def Special.code : Special → Nat
  | .wgX => 0x00 | .wgY => 0x01 | .wgZ => 0x02 | .wgdimX => 0x03 | .wgdimY => 0x04 | .wgdimZ => 0x05
  | .pod => 0x06 | .pods => 0x07 | .core => 0x08 | .die => 0x09 | .dev => 0x0A | .launch => 0x0B
  | .cycle => 0x0C | .fsr => 0x10 | .ten => 0x11 | .brnd => 0x12 | .drnd => 0x13
  | .tcause => 0x18 | .tspc => 0x19 | .tlpc => 0x1A | .tmask => 0x1B | .taddr => 0x1C

/-- Types of SATOM (R323). -/
def satomType : Nat → Option LType
  | 0 => some .i32 | 1 => some .n32 | 2 => some .i64 | 3 => some .n64 | 4 => some .f32 | _ => none
def satomCode : LType → Nat
  | .n32 => 1 | .i64 => 2 | .n64 => 3 | .f32 => 4 | _ => 0

def Path.ofCode : Nat → Option Path
  | 0 => some .generic | 1 => some .constant | 2 => some .tile | _ => none
def Path.code : Path → Nat
  | .generic => 0 | .constant => 1 | .tile => 2

def Level.ofCode : Nat → Option Level
  | 0 => some .launch | 1 => some .pipe | 2 => some .job | _ => none
def Level.code : Level → Nat
  | .launch => 0 | .pipe => 1 | .job => 2

/-! ## S words -/

/-- The fields of an S word that the formats share (R73). -/
structure SF where
  d : Nat
  a : Nat
  b : Nat
  fn : Nat
  sub : Nat
  fl : Nat
  imm : Nat

def sFields (w : Nat) : SF :=
  { d := bits w 20 6, a := bits w 14 6, b := bits w 8 6, fn := bits w 0 8, sub := bits w 4 4, fl := bits w 0 4, imm := bits w 0 14 }

/-- Major 0x01 (R98). -/
def decodeAlu (x : SF) : Option Instr :=
  let d := f64 x.d
  let a := f64 x.a
  let b := f64 x.b
  match x.fn with
  | 0x00 => some (.sadd d a b) | 0x01 => some (.ssub d a b) | 0x02 => some (.smul d a b)
  | 0x03 => some (.smulh d a b) | 0x04 => some (.smulhN d a b)
  | 0x05 => some (.sdiv d a b) | 0x06 => some (.sdivN d a b) | 0x07 => some (.srem d a b) | 0x08 => some (.sremN d a b)
  | 0x09 => some (.smin d a b) | 0x0A => some (.sminN d a b) | 0x0B => some (.smax d a b) | 0x0C => some (.smaxN d a b)
  | 0x10 => some (.sand d a b) | 0x11 => some (.sor d a b) | 0x12 => some (.sxor d a b)
  | 0x13 => some (.sshl d a b) | 0x14 => some (.sshr d a b) | 0x15 => some (.ssra d a b) | 0x16 => some (.srot d a b)
  | 0x17 => only (x.b == 0) (.sclz d a) | 0x18 => only (x.b == 0) (.spopc d a)
  | 0x19 => only (x.b == 0) (.sextI8 d a) | 0x1A => only (x.b == 0) (.sextI16 d a) | 0x1B => only (x.b == 0) (.sextI32 d a)
  | 0x20 => some (.slea d a b 0) | 0x21 => some (.slea d a b 1) | 0x22 => some (.slea d a b 2) | 0x23 => some (.slea d a b 3)
  | 0x28 => some (.scmpEq d a b) | 0x29 => some (.scmpNe d a b) | 0x2A => some (.scmpLt d a b)
  | 0x2B => some (.scmpLe d a b) | 0x2C => some (.scmpGt d a b) | 0x2D => some (.scmpGe d a b)
  | 0x2E => some (.scmpLtN d a b) | 0x2F => some (.scmpLeN d a b) | 0x30 => some (.scmpGtN d a b)
  | 0x31 => some (.scmpGeN d a b) | 0x38 => some (.ssel d a b)
  | _ => none

/-- Major 0x29 (R99). -/
def decodeK (x : SF) : Option Instr :=
  let kd := decide (x.d < 16)
  let ka := decide (x.a < 16)
  let kb := decide (x.b < 16)
  let b0 := x.b == 0
  match x.fn with
  | 0x00 => only (kd && ka && b0) (.kmovKK (f16 x.d) (f16 x.a))
  | 0x01 => only (kd && b0) (.kmovKS (f16 x.d) (f64 x.a))
  | 0x02 => only (ka && b0) (.kmovSK (f64 x.d) (f16 x.a))
  | 0x03 => only (kd && ka && kb) (.kand (f16 x.d) (f16 x.a) (f16 x.b))
  | 0x04 => only (kd && ka && kb) (.kor (f16 x.d) (f16 x.a) (f16 x.b))
  | 0x05 => only (kd && ka && kb) (.kxor (f16 x.d) (f16 x.a) (f16 x.b))
  | 0x06 => only (kd && ka && b0) (.knot (f16 x.d) (f16 x.a))
  | 0x07 => only (ka && b0) (.kpop (f64 x.d) (f16 x.a))
  | 0x08 => only (ka && b0) (.kfirst (f64 x.d) (f16 x.a))
  | _ => none

/-- Major 0x3F (R99). -/
def decodeSystem (x : SF) : Option Instr :=
  let z := x.d == 0 && x.a == 0 && x.b == 0
  match x.fn with
  | 0x00 => only z .nop | 0x01 => only z .lwait | 0x02 => only z .exit
  | 0x03 => match Special.ofCode x.b with
    | some n => only (x.a == 0) (.srd (f64 x.d) n)
    | none => none
  | 0x04 => match Special.ofCode x.b with
    | some n => only (x.d == 0) (.swr (f64 x.a) n)
    | none => none
  | 0x05 => only (x.d == 0) (.sten (f64 x.a) (f64 x.b))
  | _ => none

/-- Fields of a step (R193, R358). -/
def mmaFields (x : SF) (e : Nat) : Option MmaFields :=
  match Fmt.ofCode (bits e 9 5), Fmt.ofCode (bits e 4 5) with
  | some fa, some fb =>
    some { d := f64 x.d, a := f64 x.a, dim := f4 x.b, rev := bit (bits x.fl 3 1), tb := bit (bits x.fl 2 1), ta := bit (bits x.fl 1 1),
           ka := bit (bits x.fl 0 1), acc := f256 (bits e 24 8), tileA := f32 (bits e 19 5), tileB := f32 (bits e 14 5),
           fmtA := fa, fmtB := fb, kq := 0, ca := false, cb := false, slot := 0 }
  | _, _ => none

/-- Major 0x30 (R193). -/
def decodeStep (x : SF) (e : Nat) : Option Instr :=
  match mmaFields x e with
  | none => none
  | some f =>
    match x.sub with
    | 0 => only (x.b == 0 && bits e 0 4 == 0) (.mma f)
    | 1 => only (x.b == 0 && bits e 0 2 == 0) (.mmaw { f with kq := f4 (bits e 2 2) })
    | 2 => only (decide (x.b < 4)) (.mmag { f with ca := bit (bits e 3 1), cb := bit (bits e 2 1), slot := f4 (bits e 0 2) })
    | _ => none

/-- Major 0x31 (R203, R206, R213 to R215). -/
def decodeTile (x : SF) (e : Nat) : Option Instr :=
  let acc := bits e 24 8
  let tile := bits e 19 5
  let lay := f64 (bits e 13 6)
  let long := x.fl == 0 && bits e 0 13 == 0
  match x.sub with
  | 0 => only (long && x.b == 0 && acc == 0) (.tld (f64 x.d) (f64 x.a) (f32 tile) lay)
  | 1 => only (long && x.b == 0 && acc == 0) (.tst (f64 x.d) (f64 x.a) (f32 tile) lay)
  | 2 => only (x.d == 0) (if x.b < 32 then .tmovToV (f64 x.a) (f32 x.b) (f16 x.fl) else .tmovToTile (f64 x.a) (f32 (x.b - 32)) (f16 x.fl))
  | 3 => only (x.d == 0 && x.a == 0 && decide (x.b < 32) && x.fl == 0) (.tzero (f32 x.b))
  | 4 => only (x.d == 0 && decide (x.b < 4) && decide (x.fl < 4)) (.aclr (f256 (x.a + 64 * x.b)) (f4 x.fl))
  | 5 => only (long && x.b == 0 && tile == 0) (.ald (f64 x.d) (f64 x.a) (f256 acc) lay)
  | 6 => only (long && tile == 0) (.astore (f64 x.d) (f64 x.a) (f64 x.b) (f256 acc) lay)
  | 7 => only (x.d == 0 && bits x.fl 0 1 == 0) (.atot (f64 x.a) (bit (x.b / 32)) (f32 (x.b % 32)) (f4 (x.fl / 4)) (bit (bits x.fl 1 1)))
  | 8 => only (decide (x.b < 4) && decide (x.fl < 2)) (.alg (f64 x.d) (f64 x.a) (f4 x.b) (bit x.fl))
  | _ => none

/-- Majors 0x32 to 0x36 (R138, R246). -/
def decodeSync (major : Nat) (x : SF) (e : Nat) : Option Instr :=
  let d := f64 x.d
  let a := f64 x.a
  let b := f64 x.b
  let d0 := x.d == 0
  let a0 := x.a == 0
  let b0 := x.b == 0
  let fl0 := x.fl == 0
  let two := x.fl == 2 || x.fl == 3
  let pipeOp : Option PipeOperand :=
    if bits e 0 17 ≠ 0 ∨ ¬(x.b = 0) then none
    else if x.fl = 0 ∧ x.a = 0 ∧ bits e 17 6 = 0 then some (.tile (f32 (bits e 23 5)))
    else if x.fl = 1 ∧ bits e 23 5 = 0 then some (.box a (f64 (bits e 17 6)))
    else none
  match major, x.sub with
  | 0x32, 0 => only (decide (x.fl < 2)) (.laydef d a b (bit x.fl))
  | 0x32, 1 => only (decide (x.fl < 2)) (.layq d a b (bit x.fl))
  | 0x33, 0 => only (d0 && a0 && b0 && fl0) .wgsync
  | 0x33, 1 => only fl0 (.binit d a b)
  | 0x33, 2 => only (d0 && fl0) (.barr a b)
  | 0x33, 3 => only (d0 && fl0) (.barrx a b)
  | 0x33, 4 => only (d0 && fl0) (.bwait a b)
  | 0x33, 5 => only (decide (x.fl < 2)) (.btest d a b (bit x.fl))
  | 0x34, 0 => only (d0 && two) (.tktake a b (x.fl == 3))
  | 0x34, 1 => only (d0 && two) (.tkwait a b (x.fl == 3))
  | 0x34, 2 => only (d0 && b0 && two) (.tkserve a (x.fl == 3))
  | 0x35, 0 => match pipeOp with
    | some o => some (.ppush d (f16 (bits e 28 4)) o)
    | none => none
  | 0x35, 1 => match pipeOp with
    | some o => some (.ppop d (f16 (bits e 28 4)) o)
    | none => none
  | 0x35, 2 => only (d0 && a0 && decide (x.b < 16) && fl0) (.pclose (f16 x.b))
  | 0x35, 3 => only (a0 && decide (x.b < 16) && fl0) (.pstat d (f16 x.b))
  | 0x35, 4 => only (a0 && b0 && fl0) (.pyield d)
  | 0x36, 0 => only (decide (x.b < 16) && fl0) (.seed d a (f16 x.b))
  | 0x36, 1 => match Level.ofCode x.fl with
    | some l => only (a0 && b0) (.cancel d l)
    | none => none
  | _, _ => none

/-- Major 0x37 (R319, R320, R323, R325, R329). -/
def decodeOrder (x : SF) (e : Nat) : Option Instr :=
  match x.sub with
  | 0 => only (x.d == 0 && x.a == 0 && x.b == 0) (.phase (Order.ofCode (x.fl / 4)) (Scope.ofCode (x.fl % 4)))
  | 1 => match Path.ofCode (x.fl / 4), Path.ofCode (x.fl % 4) with
    | some f, some t => only (x.d == 0 && x.a == 0 && x.b == 0) (.pfence f t)
    | _, _ => none
  | 2 => match AtomOp.ofCode (bits e 16 4), satomType (bits e 13 3) with
    | some op, some t => only (x.d == 0 && bits e 0 12 == 0)
        (.satom { a := f64 x.a, b := f64 x.b, order := Order.ofCode (x.fl / 4), scope := Scope.ofCode (x.fl % 4), r := f64 (bits e 26 6),
                  c := f64 (bits e 20 6), op := op, ty := t, scratch := bit (bits e 12 1) })
    | _, _ => none
  | 3 => only (decide (x.fl < 2) && bits e 19 5 == 0 && bits e 0 13 == 0)
      (.addst (f64 x.d) (f64 x.a) (f64 x.b) (f256 (bits e 24 8)) (f64 (bits e 13 6)) (bit x.fl))
  | 4 => only (x.a == 0 && x.b == 0 && decide (x.fl < 2)) (.daubq (f64 x.d) (bit x.fl))
  | _ => none

/-- Major 0x39 (R358, R370, R187). -/
def decodeEngine (x : SF) (e : Nat) : Option Instr :=
  match x.sub with
  | 0 => only (decide (x.fl < 4) && bits e 0 29 == 0)
      (.tcopy { d := f64 x.d, a := f64 x.a, b := f64 x.b, bar := bit (bits x.fl 1 1), sp := bit (bits x.fl 0 1),
                scope := Scope.ofCode (bits e 30 2), bytes := bit (bits e 29 1) })
  | 1 => match Fmt.ofCode (bits e 9 5), Fmt.ofCode (bits e 4 5) with
    | some fa, some fb => only (decide (x.fl < 8) && bits e 0 4 == 0)
        (.tcopym { d := f64 x.d, a := f64 x.a, e := f64 x.b, tb := bit (bits x.fl 2 1), ta := bit (bits x.fl 1 1), sp := bit (bits x.fl 0 1),
                   acc := f256 (bits e 24 8), tileA := f32 (bits e 19 5), tileB := f32 (bits e 14 5), fmtA := fa, fmtB := fb })
    | _, _ => none
  | 2 => only (decide (x.fl < 2)) (.rflush (f64 x.d) (f64 x.a) (f64 x.b) (bit x.fl))
  | 3 => only (decide (x.fl < 2)) (.rinval (f64 x.d) (f64 x.a) (f64 x.b) (bit x.fl))
  | 4 => only (decide (x.fl < 2)) (.rdisc (f64 x.d) (f64 x.a) (f64 x.b) (bit x.fl))
  | 5 => only (x.d == 0 && x.fl == 0) (.feset (f64 x.a) (f64 x.b))
  | 6 => only (x.d == 0 && x.fl == 0) (.feclr (f64 x.a) (f64 x.b))
  | _ => none

/-- Majors 0x38, 0x3A and 0x3B (R338, R384, R382, R443). -/
def decodeFar (major : Nat) (x : SF) (e : Nat) : Option Instr :=
  let d := f64 x.d
  let a := f64 x.a
  let b := f64 x.b
  match major, x.sub with
  | 0x38, 0 => only (x.fl == 0 && bits e 0 18 == 0) (.redx d a b (f64 (bits e 26 6)) (f256 (bits e 18 8)))
  | 0x3A, 0 => only (x.d == 0 && x.b == 0 && x.fl == 0)
      (.coat a (BitVec.ofNat 9 (bits e 23 9)) (BitVec.ofNat 8 (bits e 15 8)) (BitVec.ofNat 15 (bits e 0 15)))
  | 0x3A, 1 => only (x.d == 0 && x.a == 0 && x.b == 0 && decide (x.fl < 2)) (.tret (bit x.fl))
  | 0x3B, 0 => only (x.fl == 0 && bits e 0 26 == 0) (.xsend d a b (f64 (bits e 26 6)))
  | 0x3B, 1 => only (x.d == 0 && x.fl == 0) (.xwait a b)
  | 0x3B, 2 => only (x.a == 0 && x.fl == 0) (.set d b)
  | 0x3B, 3 => only (x.a == 0 && x.fl == 0) (.scrape d b)
  | 0x3B, 4 => only (x.fl == 0) (.waita d a b)
  | _, _ => none

/-- Majors of the SI, SX, SB and SJ formats (R78, R79, R97). -/
def decodeImm (major w : Nat) (x : SF) (e : Nat) : Option Instr :=
  let d := f64 x.d
  let a := f64 x.a
  let i := BitVec.ofNat 14 x.imm
  let z := f4 (bits x.imm 12 2)
  let sx := bit (bits x.imm 11 1)
  let o := BitVec.ofNat 11 (bits x.imm 0 11)
  let n := f64 (bits x.imm 0 6)
  let o20 := BitVec.ofNat 20 (bits w 0 20)
  let o26 := BitVec.ofNat 26 (bits w 0 26)
  match major with
  | 0x02 => some (.saddImm d a i) | 0x03 => some (.sandImm d a i) | 0x04 => some (.sorImm d a i) | 0x05 => some (.sxorImm d a i)
  | 0x06 => if bits x.imm 6 6 ≠ 0 then none else
      match bits x.imm 12 2 with
      | 0 => some (.sshlImm d a n) | 1 => some (.sshrImm d a n) | 2 => some (.ssraImm d a n) | _ => some (.srotImm d a n)
  | 0x07 =>
      let p := f64 (bits x.imm 6 6)
      if bits x.imm 13 1 = 0 then some (.sbfx d a (bit (bits x.imm 12 1)) p n) else only (bits x.imm 12 1 == 0) (.sbfi d a p n)
  | 0x08 => only (x.a == 0) (.sli d i)
  | 0x09 => only (x.a == 0 && x.imm == 0) (.sli32 d (BitVec.ofNat 32 e))
  | 0x0A => only (x.a == 0 && x.imm == 0) (.slui d (BitVec.ofNat 32 e))
  | 0x10 => some (.sld d a z sx o)
  | 0x11 => only (!sx) (.sst d a z o)
  | 0x12 => some (.sldk d a z sx o)
  | 0x13 => some (.slds d a z sx o)
  | 0x14 => only (!sx) (.ssts d a z o)
  | 0x15 =>
      let sc := Scope.ofCode (bits e 27 2)
      if bits e 0 27 ≠ 0 then none
      else if bits e 31 1 = 0 then only (bits e 29 2 == 1) (.sldAcq d a z sx o sc)
      else only (bits e 29 2 == 2 && !sx) (.sstRel d a z o sc)
  | 0x20 => some (.br o26) | 0x21 => some (.call o26)
  | 0x22 => some (.bz d o20) | 0x23 => some (.bnz d o20)
  | 0x24 => only (decide (x.d < 16)) (.bany (f16 x.d) o20)
  | 0x25 => only (decide (x.d < 16)) (.ball (f16 x.d) o20)
  | 0x26 => only (decide (x.d < 16)) (.bnone (f16 x.d) o20)
  | 0x27 => if x.fn = 0 then only (x.d == 0) (.brx a (f64 x.b)) else if x.fn = 1 then only (x.d == 0 && x.b == 0) (.ret a) else none
  | 0x28 => some (.lgo o26)
  | 0x3E => if x.d ≠ 0 ∨ x.a ≠ 0 ∨ bits x.imm 8 5 ≠ 0 then none
      else if bits x.imm 13 1 = 0 then some (.trap (BitVec.ofNat 8 (bits x.imm 0 8))) else some (.brk (BitVec.ofNat 8 (bits x.imm 0 8)))
  | _ => none

/-- A first word whose instruction has an extension word (R76, R100). -/
def isLong (w : Nat) : Bool :=
  let sub := bits w 4 4
  match bits w 26 6 with
  | 0x09 | 0x0A | 0x15 => true
  | 0x30 => decide (sub ≤ 2)
  | 0x31 => sub == 0 || sub == 1 || sub == 5 || sub == 6
  | 0x35 => decide (sub ≤ 1)
  | 0x37 => sub == 2 || sub == 3
  | 0x38 => sub == 0
  | 0x39 => decide (sub ≤ 1)
  | 0x3A => sub == 0
  | 0x3B => sub == 0
  | _ => false

/-- Bytes of the S word that begins with w (R18, R76). -/
def sLen (w : Nat) : Nat := if isLong w then 8 else 4

/-- An S word and its extension word, before the checks of R103 on its fields' values. -/
def decodeSRaw (w e : Nat) : Option Instr :=
  let x := sFields w
  match bits w 26 6 with
  | 0x01 => decodeAlu x
  | 0x29 => decodeK x
  | 0x3F => decodeSystem x
  | 0x30 => decodeStep x e
  | 0x31 => decodeTile x e
  | 0x32 | 0x33 | 0x34 | 0x35 | 0x36 => decodeSync (bits w 26 6) x e
  | 0x37 => decodeOrder x e
  | 0x39 => decodeEngine x e
  | 0x38 | 0x3A | 0x3B => decodeFar (bits w 26 6) x e
  | m => decodeImm m w x e

/-- The instruction of an S word, or none where it raises ILLEGAL by its own bits (R103). -/
def decodeS (w e : Nat) : Option Instr := (decodeSRaw w e).filter Instr.wf

/-! ## L words -/

/-- A source field (R84): none for a reserved index. -/
def decodeSrc (n : Nat) : Option Src :=
  let i := bits n 0 8
  match bits n 8 2 with
  | 0 => some (.v i)
  | 1 => if i < 16 then some (.o i) else if i < 32 then some (.q (i - 16)) else none
  | 2 => if i < 4 then some (.b i) else none
  | _ => if i = 0x80 then some .imm24 else some (.imm (if i < 128 then Int.ofNat i else Int.ofNat i - 256))

def encodeSrc : Src → Nat
  | .v i => i
  | .o i => 256 + i
  | .q i => 256 + 16 + i
  | .b i => 512 + i
  | .imm24 => 768 + 0x80
  | .imm n => 768 + (if 0 ≤ n then n.toNat else (n + 256).toNat)

/-- A destination (R83). -/
def decodeDest (file i : Nat) : Option Dest :=
  match file with
  | 0 => some (.v i)
  | 1 => if i < 16 then some (.o i) else none
  | 2 => if i < 16 then some (.k i) else none
  | _ => if i = 0 then some .none else none

def encodeDest : Dest → Nat × Nat
  | .v i => (0, i)
  | .o i => (1, i)
  | .k i => (2, i)
  | .none => (3, 0)

/-- The fields of a single-operation word (R82). -/
def decodeLFields (w : Nat) : Option LFields :=
  match decodeDest (bits w 76 2) (bits w 68 8), decodeSrc (bits w 58 10), decodeSrc (bits w 48 10), decodeSrc (bits w 38 10),
      LType.ofCode (bits w 34 4) with
  | some dest, some a, some b, some c, some ty =>
    some { h := bit (bits w 84 1), n := bit (bits w 83 1), neg := bit (bits w 82 1), k := f16 (bits w 78 4), dest := dest, a := a, b := b,
           c := c, ty := ty, rnd := Rnd.ofCode (bits w 31 3), sat := bit (bits w 30 1), rep := f8 (bits w 27 3), stride := f8 (bits w 24 3),
           imm := BitVec.ofNat 24 (bits w 0 24) }
  | _, _, _, _, _ => none

def encodeLFields (op : Nat) (f : LFields) : Nat :=
  let d := encodeDest f.dest
  op * 2 ^ 86 + bitN f.h * 2 ^ 84 + bitN f.n * 2 ^ 83 + bitN f.neg * 2 ^ 82 + f.k.val * 2 ^ 78 + d.1 * 2 ^ 76 + d.2 * 2 ^ 68
  + encodeSrc f.a * 2 ^ 58 + encodeSrc f.b * 2 ^ 48 + encodeSrc f.c * 2 ^ 38 + f.ty.code * 2 ^ 34 + f.rnd.code * 2 ^ 31
  + bitN f.sat * 2 ^ 30 + f.rep.val * 2 ^ 27 + f.stride.val * 2 ^ 24 + f.imm.toNat

/-- The operation of an L opcode (R101). -/
def lInstr (op : Nat) (f : LFields) : Option Instr :=
  match op with
  | 0x001 => some (.iadd f) | 0x002 => some (.isub f) | 0x003 => some (.imul f) | 0x004 => some (.imin f) | 0x005 => some (.imax f)
  | 0x006 => some (.iabs f) | 0x007 => some (.ineg f) | 0x008 => some (.and f) | 0x009 => some (.or f) | 0x00A => some (.xor f)
  | 0x00B => some (.not f) | 0x00C => some (.shl f) | 0x00D => some (.shr f) | 0x00E => some (.sra f) | 0x00F => some (.rot f)
  | 0x010 => some (.clz f) | 0x011 => some (.popc f) | 0x012 => some (.brev f) | 0x013 => some (.mov f) | 0x014 => some (.lidx f)
  | 0x080 => some (.fadd f) | 0x081 => some (.fsub f) | 0x082 => some (.fmul f) | 0x083 => some (.fmin f) | 0x084 => some (.fmax f)
  | 0x085 => some (.frnd f) | 0x086 => some (.cvt f)
  | 0x100 => some (.iaddc f) | 0x101 => some (.imulh f) | 0x102 => some (.imad f) | 0x103 => some (.idiv f) | 0x104 => some (.irem f)
  | 0x105 => some (.bfx f) | 0x106 => some (.bfi f) | 0x107 => some (.icmp f) | 0x108 => some (.sel f)
  | 0x140 => some (.ffma f) | 0x141 => some (.fcmp f) | 0x142 => some (.fclass f) | 0x143 => some (.pack f) | 0x144 => some (.unpk f)
  | 0x180 => some (.rcp f) | 0x181 => some (.rsq f) | 0x182 => some (.sqrt f) | 0x183 => some (.div f) | 0x184 => some (.exp2 f)
  | 0x185 => some (.log2 f) | 0x186 => some (.sinpi f) | 0x187 => some (.cospi f)
  | 0x1C0 => some (.dadd f) | 0x1C1 => some (.dsub f) | 0x1C2 => some (.dmul f) | 0x1C3 => some (.dfma f) | 0x1C4 => some (.ddiv f)
  | 0x1C5 => some (.dqua f) | 0x1C6 => some (.dcmp f) | 0x1C7 => some (.dcvt f) | 0x1C8 => some (.dscb f)
  | 0x200 => some (.movi f) | 0x201 => some (.shfl f) | 0x202 => some (.bcast f) | 0x203 => some (.vote f) | 0x204 => some (.redp f)
  | 0x240 => some (.amul f) | 0x241 => some (.afma f) | 0x242 => some (.aconj f) | 0x243 => some (.anorm f)
  | 0x280 => some (.ld f) | 0x281 => some (.st f) | 0x282 => some (.ldk f) | 0x283 => some (.lds f) | 0x284 => some (.sts f)
  | 0x285 => some (.atom f) | 0x286 => some (.daub f) | 0x287 => some (.wst f)
  | _ => none

/-- The compact opcodes (R102). -/
def halfOp : Nat → Option HalfOp
  | 0x01 => some .iadd | 0x02 => some .isub | 0x03 => some .imul | 0x04 => some .imin | 0x05 => some .imax
  | 0x06 => some .iabs | 0x07 => some .ineg | 0x08 => some .and | 0x09 => some .or | 0x0A => some .xor
  | 0x0B => some .not | 0x0C => some .shl | 0x0D => some .shr | 0x0E => some .sra | 0x0F => some .rot
  | 0x10 => some .clz | 0x11 => some .popc | 0x12 => some .brev | 0x13 => some .mov | 0x14 => some .lidx
  | 0x80 => some .fadd | 0x81 => some .fsub | 0x82 => some .fmul | 0x83 => some .fmin | 0x84 => some .fmax
  | 0x85 => some .frnd | 0x86 => some .cvt | _ => none

def halfCode : HalfOp → Nat
  | .iadd => 0x01 | .isub => 0x02 | .imul => 0x03 | .imin => 0x04 | .imax => 0x05 | .iabs => 0x06 | .ineg => 0x07
  | .and => 0x08 | .or => 0x09 | .xor => 0x0A | .not => 0x0B | .shl => 0x0C | .shr => 0x0D | .sra => 0x0E | .rot => 0x0F
  | .clz => 0x10 | .popc => 0x11 | .brev => 0x12 | .mov => 0x13 | .lidx => 0x14
  | .fadd => 0x80 | .fsub => 0x81 | .fmul => 0x82 | .fmin => 0x83 | .fmax => 0x84 | .frnd => 0x85 | .cvt => 0x86

/-- A source field of a half (R93). -/
def decodeHalfSrc (n : Nat) : Option Src :=
  let i := bits n 0 8
  if bits n 8 1 = 0 then some (.v i)
  else if i < 16 then some (.o i)
  else if i < 32 then some (.q (i - 16))
  else if i < 36 then some (.b (i - 32))
  else if i < 128 then none
  else some (.imm (if i < 192 then Int.ofNat i - 128 else Int.ofNat i - 256))

def encodeHalfSrc : Src → Nat
  | .v i => i
  | .o i => 256 + i
  | .q i => 256 + 16 + i
  | .b i => 256 + 32 + i
  | .imm24 => 256 + 36
  | .imm n => 256 + (if 0 ≤ n then n.toNat + 128 else (n + 256).toNat)

/-- A half of a paired word (R92 to R94). -/
def decodeHalf (h : Nat) : Option Half :=
  match halfOp (bits h 33 8), decodeHalfSrc (bits h 12 9) with
  | some op, some a =>
    let d := bits h 21 8
    let dest := if d < 240 then Dest.v d else Dest.o (d - 240)
    let ty := LType.ofCompact (bits h 0 3)
    let b := bits h 3 9
    if op = .cvt then
      match LType.ofCode (bits b 0 4) with
      | some t => if bits b 4 5 ≠ 0 then none
          else some { op := op, neg := bit (bits h 32 1), k := f8 (bits h 29 3), dest := dest, a := a, b := .v 0, ty := ty, src := t }
      | none => none
    else match decodeHalfSrc b with
      | some bs => some { op := op, neg := bit (bits h 32 1), k := f8 (bits h 29 3), dest := dest, a := a, b := bs, ty := ty, src := .i32 }
      | none => none
  | _, _ => none

def encodeHalf (x : Half) : Nat :=
  let d := match x.dest with
    | .v n => n
    | .o n => 240 + n
    | _ => 0
  halfCode x.op * 2 ^ 33 + bitN x.neg * 2 ^ 32 + x.k.val * 2 ^ 29 + d * 2 ^ 21 + encodeHalfSrc x.a * 2 ^ 12
  + (if x.op = .cvt then x.src.code else encodeHalfSrc x.b) * 2 ^ 3 + x.ty.compactCode

/-- An L word before the checks of R103 on its fields' values (R81, R82, R91). -/
def decodeLRaw (w : Nat) : Option Instr :=
  let op := bits w 86 10
  if bits w 85 1 = 1 then
    if op ≠ 0 ∨ bits w 82 2 ≠ 0 then none
    else match decodeHalf (bits w 41 41), decodeHalf (bits w 0 41) with
      | some x, some y => some (.pairedWord (bit (bits w 84 1)) x y)
      | _, _ => none
  else if op = 0x3F0 then (if bits w 0 84 = 0 then some (.lend (bit (bits w 84 1))) else none)
  else if op = 0x3F1 then
    (if bits w 0 78 = 0 ∧ bits w 83 1 = 0 then some (.lnop (bit (bits w 84 1)) (bit (bits w 82 1)) (f16 (bits w 78 4))) else none)
  else match decodeLFields w with
    | some f => lInstr op f
    | none => none

/-- The instruction of an L word, or none where it raises ILLEGAL by its own bits (R103). -/
def decodeL (w : Nat) : Option Instr := (decodeLRaw w).filter Instr.wf

/-! ## The decoder as one function of the stored bits -/

/-- A word of at most 64 bits is of the S-stream, its extension word in the upper half; a word of 96 bits is of the L-stream. -/
def decodeTableWord (nbits w : Nat) : Option Instr :=
  if nbits ≤ 64 then decodeS (w % 2 ^ 32) (w / 2 ^ 32 % 2 ^ 32) else decodeL (w % 2 ^ 96)

/-! ## The encoder -/

/-- An SR or SE word (R73). -/
def wordSR (major d a b fn : Nat) : Nat := major * 2 ^ 26 + d * 2 ^ 20 + a * 2 ^ 14 + b * 2 ^ 8 + fn
/-- An SI word (R73). -/
def wordSI (major d a imm : Nat) : Nat := major * 2 ^ 26 + d * 2 ^ 20 + a * 2 ^ 14 + imm
/-- The imm14 of a memory word (R78). -/
def memImm (z : Fin 4) (sx : Bool) (o : BitVec 11) : Nat := z.val * 2 ^ 12 + bitN sx * 2 ^ 11 + o.toNat

/-- The words of an instruction of the S-stream, one or two. -/
structure SCode where
  word : Nat
  ext : Option Nat
deriving DecidableEq, Repr

def short (w : Nat) : Option SCode := some { word := w, ext := none }
def long (w e : Nat) : Option SCode := some { word := w, ext := some e }

def aluCode (fn : Nat) (d a b : Fin 64) : Option SCode := short (wordSR 0x01 d.val a.val b.val fn)
def kCode (fn d a b : Nat) : Option SCode := short (wordSR 0x29 d a b fn)
def stepFlags (f : MmaFields) : Nat := bitN f.rev * 8 + bitN f.tb * 4 + bitN f.ta * 2 + bitN f.ka
def stepExt (acc : Fin 256) (ta tb : Fin 32) (fa fb : Fmt) (low : Nat) : Nat :=
  acc.val * 2 ^ 24 + ta.val * 2 ^ 19 + tb.val * 2 ^ 14 + fa.code * 2 ^ 9 + fb.code * 2 ^ 4 + low
def boxExt (acc tile : Nat) (lay : Fin 64) : Nat := acc * 2 ^ 24 + tile * 2 ^ 19 + lay.val * 2 ^ 13
def pipeExt (p : Fin 16) (x : PipeOperand) : Nat :=
  p.val * 2 ^ 28 + (match x with
    | .tile n => n.val * 2 ^ 23
    | .box _ lay => lay.val * 2 ^ 17)
def pipeFirst (sub : Nat) (d : Fin 64) (x : PipeOperand) : Nat :=
  match x with
  | .tile _ => wordSR 0x35 d.val 0 0 (sub * 16)
  | .box a _ => wordSR 0x35 d.val a.val 0 (sub * 16 + 1)

/-- The words of an S-stream instruction (R73 to R80, R97 to R100). -/
def encodeS : Instr → Option SCode
  | .sadd d a b => aluCode 0x00 d a b | .ssub d a b => aluCode 0x01 d a b | .smul d a b => aluCode 0x02 d a b
  | .smulh d a b => aluCode 0x03 d a b | .smulhN d a b => aluCode 0x04 d a b
  | .sdiv d a b => aluCode 0x05 d a b | .sdivN d a b => aluCode 0x06 d a b
  | .srem d a b => aluCode 0x07 d a b | .sremN d a b => aluCode 0x08 d a b
  | .smin d a b => aluCode 0x09 d a b | .sminN d a b => aluCode 0x0A d a b
  | .smax d a b => aluCode 0x0B d a b | .smaxN d a b => aluCode 0x0C d a b
  | .sand d a b => aluCode 0x10 d a b | .sor d a b => aluCode 0x11 d a b | .sxor d a b => aluCode 0x12 d a b
  | .sshl d a b => aluCode 0x13 d a b | .sshr d a b => aluCode 0x14 d a b | .ssra d a b => aluCode 0x15 d a b
  | .srot d a b => aluCode 0x16 d a b | .sclz d a => aluCode 0x17 d a 0 | .spopc d a => aluCode 0x18 d a 0
  | .sextI8 d a => aluCode 0x19 d a 0 | .sextI16 d a => aluCode 0x1A d a 0 | .sextI32 d a => aluCode 0x1B d a 0
  | .slea d a b sh => aluCode (0x20 + sh.val) d a b
  | .scmpEq d a b => aluCode 0x28 d a b | .scmpNe d a b => aluCode 0x29 d a b | .scmpLt d a b => aluCode 0x2A d a b
  | .scmpLe d a b => aluCode 0x2B d a b | .scmpGt d a b => aluCode 0x2C d a b | .scmpGe d a b => aluCode 0x2D d a b
  | .scmpLtN d a b => aluCode 0x2E d a b | .scmpLeN d a b => aluCode 0x2F d a b | .scmpGtN d a b => aluCode 0x30 d a b
  | .scmpGeN d a b => aluCode 0x31 d a b | .ssel d a b => aluCode 0x38 d a b
  | .saddImm d a i => short (wordSI 0x02 d.val a.val i.toNat) | .sandImm d a i => short (wordSI 0x03 d.val a.val i.toNat)
  | .sorImm d a i => short (wordSI 0x04 d.val a.val i.toNat) | .sxorImm d a i => short (wordSI 0x05 d.val a.val i.toNat)
  | .sshlImm d a n => short (wordSI 0x06 d.val a.val n.val) | .sshrImm d a n => short (wordSI 0x06 d.val a.val (2 ^ 12 + n.val))
  | .ssraImm d a n => short (wordSI 0x06 d.val a.val (2 * 2 ^ 12 + n.val)) | .srotImm d a n => short (wordSI 0x06 d.val a.val (3 * 2 ^ 12 + n.val))
  | .sbfx d a sx p w => short (wordSI 0x07 d.val a.val (bitN sx * 2 ^ 12 + p.val * 2 ^ 6 + w.val))
  | .sbfi d a p w => short (wordSI 0x07 d.val a.val (2 ^ 13 + p.val * 2 ^ 6 + w.val))
  | .sli d i => short (wordSI 0x08 d.val 0 i.toNat)
  | .sli32 d x => long (wordSI 0x09 d.val 0 0) x.toNat
  | .slui d x => long (wordSI 0x0A d.val 0 0) x.toNat
  | .sld d a z sx o => short (wordSI 0x10 d.val a.val (memImm z sx o)) | .sst d a z o => short (wordSI 0x11 d.val a.val (memImm z false o))
  | .sldk d a z sx o => short (wordSI 0x12 d.val a.val (memImm z sx o)) | .slds d a z sx o => short (wordSI 0x13 d.val a.val (memImm z sx o))
  | .ssts d a z o => short (wordSI 0x14 d.val a.val (memImm z false o))
  | .sldAcq d a z sx o sc => long (wordSI 0x15 d.val a.val (memImm z sx o)) (1 * 2 ^ 29 + sc.code * 2 ^ 27)
  | .sstRel d a z o sc => long (wordSI 0x15 d.val a.val (memImm z false o)) (2 ^ 31 + 2 * 2 ^ 29 + sc.code * 2 ^ 27)
  | .br o => short (0x20 * 2 ^ 26 + o.toNat) | .call o => short (0x21 * 2 ^ 26 + o.toNat)
  | .bz c o => short (0x22 * 2 ^ 26 + c.val * 2 ^ 20 + o.toNat) | .bnz c o => short (0x23 * 2 ^ 26 + c.val * 2 ^ 20 + o.toNat)
  | .bany k o => short (0x24 * 2 ^ 26 + k.val * 2 ^ 20 + o.toNat) | .ball k o => short (0x25 * 2 ^ 26 + k.val * 2 ^ 20 + o.toNat)
  | .bnone k o => short (0x26 * 2 ^ 26 + k.val * 2 ^ 20 + o.toNat)
  | .brx a b => short (wordSR 0x27 0 a.val b.val 0) | .ret a => short (wordSR 0x27 0 a.val 0 1)
  | .lgo i => short (0x28 * 2 ^ 26 + i.toNat)
  | .kmovKK d a => kCode 0 d.val a.val 0 | .kmovKS d a => kCode 1 d.val a.val 0 | .kmovSK d a => kCode 2 d.val a.val 0
  | .kand d a b => kCode 3 d.val a.val b.val | .kor d a b => kCode 4 d.val a.val b.val | .kxor d a b => kCode 5 d.val a.val b.val
  | .knot d a => kCode 6 d.val a.val 0 | .kpop d a => kCode 7 d.val a.val 0 | .kfirst d a => kCode 8 d.val a.val 0
  | .trap c => short (wordSI 0x3E 0 0 c.toNat) | .brk c => short (wordSI 0x3E 0 0 (2 ^ 13 + c.toNat))
  | .nop => short (wordSR 0x3F 0 0 0 0) | .lwait => short (wordSR 0x3F 0 0 0 1) | .exit => short (wordSR 0x3F 0 0 0 2)
  | .srd d n => short (wordSR 0x3F d.val 0 n.code 3) | .swr a n => short (wordSR 0x3F 0 a.val n.code 4)
  | .sten a b => short (wordSR 0x3F 0 a.val b.val 5)
  | .laydef d a n sp => short (wordSR 0x32 d.val a.val n.val (bitN sp)) | .layq d a n sp => short (wordSR 0x32 d.val a.val n.val (16 + bitN sp))
  | .mma f => long (wordSR 0x30 f.d.val f.a.val 0 (stepFlags f)) (stepExt f.acc f.tileA f.tileB f.fmtA f.fmtB 0)
  | .mmaw f => long (wordSR 0x30 f.d.val f.a.val 0 (16 + stepFlags f)) (stepExt f.acc f.tileA f.tileB f.fmtA f.fmtB (f.kq.val * 4))
  | .mmag f => long (wordSR 0x30 f.d.val f.a.val f.dim.val (32 + stepFlags f))
      (stepExt f.acc f.tileA f.tileB f.fmtA f.fmtB (bitN f.ca * 8 + bitN f.cb * 4 + f.slot.val))
  | .tld d a t lay => long (wordSR 0x31 d.val a.val 0 0) (boxExt 0 t.val lay)
  | .tst d a t lay => long (wordSR 0x31 d.val a.val 0 16) (boxExt 0 t.val lay)
  | .tmovToV v t row => short (wordSR 0x31 0 v.val t.val (32 + row.val))
  | .tmovToTile v t row => short (wordSR 0x31 0 v.val (32 + t.val) (32 + row.val))
  | .tzero t => short (wordSR 0x31 0 0 t.val 48)
  | .aclr x c => short (wordSR 0x31 0 (x.val % 64) (x.val / 64) (64 + c.val))
  | .ald d a acc lay => long (wordSR 0x31 d.val a.val 0 80) (boxExt acc.val 0 lay)
  | .astore d a b acc lay => long (wordSR 0x31 d.val a.val b.val 96) (boxExt acc.val 0 lay)
  | .atot b tr t f sat => short (wordSR 0x31 0 b.val (bitN tr * 32 + t.val) (112 + f.val * 4 + bitN sat * 2))
  | .alg d a g sp => short (wordSR 0x31 d.val a.val g.val (128 + bitN sp))
  | .wgsync => short (wordSR 0x33 0 0 0 0) | .binit d a b => short (wordSR 0x33 d.val a.val b.val 16)
  | .barr a b => short (wordSR 0x33 0 a.val b.val 32) | .barrx a b => short (wordSR 0x33 0 a.val b.val 48)
  | .bwait a b => short (wordSR 0x33 0 a.val b.val 64) | .btest d a b par => short (wordSR 0x33 d.val a.val b.val (80 + bitN par))
  | .tktake a b sys => short (wordSR 0x34 0 a.val b.val (2 + bitN sys)) | .tkwait a b sys => short (wordSR 0x34 0 a.val b.val (18 + bitN sys))
  | .tkserve a sys => short (wordSR 0x34 0 a.val 0 (34 + bitN sys))
  | .ppush d p x => long (pipeFirst 0 d x) (pipeExt p x) | .ppop d p x => long (pipeFirst 1 d x) (pipeExt p x)
  | .pclose p => short (wordSR 0x35 0 0 p.val 32) | .pstat d p => short (wordSR 0x35 d.val 0 p.val 48)
  | .pyield d => short (wordSR 0x35 d.val 0 0 64)
  | .seed d x c => short (wordSR 0x36 d.val x.val c.val 0) | .cancel d lv => short (wordSR 0x36 d.val 0 0 (16 + lv.code))
  | .phase o sc => short (wordSR 0x37 0 0 0 (o.code * 4 + sc.code)) | .pfence f t => short (wordSR 0x37 0 0 0 (16 + f.code * 4 + t.code))
  | .satom f => long (wordSR 0x37 0 f.a.val f.b.val (32 + f.order.code * 4 + f.scope.code))
      (f.r.val * 2 ^ 26 + f.c.val * 2 ^ 20 + f.op.code * 2 ^ 16 + satomCode f.ty * 2 ^ 13 + bitN f.scratch * 2 ^ 12)
  | .addst d a b acc lay rel => long (wordSR 0x37 d.val a.val b.val (48 + bitN rel)) (boxExt acc.val 0 lay)
  | .daubq d shelf => short (wordSR 0x37 d.val 0 0 (64 + bitN shelf))
  | .redx d a b m g => long (wordSR 0x38 d.val a.val b.val 0) (m.val * 2 ^ 26 + g.val * 2 ^ 18)
  | .tcopy f => long (wordSR 0x39 f.d.val f.a.val f.b.val (bitN f.bar * 2 + bitN f.sp)) (f.scope.code * 2 ^ 30 + bitN f.bytes * 2 ^ 29)
  | .tcopym f => long (wordSR 0x39 f.d.val f.a.val f.e.val (16 + bitN f.tb * 4 + bitN f.ta * 2 + bitN f.sp))
      (stepExt f.acc f.tileA f.tileB f.fmtA f.fmtB 0)
  | .rflush d a b bar => short (wordSR 0x39 d.val a.val b.val (32 + bitN bar)) | .rinval d a b bar => short (wordSR 0x39 d.val a.val b.val (48 + bitN bar))
  | .rdisc d a b bar => short (wordSR 0x39 d.val a.val b.val (64 + bitN bar))
  | .feset a b => short (wordSR 0x39 0 a.val b.val 80) | .feclr a b => short (wordSR 0x39 0 a.val b.val 96)
  | .coat a n b km => long (wordSR 0x3A 0 a.val 0 0) (n.toNat * 2 ^ 23 + b.toNat * 2 ^ 15 + km.toNat)
  | .tret skip => short (wordSR 0x3A 0 0 0 (16 + bitN skip))
  | .xsend d a b c => long (wordSR 0x3B d.val a.val b.val 0) (c.val * 2 ^ 26)
  | .xwait a b => short (wordSR 0x3B 0 a.val b.val 16) | .set d g => short (wordSR 0x3B d.val 0 g.val 32)
  | .scrape d g => short (wordSR 0x3B d.val 0 g.val 48) | .waita d a b => short (wordSR 0x3B d.val a.val b.val 64)
  | _ => none

/-- The L opcode and fields of a single-operation instruction (R101). -/
def lCode : Instr → Option (Nat × LFields)
  | .iadd f => some (0x001, f) | .isub f => some (0x002, f) | .imul f => some (0x003, f) | .imin f => some (0x004, f)
  | .imax f => some (0x005, f) | .iabs f => some (0x006, f) | .ineg f => some (0x007, f) | .and f => some (0x008, f)
  | .or f => some (0x009, f) | .xor f => some (0x00A, f) | .not f => some (0x00B, f) | .shl f => some (0x00C, f)
  | .shr f => some (0x00D, f) | .sra f => some (0x00E, f) | .rot f => some (0x00F, f) | .clz f => some (0x010, f)
  | .popc f => some (0x011, f) | .brev f => some (0x012, f) | .mov f => some (0x013, f) | .lidx f => some (0x014, f)
  | .fadd f => some (0x080, f) | .fsub f => some (0x081, f) | .fmul f => some (0x082, f) | .fmin f => some (0x083, f)
  | .fmax f => some (0x084, f) | .frnd f => some (0x085, f) | .cvt f => some (0x086, f)
  | .iaddc f => some (0x100, f) | .imulh f => some (0x101, f) | .imad f => some (0x102, f) | .idiv f => some (0x103, f)
  | .irem f => some (0x104, f) | .bfx f => some (0x105, f) | .bfi f => some (0x106, f) | .icmp f => some (0x107, f) | .sel f => some (0x108, f)
  | .ffma f => some (0x140, f) | .fcmp f => some (0x141, f) | .fclass f => some (0x142, f) | .pack f => some (0x143, f) | .unpk f => some (0x144, f)
  | .rcp f => some (0x180, f) | .rsq f => some (0x181, f) | .sqrt f => some (0x182, f) | .div f => some (0x183, f)
  | .exp2 f => some (0x184, f) | .log2 f => some (0x185, f) | .sinpi f => some (0x186, f) | .cospi f => some (0x187, f)
  | .dadd f => some (0x1C0, f) | .dsub f => some (0x1C1, f) | .dmul f => some (0x1C2, f) | .dfma f => some (0x1C3, f)
  | .ddiv f => some (0x1C4, f) | .dqua f => some (0x1C5, f) | .dcmp f => some (0x1C6, f) | .dcvt f => some (0x1C7, f) | .dscb f => some (0x1C8, f)
  | .movi f => some (0x200, f) | .shfl f => some (0x201, f) | .bcast f => some (0x202, f) | .vote f => some (0x203, f) | .redp f => some (0x204, f)
  | .amul f => some (0x240, f) | .afma f => some (0x241, f) | .aconj f => some (0x242, f) | .anorm f => some (0x243, f)
  | .ld f => some (0x280, f) | .st f => some (0x281, f) | .ldk f => some (0x282, f) | .lds f => some (0x283, f) | .sts f => some (0x284, f)
  | .atom f => some (0x285, f) | .daub f => some (0x286, f) | .wst f => some (0x287, f)
  | _ => none

/-- The 96 bits of an L-stream instruction (R81, R82, R91). -/
def encodeL (i : Instr) : Option Nat :=
  match i with
  | .lend h => some (0x3F0 * 2 ^ 86 + bitN h * 2 ^ 84)
  | .lnop h neg k => some (0x3F1 * 2 ^ 86 + bitN h * 2 ^ 84 + bitN neg * 2 ^ 82 + k.val * 2 ^ 78)
  | .pairedWord h x y => some (2 ^ 85 + bitN h * 2 ^ 84 + encodeHalf x * 2 ^ 41 + encodeHalf y)
  | _ => match lCode i with
    | some (op, f) => some (encodeLFields op f)
    | none => none

/-- The words of an instruction as the opcode table numbers them: how many bits, and the bits. Steps of other agents have no words. -/
def encode (i : Instr) : Option (Nat × Nat) :=
  match encodeS i with
  | some c => some (match c.ext with
    | none => (32, c.word)
    | some e => (64, c.word + e * 2 ^ 32))
  | none => match encodeL i with
    | some w => some (96, w)
    | none => none

end Sys2Proof
end

