-- ==== Sys2Proof/Machine/Fetch.lean ====
section
/-! DEFINITION. Fetching the words of both streams (R18, R20, R76, R81): their pages, their bytes, and poison in code (R404). -/

namespace Sys2Proof.Machine

/-- n bytes of one line as the core's fetch finds them: valid bytes of its L1, else the home's with the core's stash, without a fill; a line of another device is filled first. It waits behind an operation at the home (R302). -/
def State.codeBytes (s : State) (st : Stream) (l : Loc) (n : Nat) : Ld :=
  let line := l.line
  let off := l.key % 128
  if s.core.allValid line off n then
    if poisoned s.core.l1Poison (line * 128 + off) n then .poison s else .ok s (s.core.readL1 line off n)
  else if lineRemote line then s.loadGen s.core.n (s.pod.key, st) l n
  else if !s.homeIdle line then .wait s
  else if s.pathBad s.core.n l n then .poison s
  else .ok s ((List.range n).map fun i =>
    (s.core.byteOf line (off + i)).getD (if l.tracked then s.mergedByte s.core.n (l.key + i) else s.homeByte (l.key + i)))

/-- The outcome of a fetch. -/
inductive Fetch | bytes (s : State) (bs : List Byte) | wait (s : State) | poison (s : State) | fault (c : Cause)

/-- The check of one page of a word (R18, R20, R293). -/
def State.fetchPage (s : State) (va : Nat) (perm : W64 → Bool) : Except Cause Loc :=
  if 2 ^ 54 ≤ va then .error .xlateAbsent
  else match s.locate s.core.n s.wg.ctx va with
    | none => .error .xlateAbsent
    | some l => if perm l.leaf then .ok l else .error .xlatePerm

/-- A fetch waits for a walk (R289, R302). -/
def State.fetchBusy (s : State) (va : Nat) : Bool := decide (va < 2 ^ 54) && s.walkBusy s.core.n s.wg.ctx va

/-- Fetches n bytes, n at most 12, that may cross a line and a page. -/
def State.fetch (s : State) (st : Stream) (va n : Nat) (perm : W64 → Bool) : Fetch :=
  if s.fetchBusy va || s.fetchBusy (va + n - 1) then .wait s
  else match s.fetchPage va perm with
  | .error c => .fault c
  | .ok l =>
    match s.fetchPage (va + n - 1) perm with
    | .error c => .fault c
    | .ok _ =>
      let s1 := s.holdLeaf s.core.n s.wg.ctx va (l.level, l.leaf)
      let here := min n (128 - l.key % 128)
      match s1.codeBytes st l here with
      | .wait s => .wait s
      | .poison s => .poison s
      | .ok s2 bs =>
        if here = n then .bytes s2 bs
        else match s2.fetchPage (va + here) perm with
          | .error c => .fault c
          | .ok m =>
            match (s2.holdLeaf s2.core.n s2.wg.ctx (va + here) (m.level, m.leaf)).codeBytes st m (n - here) with
            | .wait s => .wait s
            | .poison s => .poison s
            | .ok s3 cs => .bytes s3 (bs ++ cs)

/-- A fetched word: its bits, and of an S word its extension word (0 where it has none). -/
inductive Word | word (s : State) (w e : Nat) | wait (s : State) | poison (s : State) | fault (c : Cause)

/-- Fetches the S word at the program counter with its extension word (R18, R76). -/
def State.fetchS (s : State) : Word :=
  if s.pod.pc.toNat % 4 ≠ 0 then .fault .misalign
  else match s.fetch .s s.pod.pc.toNat 4 leafSx with
    | .wait s => .wait s
    | .poison s => .poison s
    | .fault c => .fault c
    | .bytes s1 bs =>
      let w := natOfBytes bs
      if !isLong w then .word s1 w 0
      else match s1.fetch .s (s.pod.pc.toNat + 4) 4 leafSx with
        | .wait s => .wait s
        | .poison s => .poison s
        | .fault c => .fault c
        | .bytes s2 cs => .word s2 w (natOfBytes cs)

/-- Fetches the L word at an address (R20, R81). -/
def State.fetchL (s : State) (va : Nat) : Word :=
  match s.fetch .l va 12 leafLx with
  | .wait s => .wait s
  | .poison s => .poison s
  | .fault c => .fault c
  | .bytes s1 bs => .word s1 (natOfBytes bs) 0

/-- The active lanes of an L word by its predicate bits alone, for a word that cannot be decoded (R25, R103); those of a paired word are the lanes of either half. -/
def State.bitsActive (s : State) (w : Nat) : W32 :=
  if bits w 85 1 = 1 then s.select (bits w 70 3) (bit (bits w 73 1)) ||| s.select (bits w 29 3) (bit (bits w 32 1))
  else s.select (bits w 78 4) (bit (bits w 82 1))

end Sys2Proof.Machine
end

