-- ==== Sys2Proof/Machine/Traps.lean ====
section
/-! DEFINITION. TRET (R382) and taking a trap as a step of its own (R378 to R380). -/

namespace Sys2Proof.Machine

/-- Causes that end the job and never reach a handler (R377). -/
def endsJob : Cause → Bool
  | .pipeDeadlock | .bridgeUnmatched | .poison | .matrixReset => true
  | _ => false

/-- A trap of the pod in focus, at its S word or at its lane word (R378, R380). -/
def execTrapEntry (cause : Cause) (lane : Bool) (len rep : Nat) (mask : W32) (addr : W64) (s : State) : Res :=
  ok <|
    if endsJob cause then s.faultPod cause
    else if lane then s.trapL cause mask addr rep
    else s.trapS len cause addr

/-- TRET (R382): after a lane trap it looks at the word at tlpc, to see whether that is LEND and whether its hold bit is set (R35). -/
def execTret (skip : Bool) (s : State) : Res :=
  ok <|
    if !s.pod.inHandler then s.trapS 4 .priv 0
    else s.afterLanes fun s =>
      if skip && s.pod.trapLane then
        match s.fetchL s.pod.tlpc.toNat with
        | .wait s => s.holdS .plain
        | .poison s => s.faultPod .poison
        | .fault _ => s.trapReturn skip false false
        | .word s w _ => s.trapReturn skip (bits w 85 1 == 0 && bits w 86 10 == 0x3F0) (bit (bits w 84 1))
      else s.trapReturn skip false false

end Sys2Proof.Machine
end

