-- ==== Sys2Proof/Machine/Dispatch.lean ====
section
/-! DEFINITION. The meaning of each instruction and step: one arm per constructor of Instr, each one call. -/

namespace Sys2Proof.Machine

def exec (i : Instr) (s : State) : Host.Outcome State Fault Refusal :=
  match i with
  | .sadd d a b => Sys2Proof.Machine.execSadd d a b s
  | .ssub d a b => Sys2Proof.Machine.execSsub d a b s
  | .smul d a b => Sys2Proof.Machine.execSmul d a b s
  | .smulh d a b => Sys2Proof.Machine.execSmulh d a b s
  | .smulhN d a b => Sys2Proof.Machine.execSmulhN d a b s
  | .sdiv d a b => Sys2Proof.Machine.execSdiv d a b s
  | .sdivN d a b => Sys2Proof.Machine.execSdivN d a b s
  | .srem d a b => Sys2Proof.Machine.execSrem d a b s
  | .sremN d a b => Sys2Proof.Machine.execSremN d a b s
  | .smin d a b => Sys2Proof.Machine.execSmin d a b s
  | .sminN d a b => Sys2Proof.Machine.execSminN d a b s
  | .smax d a b => Sys2Proof.Machine.execSmax d a b s
  | .smaxN d a b => Sys2Proof.Machine.execSmaxN d a b s
  | .sand d a b => Sys2Proof.Machine.execSand d a b s
  | .sor d a b => Sys2Proof.Machine.execSor d a b s
  | .sxor d a b => Sys2Proof.Machine.execSxor d a b s
  | .sshl d a b => Sys2Proof.Machine.execSshl d a b s
  | .sshr d a b => Sys2Proof.Machine.execSshr d a b s
  | .ssra d a b => Sys2Proof.Machine.execSsra d a b s
  | .srot d a b => Sys2Proof.Machine.execSrot d a b s
  | .sclz d a => Sys2Proof.Machine.execSclz d a s
  | .spopc d a => Sys2Proof.Machine.execSpopc d a s
  | .sextI8 d a => Sys2Proof.Machine.execSextI8 d a s
  | .sextI16 d a => Sys2Proof.Machine.execSextI16 d a s
  | .sextI32 d a => Sys2Proof.Machine.execSextI32 d a s
  | .slea d a b sh => Sys2Proof.Machine.execSlea d a b sh s
  | .scmpEq d a b => Sys2Proof.Machine.execScmpEq d a b s
  | .scmpNe d a b => Sys2Proof.Machine.execScmpNe d a b s
  | .scmpLt d a b => Sys2Proof.Machine.execScmpLt d a b s
  | .scmpLe d a b => Sys2Proof.Machine.execScmpLe d a b s
  | .scmpGt d a b => Sys2Proof.Machine.execScmpGt d a b s
  | .scmpGe d a b => Sys2Proof.Machine.execScmpGe d a b s
  | .scmpLtN d a b => Sys2Proof.Machine.execScmpLtN d a b s
  | .scmpLeN d a b => Sys2Proof.Machine.execScmpLeN d a b s
  | .scmpGtN d a b => Sys2Proof.Machine.execScmpGtN d a b s
  | .scmpGeN d a b => Sys2Proof.Machine.execScmpGeN d a b s
  | .ssel d a b => Sys2Proof.Machine.execSsel d a b s
  | .saddImm d a im => Sys2Proof.Machine.execSaddImm d a im s
  | .sandImm d a im => Sys2Proof.Machine.execSandImm d a im s
  | .sorImm d a im => Sys2Proof.Machine.execSorImm d a im s
  | .sxorImm d a im => Sys2Proof.Machine.execSxorImm d a im s
  | .sshlImm d a n => Sys2Proof.Machine.execSshlImm d a n s
  | .sshrImm d a n => Sys2Proof.Machine.execSshrImm d a n s
  | .ssraImm d a n => Sys2Proof.Machine.execSsraImm d a n s
  | .srotImm d a n => Sys2Proof.Machine.execSrotImm d a n s
  | .sbfx d a sx p w => Sys2Proof.Machine.execSbfx d a sx p w s
  | .sbfi d a p w => Sys2Proof.Machine.execSbfi d a p w s
  | .sli d im => Sys2Proof.Machine.execSli d im s
  | .sli32 d x => Sys2Proof.Machine.execSli32 d x s
  | .slui d x => Sys2Proof.Machine.execSlui d x s
  | .sld d a z sx o => Sys2Proof.Machine.execSld d a z sx o s
  | .sst d a z o => Sys2Proof.Machine.execSst d a z o s
  | .sldk d a z sx o => Sys2Proof.Machine.execSldk d a z sx o s
  | .slds d a z sx o => Sys2Proof.Machine.execSlds d a z sx o s
  | .ssts d a z o => Sys2Proof.Machine.execSsts d a z o s
  | .sldAcq d a z sx o scope => Sys2Proof.Machine.execSldAcq d a z sx o scope s
  | .sstRel d a z o scope => Sys2Proof.Machine.execSstRel d a z o scope s
  | .br o => Sys2Proof.Machine.execBr o s
  | .call o => Sys2Proof.Machine.execCall o s
  | .bz c o => Sys2Proof.Machine.execBz c o s
  | .bnz c o => Sys2Proof.Machine.execBnz c o s
  | .bany k o => Sys2Proof.Machine.execBany k o s
  | .ball k o => Sys2Proof.Machine.execBall k o s
  | .bnone k o => Sys2Proof.Machine.execBnone k o s
  | .brx a b => Sys2Proof.Machine.execBrx a b s
  | .ret a => Sys2Proof.Machine.execRet a s
  | .lgo im => Sys2Proof.Machine.execLgo im s
  | .kmovKK d a => Sys2Proof.Machine.execKmovKK d a s
  | .kmovKS d a => Sys2Proof.Machine.execKmovKS d a s
  | .kmovSK d a => Sys2Proof.Machine.execKmovSK d a s
  | .kand d a b => Sys2Proof.Machine.execKand d a b s
  | .kor d a b => Sys2Proof.Machine.execKor d a b s
  | .kxor d a b => Sys2Proof.Machine.execKxor d a b s
  | .knot d a => Sys2Proof.Machine.execKnot d a s
  | .kpop d a => Sys2Proof.Machine.execKpop d a s
  | .kfirst d a => Sys2Proof.Machine.execKfirst d a s
  | .trap c => Sys2Proof.Machine.execTrap c s
  | .brk c => Sys2Proof.Machine.execBrk c s
  | .nop => Sys2Proof.Machine.execNop s
  | .lwait => Sys2Proof.Machine.execLwait s
  | .exit => Sys2Proof.Machine.execExit s
  | .srd d n => Sys2Proof.Machine.execSrd d n s
  | .swr a n => Sys2Proof.Machine.execSwr a n s
  | .sten a b => Sys2Proof.Machine.execSten a b s
  | .laydef d a n sp => Sys2Proof.Machine.execLaydef d a n sp s
  | .layq d a n sp => Sys2Proof.Machine.execLayq d a n sp s
  | .mma f => Sys2Proof.Machine.execMma f s
  | .mmaw f => Sys2Proof.Machine.execMmaw f s
  | .mmag f => Sys2Proof.Machine.execMmag f s
  | .tld d a t lay => Sys2Proof.Machine.execTld d a t lay s
  | .tst d a t lay => Sys2Proof.Machine.execTst d a t lay s
  | .tmovToV v t row => Sys2Proof.Machine.execTmovToV v t row s
  | .tmovToTile v t row => Sys2Proof.Machine.execTmovToTile v t row s
  | .tzero t => Sys2Proof.Machine.execTzero t s
  | .aclr x c => Sys2Proof.Machine.execAclr x c s
  | .ald d a acc lay => Sys2Proof.Machine.execAld d a acc lay s
  | .astore d a b acc lay => Sys2Proof.Machine.execAstore d a b acc lay s
  | .atot b tr t f sat => Sys2Proof.Machine.execAtot b tr t f sat s
  | .alg d a g sp => Sys2Proof.Machine.execAlg d a g sp s
  | .wgsync => Sys2Proof.Machine.execWgsync s
  | .binit d a b => Sys2Proof.Machine.execBinit d a b s
  | .barr a b => Sys2Proof.Machine.execBarr a b s
  | .barrx a b => Sys2Proof.Machine.execBarrx a b s
  | .bwait a b => Sys2Proof.Machine.execBwait a b s
  | .btest d a b par => Sys2Proof.Machine.execBtest d a b par s
  | .tktake a b sys => Sys2Proof.Machine.execTktake a b sys s
  | .tkwait a b sys => Sys2Proof.Machine.execTkwait a b sys s
  | .tkserve a sys => Sys2Proof.Machine.execTkserve a sys s
  | .ppush d p x => Sys2Proof.Machine.execPpush d p x s
  | .ppop d p x => Sys2Proof.Machine.execPpop d p x s
  | .pclose p => Sys2Proof.Machine.execPclose p s
  | .pstat d p => Sys2Proof.Machine.execPstat d p s
  | .pyield d => Sys2Proof.Machine.execPyield d s
  | .seed d x c => Sys2Proof.Machine.execSeed d x c s
  | .cancel d lv => Sys2Proof.Machine.execCancel d lv s
  | .phase o scope => Sys2Proof.Machine.execPhase o scope s
  | .pfence f t => Sys2Proof.Machine.execPfence f t s
  | .satom f => Sys2Proof.Machine.execSatom f s
  | .addst d a b acc lay rel => Sys2Proof.Machine.execAddst d a b acc lay rel s
  | .daubq d shelf => Sys2Proof.Machine.execDaubq d shelf s
  | .redx d a b m g => Sys2Proof.Machine.execRedx d a b m g s
  | .tcopy f => Sys2Proof.Machine.execTcopy f s
  | .tcopym f => Sys2Proof.Machine.execTcopym f s
  | .rflush d a b bar => Sys2Proof.Machine.execRflush d a b bar s
  | .rinval d a b bar => Sys2Proof.Machine.execRinval d a b bar s
  | .rdisc d a b bar => Sys2Proof.Machine.execRdisc d a b bar s
  | .feset a b => Sys2Proof.Machine.execFeset a b s
  | .feclr a b => Sys2Proof.Machine.execFeclr a b s
  | .coat a n b km => Sys2Proof.Machine.execCoat a n b km s
  | .tret skip => Sys2Proof.Machine.execTret skip s
  | .xsend d a b c => Sys2Proof.Machine.execXsend d a b c s
  | .xwait a b => Sys2Proof.Machine.execXwait a b s
  | .set d g => Sys2Proof.Machine.execSet d g s
  | .scrape d g => Sys2Proof.Machine.execScrape d g s
  | .waita d a b => Sys2Proof.Machine.execWaita d a b s
  | .iadd f => Sys2Proof.Machine.execIadd f s
  | .isub f => Sys2Proof.Machine.execIsub f s
  | .imul f => Sys2Proof.Machine.execImul f s
  | .imin f => Sys2Proof.Machine.execImin f s
  | .imax f => Sys2Proof.Machine.execImax f s
  | .iabs f => Sys2Proof.Machine.execIabs f s
  | .ineg f => Sys2Proof.Machine.execIneg f s
  | .and f => Sys2Proof.Machine.execAnd f s
  | .or f => Sys2Proof.Machine.execOr f s
  | .xor f => Sys2Proof.Machine.execXor f s
  | .not f => Sys2Proof.Machine.execNot f s
  | .shl f => Sys2Proof.Machine.execShl f s
  | .shr f => Sys2Proof.Machine.execShr f s
  | .sra f => Sys2Proof.Machine.execSra f s
  | .rot f => Sys2Proof.Machine.execRot f s
  | .clz f => Sys2Proof.Machine.execClz f s
  | .popc f => Sys2Proof.Machine.execPopc f s
  | .brev f => Sys2Proof.Machine.execBrev f s
  | .mov f => Sys2Proof.Machine.execMov f s
  | .lidx f => Sys2Proof.Machine.execLidx f s
  | .fadd f => Sys2Proof.Machine.execFadd f s
  | .fsub f => Sys2Proof.Machine.execFsub f s
  | .fmul f => Sys2Proof.Machine.execFmul f s
  | .fmin f => Sys2Proof.Machine.execFmin f s
  | .fmax f => Sys2Proof.Machine.execFmax f s
  | .frnd f => Sys2Proof.Machine.execFrnd f s
  | .cvt f => Sys2Proof.Machine.execCvt f s
  | .iaddc f => Sys2Proof.Machine.execIaddc f s
  | .imulh f => Sys2Proof.Machine.execImulh f s
  | .imad f => Sys2Proof.Machine.execImad f s
  | .idiv f => Sys2Proof.Machine.execIdiv f s
  | .irem f => Sys2Proof.Machine.execIrem f s
  | .bfx f => Sys2Proof.Machine.execBfx f s
  | .bfi f => Sys2Proof.Machine.execBfi f s
  | .icmp f => Sys2Proof.Machine.execIcmp f s
  | .sel f => Sys2Proof.Machine.execSel f s
  | .ffma f => Sys2Proof.Machine.execFfma f s
  | .fcmp f => Sys2Proof.Machine.execFcmp f s
  | .fclass f => Sys2Proof.Machine.execFclass f s
  | .pack f => Sys2Proof.Machine.execPack f s
  | .unpk f => Sys2Proof.Machine.execUnpk f s
  | .rcp f => Sys2Proof.Machine.execRcp f s
  | .rsq f => Sys2Proof.Machine.execRsq f s
  | .sqrt f => Sys2Proof.Machine.execSqrt f s
  | .div f => Sys2Proof.Machine.execDiv f s
  | .exp2 f => Sys2Proof.Machine.execExp2 f s
  | .log2 f => Sys2Proof.Machine.execLog2 f s
  | .sinpi f => Sys2Proof.Machine.execSinpi f s
  | .cospi f => Sys2Proof.Machine.execCospi f s
  | .sfuComplete p => Sys2Proof.Machine.execSfuComplete p s
  | .dadd f => Sys2Proof.Machine.execDadd f s
  | .dsub f => Sys2Proof.Machine.execDsub f s
  | .dmul f => Sys2Proof.Machine.execDmul f s
  | .dfma f => Sys2Proof.Machine.execDfma f s
  | .ddiv f => Sys2Proof.Machine.execDdiv f s
  | .dqua f => Sys2Proof.Machine.execDqua f s
  | .dcmp f => Sys2Proof.Machine.execDcmp f s
  | .dcvt f => Sys2Proof.Machine.execDcvt f s
  | .dscb f => Sys2Proof.Machine.execDscb f s
  | .movi f => Sys2Proof.Machine.execMovi f s
  | .shfl f => Sys2Proof.Machine.execShfl f s
  | .bcast f => Sys2Proof.Machine.execBcast f s
  | .vote f => Sys2Proof.Machine.execVote f s
  | .redp f => Sys2Proof.Machine.execRedp f s
  | .amul f => Sys2Proof.Machine.execAmul f s
  | .afma f => Sys2Proof.Machine.execAfma f s
  | .aconj f => Sys2Proof.Machine.execAconj f s
  | .anorm f => Sys2Proof.Machine.execAnorm f s
  | .ld f => Sys2Proof.Machine.execLd f s
  | .st f => Sys2Proof.Machine.execSt f s
  | .ldk f => Sys2Proof.Machine.execLdk f s
  | .lds f => Sys2Proof.Machine.execLds f s
  | .sts f => Sys2Proof.Machine.execSts f s
  | .atom f => Sys2Proof.Machine.execAtom f s
  | .daub f => Sys2Proof.Machine.execDaub f s
  | .wst f => Sys2Proof.Machine.execWst f s
  | .lend h => Sys2Proof.Machine.execLend h s
  | .lnop h neg k => Sys2Proof.Machine.execLnop h neg k s
  | .pairedWord h x y => Sys2Proof.Machine.execPairedWord h x y s
  | .trapEntry cause lane len rep mask addr => Sys2Proof.Machine.execTrapEntry cause lane len rep mask addr s
  | .matrixStepComplete core => Sys2Proof.Machine.execMatrixStepComplete core s
  | .doorbell ring tail => Sys2Proof.Machine.execDoorbell ring tail s
  | .launch ring => Sys2Proof.Machine.execLaunch ring s
  | .pipeline ring => Sys2Proof.Machine.execPipeline ring s
  | .cancelCommand ring => Sys2Proof.Machine.execCancelCommand ring s
  | .jobEnd ring => Sys2Proof.Machine.execJobEnd ring s
  | .wait ring => Sys2Proof.Machine.execWait ring s
  | .waitRecheck ring => Sys2Proof.Machine.execWaitRecheck ring s
  | .translationInvalidate ring => Sys2Proof.Machine.execTranslationInvalidate ring s
  | .descriptorInvalidate ring => Sys2Proof.Machine.execDescriptorInvalidate ring s
  | .setResolve ring => Sys2Proof.Machine.execSetResolve ring s
  | .contextCreate => Sys2Proof.Machine.execContextCreate s
  | .contextEnd => Sys2Proof.Machine.execContextEnd s
  | .ringConfigure => Sys2Proof.Machine.execRingConfigure s
  | .domain => Sys2Proof.Machine.execDomain s
  | .admCfgWrite x => Sys2Proof.Machine.execAdmCfgWrite x s
  | .admBaseWrite x => Sys2Proof.Machine.execAdmBaseWrite x s
  | .admHeadWrite x => Sys2Proof.Machine.execAdmHeadWrite x s
  | .registerWrite offset x => Sys2Proof.Machine.execRegisterWrite offset x s
  | .sensors readings => Sys2Proof.Machine.execSensors readings s
  | .eventLog arg => Sys2Proof.Machine.execEventLog arg s
  | .imageChunk arg => Sys2Proof.Machine.execImageChunk arg s
  | .imageCommit img => Sys2Proof.Machine.execImageCommit img s
  | .powerRequest arg => Sys2Proof.Machine.execPowerRequest arg s
  | .securityState arg token => Sys2Proof.Machine.execSecurityState arg token s
  | .debugState arg => Sys2Proof.Machine.execDebugState arg s
  | .warmResetCommand => Sys2Proof.Machine.execWarmResetCommand s
  | .placementDecision => Sys2Proof.Machine.execPlacementDecision s
  | .preemptSave wg => Sys2Proof.Machine.execPreemptSave wg s
  | .balancerInterval pl => Sys2Proof.Machine.execBalancerInterval pl s
  | .seedBinTimeout die launch entry => Sys2Proof.Machine.execSeedBinTimeout die launch entry s
  | .pipePushAccept pl p => Sys2Proof.Machine.execPipePushAccept pl p s
  | .pipePopAccept pl p => Sys2Proof.Machine.execPipePopAccept pl p s
  | .pipeDeadlockDeclare pl => Sys2Proof.Machine.execPipeDeadlockDeclare pl s
  | .pipeDrainSpill pl => Sys2Proof.Machine.execPipeDrainSpill pl s
  | .matrixReset core => Sys2Proof.Machine.execMatrixReset core s
  | .jobStart core job => Sys2Proof.Machine.execJobStart core job s
  | .landingSlotGrant core job => Sys2Proof.Machine.execLandingSlotGrant core job s
  | .landing core job => Sys2Proof.Machine.execLanding core job s
  | .jobStatusLand core job => Sys2Proof.Machine.execJobStatusLand core job s
  | .pendingBytes pub line => Sys2Proof.Machine.execPendingBytes pub line s
  | .notice core line => Sys2Proof.Machine.execNotice core line s
  | .noticeAcknowledge line => Sys2Proof.Machine.execNoticeAcknowledge line s
  | .homeReport pub line => Sys2Proof.Machine.execHomeReport pub line s
  | .commit pub line => Sys2Proof.Machine.execCommit pub line s
  | .commitConfirm pub line => Sys2Proof.Machine.execCommitConfirm pub line s
  | .fill r => Sys2Proof.Machine.execFill r s
  | .fillReply core line data marked => Sys2Proof.Machine.execFillReply core line data marked s
  | .evictionBytes core line => Sys2Proof.Machine.execEvictionBytes core line s
  | .untrackedWriteBack core line => Sys2Proof.Machine.execUntrackedWriteBack core line s
  | .guestInvalidation sector line => Sys2Proof.Machine.execGuestInvalidation sector line s
  | .atomicAtHome r => Sys2Proof.Machine.execAtomicAtHome r s
  | .addstLine r => Sys2Proof.Machine.execAddstLine r s
  | .ticketOperation r => Sys2Proof.Machine.execTicketOperation r s
  | .ticketServingValue p key value => Sys2Proof.Machine.execTicketServingValue p key value s
  | .daubAtHome r => Sys2Proof.Machine.execDaubAtHome r s
  | .daubCopy core line seq data sender => Sys2Proof.Machine.execDaubCopy core line seq data sender s
  | .daubAnswer sender line accepted => Sys2Proof.Machine.execDaubAnswer sender line accepted s
  | .hbmWriteBack block => Sys2Proof.Machine.execHbmWriteBack block s
  | .discardArrival lo len => Sys2Proof.Machine.execDiscardArrival lo len s
  | .ownershipGrant die line pub => Sys2Proof.Machine.execOwnershipGrant die line pub s
  | .forwardedFill r => Sys2Proof.Machine.execForwardedFill r s
  | .ownerWriteBack die line => Sys2Proof.Machine.execOwnerWriteBack die line s
  | .writeBackAck die line => Sys2Proof.Machine.execWriteBackAck die line s
  | .recall die line => Sys2Proof.Machine.execRecall die line s
  | .recalledPart die line bytes => Sys2Proof.Machine.execRecalledPart die line bytes s
  | .relayedNotice die line => Sys2Proof.Machine.execRelayedNotice die line s
  | .reductionContribution c => Sys2Proof.Machine.execReductionContribution c s
  | .roundTimeout die launch group => Sys2Proof.Machine.execRoundTimeout die launch group s
  | .reductionDelivery die launch group => Sys2Proof.Machine.execReductionDelivery die launch group s
  | .ualinkRequest src seq op => Sys2Proof.Machine.execUalinkRequest src seq op s
  | .ualinkAck dst seq data => Sys2Proof.Machine.execUalinkAck dst seq data s
  | .retransmitTimeout dst seq => Sys2Proof.Machine.execRetransmitTimeout dst seq s
  | .portDown peer plane => Sys2Proof.Machine.execPortDown peer plane s
  | .announce peer => Sys2Proof.Machine.execAnnounce peer s
  | .xsendPacket p => Sys2Proof.Machine.execXsendPacket p s
  | .wetStoreMessage k line bytes => Sys2Proof.Machine.execWetStoreMessage k line bytes s
  | .setPrepare k count => Sys2Proof.Machine.execSetPrepare k count s
  | .setReady k dev ok => Sys2Proof.Machine.execSetReady k dev ok s
  | .prepareTimeout k => Sys2Proof.Machine.execPrepareTimeout k s
  | .setCommit k => Sys2Proof.Machine.execSetCommit k s
  | .commitResend k => Sys2Proof.Machine.execCommitResend k s
  | .setScrape k => Sys2Proof.Machine.execSetScrape k s
  | .decisionQuery k => Sys2Proof.Machine.execDecisionQuery k s
  | .bridgeOpen peer tag e names => Sys2Proof.Machine.execBridgeOpen peer tag e names s
  | .bridgeOpenTimeout pl p => Sys2Proof.Machine.execBridgeOpenTimeout pl p s
  | .bridgeTile peer tag data => Sys2Proof.Machine.execBridgeTile peer tag data s
  | .bridgeCredit peer tag => Sys2Proof.Machine.execBridgeCredit peer tag s
  | .hostRead addr len => Sys2Proof.Machine.execHostRead addr len s
  | .hostWrite addr bytes => Sys2Proof.Machine.execHostWrite addr bytes s
  | .hostSnoop line => Sys2Proof.Machine.execHostSnoop line s
  | .waitaRecheck p => Sys2Proof.Machine.execWaitaRecheck p s
  | .coldReset => Sys2Proof.Machine.execColdReset s
  | .warmReset => Sys2Proof.Machine.execWarmReset s
  | .skepinReset => Sys2Proof.Machine.execSkepinReset s
  | .bringUpStep ok => Sys2Proof.Machine.execBringUpStep ok s
  | .thermalTrip sector temp => Sys2Proof.Machine.execThermalTrip sector temp s
  | .p1Entry c => Sys2Proof.Machine.execP1Entry c s
  | .p1Exit => Sys2Proof.Machine.execP1Exit s
  | .idleEntry => Sys2Proof.Machine.execIdleEntry s
  | .idleExit => Sys2Proof.Machine.execIdleExit s
  | .spdmRequest r => Sys2Proof.Machine.execSpdmRequest r s
  | .ideKm => Sys2Proof.Machine.execIdeKm s
  | .debuggerAccess o => Sys2Proof.Machine.execDebuggerAccess o s
  | .softError blk correctable place => Sys2Proof.Machine.execSoftError blk correctable place s
  | .flitReplay link => Sys2Proof.Machine.execFlitReplay link s
  | .portUp peer plane => Sys2Proof.Machine.execPortUp peer plane s
  | .powerRemoved => Sys2Proof.Machine.execPowerRemoved s
  | .bridgeClose peer tag => Sys2Proof.Machine.execBridgeClose peer tag s
  | .hostAcknowledgement n => Sys2Proof.Machine.execHostAcknowledgement n s
  | .memoryWrite core job => Sys2Proof.Machine.execMemoryWrite core job s
  | .heldBridgeOpenDrop peer tag => Sys2Proof.Machine.execHeldBridgeOpenDrop peer tag s
  | .sealAtManufacture => Sys2Proof.Machine.execSealAtManufacture s

end Sys2Proof.Machine
end

