-- ==== Sys2Proof/Machine/Hazard.lean ====
section
/-! DEFINITION. When an S word has to wait for an earlier lane block (R28, R29): what the words still to run touch, what the S word touches, and whether the two conflict. -/

namespace Sys2Proof.Machine

/-- What a word touches. Scratchpad, memory and virtual ranges are pairs of a first byte and a length; memory is by byte key. -/
structure Uses where
  kR : List Nat := []
  kW : List Nat := []
  vR : List Nat := []
  vW : List Nat := []
  scrR : List (Nat × Nat) := []
  scrW : List (Nat × Nat) := []
  memR : List (Nat × Nat) := []
  memW : List (Nat × Nat) := []
  vaR : List (Nat × Nat) := []
  vaW : List (Nat × Nat) := []
  /-- granules whose full-empty bits are touched -/
  fe : List (Nat × Nat) := []
  algs : List Nat := []
  fsr : Bool := false
  ten : Bool := false
  brnd : Bool := false
  drnd : Bool := false
  /-- a lane word may trap; an S word waits for those that may -/
  traps : Bool := false
  /-- a lane word daubs; an S word asks for the answers -/
  daub : Bool := false
  /-- an S word waits for every earlier store (R299) -/
  release : Bool := false

/-- Every byte of a space: what a word touches whose addresses are not known yet (R29). -/
def everywhere : List (Nat × Nat) := [(0, 2 ^ 70)]

def overlap (a b : List (Nat × Nat)) : Bool := a.any fun x => b.any fun y => decide (x.1 < y.1 + y.2) && decide (y.1 < x.1 + x.2)
def meets (a b : List Nat) : Bool := a.any b.contains

/-- An S word conflicts with a lane word that comes before it (R29). -/
def Uses.conflict (s l : Uses) : Bool :=
  meets s.kR l.kW || meets s.kW l.kR || meets s.kW l.kW
  || meets s.vR l.vW || meets s.vW l.vR || meets s.vW l.vW
  || overlap s.scrR l.scrW || overlap s.scrW l.scrR || overlap s.scrW l.scrW
  || overlap s.memR l.memW || overlap s.memW l.memR || overlap s.memW l.memW
  || overlap s.vaR l.vaW || overlap s.vaW l.vaR || overlap s.vaW l.vaW || overlap s.fe l.fe || meets s.algs l.algs
  || (s.fsr && l.fsr) || (s.ten && l.ten) || (s.brnd && l.brnd) || (s.drnd && l.drnd) || (s.traps && l.traps) || (s.daub && l.daub)
  || (s.release && !(l.scrW.isEmpty && l.memW.isEmpty))

/-! ## Lane words -/

/-- The row of R143 that an L opcode follows; CVT's source type decides its width. -/
def rowOf (op : Nat) (f : LFields) : LRow :=
  if op ≤ 0x003 then rowInt2Sat
  else if op ≤ 0x005 then rowInt2
  else if op ≤ 0x007 then rowNeg
  else if op ≤ 0x00A then rowInt2
  else if op = 0x00B then rowInt1
  else if op ≤ 0x00F then rowShift
  else if op ≤ 0x012 then rowInt1
  else if op = 0x013 then rowMov
  else if op = 0x014 then rowLidx
  else if op ≤ 0x084 then rowF2
  else if op = 0x085 then rowF1
  else if op = 0x086 then
    { rowF1 with a := match LType.ofCode (f.ctl 0 4) with
        | some t => if t.wide then .wide else .n32
        | none => .n32 }
  else match op with
    | 0x100 => rowIaddc | 0x101 => rowImulh | 0x102 => rowImad | 0x103 => rowIdiv | 0x104 => rowIrem | 0x105 | 0x106 => rowBf
    | 0x107 => rowIcmp | 0x108 => rowSel | 0x140 => rowFfma | 0x141 => rowFcmp | 0x142 => rowFclass | 0x143 => rowPack | 0x144 => rowUnpk
    | 0x182 => rowSfu64 | 0x183 => rowDiv | 0x1C3 => rowDfma | 0x1C6 => rowDcmp | 0x1C7 => rowDcvt | 0x1C8 => rowDscb
    | 0x200 => rowMovi | 0x201 => rowShfl | 0x202 => rowBcast | 0x203 => rowVote | 0x204 => rowRedp
    | 0x280 | 0x282 => rowLoad | 0x283 => rowLoadS | 0x281 | 0x287 => rowStore | 0x284 => rowStoreS
    | _ => if op < 0x1C0 then rowSfu else rowDec2

/-- The registers that a word covers beyond the first of each field (R11, R178, R182). -/
def spansOf (op : Nat) (f : LFields) : Spans :=
  let g := algDim (f.ctl 5 2) * (if f.ty.wide then 2 else 1) - 1
  match op with
  | 0x240 => { d := g, a := some g, b := some g }
  | 0x241 => { d := g, a := some g, b := some g, c := some g }
  | 0x242 => { d := g, a := some g }
  | 0x243 => { d := wideSpan f.ty.wide, a := some g }
  | 0x285 => atomSpans f
  | 0x286 => daubSpans f
  | _ => rowSpans (rowOf op f) f.ty

/-- CVT between integers raises nothing (R63, R163). -/
def cvtFlags (td : LType) (ts : Nat) : Bool := !(td.isInt && ((LType.ofCode ts).map LType.isInt).getD false)

/-- Words that can set a flag (R148): of CVT, PACK, UNPK and REDP the floating forms (R163 to R165, R177); FCLASS raises nothing (R160). -/
def setsFlags (op : Nat) (f : LFields) : Bool :=
  if op = 0x086 then cvtFlags f.ty (f.ctl 0 4)
  else if op = 0x142 then false
  else if op = 0x143 then f.ty == .f32
  else if op = 0x144 then decide (f.ctl 0 4 ≤ 1 ∨ f.ctl 0 4 = 5)
  else if op = 0x204 then !f.ty.isInt
  else (decide (0x080 ≤ op) && decide (op ≤ 0x085)) || (decide (0x140 ≤ op) && decide (op < 0x200)) || (decide (0x240 ≤ op) && decide (op ≤ 0x243))

/-- A word that rounds by the decimal mode register, where it rounds as dyn (R55, R66). -/
def decimalMode (op : Nat) (f : LFields) : Bool := (decide (0x1C0 ≤ op) && decide (op < 0x200)) || (op == 0x086 && f.ty == .d64)

/-- Half of a paired word that can set a flag. -/
def halfFlags (x : Half) : Bool := !x.op.isIntClass && (!(x.op == .cvt) || cvtFlags x.ty x.src.code)

/-- Registers whose values the words before this one may still change. -/
structure Dirty where
  v : List Nat := []
  o : Bool := false
  k : List Nat := []

/-- An address source whose value stands already. -/
def Dirty.stands (d : Dirty) (f : LFields) (span : Option Nat) (x : Src) : Bool :=
  match x with
  | .o _ => !d.o
  | .b _ => false
  | _ => !meets (srcRegs f span x) d.v

/-- k registers that a word reads and writes. -/
def kUses (op : Nat) (f : LFields) : List Nat × List Nat :=
  let dest := match f.dest with
    | .k n => (List.range (f.rep.val + 1)).map fun i => n + i * (f.stride.val + 1)
    | _ => []
  if op = 0x100 then ([f.k.val, f.ctl 0 4], f.ctl 0 4 :: dest)
  else if op = 0x108 then ([f.k.val, f.ctl 0 4], dest)
  else ([f.k.val], dest)

/-- The state with a block at the head of the queue, at a repetition. -/
def State.atRep (s : State) (b : Block) (i : Nat) : State := { s with pod := { s.pod with queue := [{ b with rep := i }] } }

/-- What the memory part of a word touches: its bytes where its addresses stand, every byte of its space where not. -/
def State.memUses (s : State) (b : Block) (first : Bool) (d : Dirty) (op : Nat) (f : LFields) (u : Uses) : Uses :=
  let scratch := op == 0x283 || op == 0x284 || (op == 0x285 && decide (f.ctl 19 1 = 1))
  let withB := !(op == 0x285 || op == 0x286)
  let reads := op == 0x280 || op == 0x282 || op == 0x283 || op == 0x285
  let writes := op == 0x281 || op == 0x284 || op == 0x285 || op == 0x286 || op == 0x287
  if !(reads || writes) then u
  else
    let sp := spansOf op f
    let stands := d.stands f sp.a f.a && (!withB || d.stands f sp.b f.b) && (!d.k.contains f.k.val || f.k.val == 0)
    let act : W32 := if first && decide (b.rep ≠ 0) then b.act else (s.atRep b 0).select f.k.val f.neg
    let reps := (List.range (f.rep.val + 1)).drop (if first then b.rep else 0)
    let n := typeBytes f.ty
    let es := reps.flatMap fun i => (s.atRep b i).laneAddrs f (if op == 0x285 then 0 else lDisp f) scratch withB act
    let fe := decide ((op = 0x283 ∨ op = 0x284) ∧ f.ctl 19 1 = 1)
    if scratch then
      let r := if stands then es.map fun e => (e.2.toNat, n) else everywhere
      { u with
        scrR := if reads then r else []
        scrW := if writes then r else []
        traps := u.traps || !stands || es.any fun e => (s.scratchFails e.2 n).isSome
        fe := if fe then (if stands then es.map fun e => (e.2.toNat / 16, 1) else everywhere) else [] }
    else
      let r := if stands then es.map fun e => ((s.locOf e.2).key, n) else everywhere
      let v := if stands then es.map fun e => (e.2.toNat, n) else everywhere
      { u with
        memR := if reads then r else []
        memW := if writes then r else []
        vaR := if reads then v else []
        vaW := if writes then v else []
        traps := u.traps || !stands || es.any fun e => (s.flatFails e.2 n writes (op == 0x285 || op == 0x286 || op == 0x287)).isSome
        daub := op == 0x286 }

/-- What a single-operation lane word touches. -/
def State.laneUses (s : State) (b : Block) (first : Bool) (d : Dirty) (op : Nat) (f : LFields) : Uses :=
  let sp := spansOf op f
  let k := kUses op f
  let fl := setsFlags op f
  let alg := decide (0x240 ≤ op) && decide (op ≤ 0x243)
  let dyn := fl && f.rnd == .dyn
  s.memUses b first d op f
    { kR := k.1, kW := k.2
      vR := if op = 0x200 then List.range 256 else readRegs f sp
      vW := destRegs f sp.d
      algs := if alg then [f.ctl 0 2] else []
      fsr := fl, ten := fl
      brnd := dyn && !decimalMode op f, drnd := dyn && decimalMode op f
      traps := (fl && s.pod.ten != 0) || op == 0x103 || op == 0x104 || !(readRegs f sp ++ destRegs f sp.d).all s.granted
        || (usesLatch f && (decide (b.hRun = 0) || decide (8 < b.hRun))) || (alg && decide (s.wg.grant.algs ≤ f.ctl 0 2)) }

/-- What a lane word touches, and what it leaves unsettled for those behind it. -/
def State.wordUses (s : State) (b : Block) (first : Bool) (d : Dirty) (i : Instr) : Uses × Dirty :=
  match lCode i with
  | some (op, f) =>
    let u := s.laneUses b first d op f
    (u, { v := d.v ++ u.vW
          o := d.o || (match f.dest with
            | .o _ => true
            | _ => false)
          k := d.k ++ u.kW })
  | none =>
    match i with
    | .pairedWord _ x y =>
      let fl := halfFlags x || halfFlags y
      let vs := x.vReads ++ y.vReads ++ x.vDests ++ y.vDests
      ({ kR := [x.k.val, y.k.val], vR := x.vReads ++ y.vReads, vW := x.vDests ++ y.vDests, fsr := fl, ten := fl, brnd := fl
         traps := (fl && s.pod.ten != 0) || !vs.all s.granted
           || ((halfLatch x || halfLatch y) && (decide (b.hRun = 0) || decide (8 < b.hRun))) },
       { d with v := d.v ++ x.vDests ++ y.vDests, o := d.o || (x.dests ++ y.dests).any fun z => match z with
          | .o _ => true
          | _ => false })
    | _ => ({}, d)

/-- Words of one block that are looked at; a longer block counts as touching everything behind them. -/
def lookAhead : Nat := 1024

def usesAll : Uses :=
  { kR := List.range 16, kW := List.range 16, vR := List.range 256, vW := List.range 256, scrR := everywhere, scrW := everywhere,
    memR := everywhere, memW := everywhere, vaR := everywhere, vaW := everywhere, fe := everywhere, algs := List.range 4, fsr := true,
    ten := true, brnd := true, drnd := true, traps := true, daub := true }

/-- The hold bit of a lane word (R35). -/
def holdBit : Instr → Bool
  | .pairedWord h _ _ | .lnop h _ _ => h
  | i => ((lCode i).map fun x => x.2.h).getD false

/-- A look at words still to run: what they touch, what they leave unsettled, and the state in which the fetch of a word that is not at hand has begun. -/
structure Look where
  uses : List Uses
  dirty : Dirty
  fetching : Option State

/-- The words of a block from its current one to LEND; a word that traps as it is fetched or decoded ends the look, and so does one that cannot be fetched yet, which counts as touching everything. -/
def State.blockUses (s : State) (b : Block) : Nat → Bool → Dirty → Look
  | 0, _, d => ⟨[usesAll], d, none⟩
  | n + 1, first, d =>
    match s.fetchL (s.lAddr b.word).toNat with
    | .word _ w _ =>
      match decodeL w with
      | some (.lend _) => ⟨[], d, none⟩
      | none => ⟨[{ traps := true }], d, none⟩
      | some i =>
        let (u, d1) := s.wordUses b first d i
        let l := s.blockUses { b with word := b.word + 1, rep := 0, hRun := if holdBit i then b.hRun + 1 else 0 } n false d1
        { l with uses := u :: l.uses }
    | .wait t => ⟨[usesAll], d, some t⟩
    | .poison _ => ⟨[], d, none⟩
    | .fault _ => ⟨[{ traps := true }], d, none⟩

/-- What the lane blocks still to run touch, in program order. -/
def State.queueUses (s : State) : List Block → Dirty → Look
  | [], d => ⟨[], d, none⟩
  | b :: r, d =>
    let l := s.blockUses b lookAhead true d
    if l.fetching.isSome then l
    else
      let m := s.queueUses r l.dirty
      { m with uses := l.uses ++ m.uses }

/-- What an SFU word in flight still has to write (R162). -/
def SfuOp.uses (o : SfuOp) : Uses := { vW := dedup (o.vw.map fun e => e.1 / 32), fsr := true }

/-! ## S words -/

/-- A byte key range of a flat access. -/
def State.flatRange (s : State) (e : W64) (n : Nat) : List (Nat × Nat) :=
  if 2 ^ 54 ≤ e.toNat then []
  else match s.locate s.core.n s.wg.ctx e.toNat with
    | some l => [(l.key, n)]
    | none => []

/-- The bytes of the boxes that a tile move touches, by space. -/
def State.boxRanges (s : State) (a lay : Nat) : List (Nat × Nat) × List (Nat × Nat) :=
  match s.wg.entry lay with
  | none => ([], [])
  | some e =>
    let ps := e.places (s.coordsFrom a e.rank) (fun _ => true) e.fmt.scaled
    if e.space = 1 then (ps.map fun p => (swz e.perm p.1, p.2), [])
    else if e.space = 0 then ([], ps.flatMap fun p => s.flatRange (BitVec.ofNat 64 p.1) p.2)
    else ([], [])

/-- The ranges of the regions of a card that are read, or that are written, by space: window offsets and virtual addresses (R359). -/
def State.cardRanges (s : State) (card : List Byte) (kind : RegionKind) : List (Nat × Nat) × List (Nat × Nat) :=
  let fs := (List.range 4).flatMap fun i =>
    let r := parseRegion ((card.drop (16 * i)).take 16)
    if r.kind != kind then []
    else match s.wg.entry r.entry with
      | some e => if e.meets r.org then e.foot s.wg r.org else []
      | none => []
  ((fs.filter fun x => x.space == 1).map fun x => (x.lo - s.wg.base, x.hi - x.lo + 1),
   (fs.filter fun x => x.space == 0).map fun x => (x.lo, x.hi - x.lo + 1))

/-- The bytes of a card as they stand, for the wait of R359. -/
def State.peekCard (s : State) (sp : Bool) (e : W64) : List Byte :=
  if sp then NMap.bytes s.wg.scratch e.toNat 64
  else match s.locate s.core.n s.wg.ctx e.toNat with
    | some l => (List.range 64).map fun i => (s.core.byteOf l.line (l.key % 128 + i)).getD (s.mergedByte s.core.n (l.key + i))
    | none => []

/-- What the word of a collective touches (R359, R364): its card, the regions that its job reads and those that it writes; it is a release (R311). -/
def State.copyUses (s : State) (sp : Bool) (a : Nat) : Uses :=
  let e := s.readS a
  let card := s.peekCard sp e
  let r := s.cardRanges card .read
  let w := s.cardRanges card .write
  { scrR := r.1 ++ (if sp then [(e.toNat, 64)] else []), scrW := w.1, memR := if sp then [] else s.flatRange e 64, vaR := r.2, vaW := w.2, release := true }

def State.scrAt (s : State) (a n : Nat) : List (Nat × Nat) := [((s.readS a).toNat, n)]

/-- What an S word touches of what lane words touch (R29). -/
def State.sUses (s : State) (i : Instr) : Uses :=
  let at' := fun (a : Nat) (n : Nat) => s.flatRange (s.readS a) n
  match i with
  | .bany k _ | .ball k _ | .bnone k _ => { kR := [k.val] }
  | .kmovKK d a | .knot d a => { kR := [a.val], kW := [d.val] }
  | .kmovKS d _ => { kW := [d.val] }
  | .kmovSK _ a | .kpop _ a | .kfirst _ a => { kR := [a.val] }
  | .kand d a b | .kor d a b | .kxor d a b => { kR := [a.val, b.val], kW := [d.val] }
  | .srd _ .fsr | .swr _ .fsr => { fsr := true }
  | .swr _ .ten | .sten _ _ => { ten := true, traps := true }
  | .swr _ .brnd => { brnd := true, traps := true }
  | .swr _ .drnd => { drnd := true, traps := true }
  | .sld _ a z _ o | .sldk _ a z _ o | .sldAcq _ a z _ o _ => { memR := s.flatRange (s.memAddr a z o) (sizeOf z) }
  | .sst _ a z o => { memW := s.flatRange (s.memAddr a z o) (sizeOf z) }
  | .sstRel _ a z o _ => { memW := s.flatRange (s.memAddr a z o) (sizeOf z), release := true }
  | .slds _ a z _ o => { scrR := [((s.memAddr a z o).toNat, sizeOf z)] }
  | .ssts _ a z o => { scrW := [((s.memAddr a z o).toNat, sizeOf z)] }
  | .laydef _ a _ sp => if sp then { scrR := s.scrAt a.val 64 } else { memR := at' a.val 64 }
  | .layq _ a _ sp => if sp then { scrW := s.scrAt a.val 64 } else { memW := at' a.val 64 }
  | .alg _ a g sp => if sp then { scrR := s.scrAt a.val 72, algs := [g.val] } else { memR := at' a.val 72, algs := [g.val] }
  | .tmovToV v _ _ => { vW := [v.val] }
  | .tmovToTile v _ _ => { vR := [v.val] }
  | .tld _ a _ lay | .ald _ a _ lay => let r := s.boxRanges a.val lay.val; { scrR := r.1, memR := r.2 }
  | .tst _ a _ lay | .astore _ a _ _ lay => let r := s.boxRanges a.val lay.val; { scrW := r.1, memW := r.2 }
  | .addst _ a _ _ lay rel => let r := s.boxRanges a.val lay.val; { scrW := r.1, memW := r.2, release := rel }
  | .binit _ a _ => { scrW := s.scrAt a.val 16 }
  | .bwait a _ | .btest _ a _ _ => { scrR := s.scrAt a.val 16 }
  | .tktake a _ _ | .tkwait a _ _ => { memW := at' a.val 128 }
  | .tkserve a _ => { memW := at' a.val 128, release := true }
  | .ppush _ _ (.box a lay) => { scrR := (s.boxRanges a.val lay.val).1, release := true }
  | .ppush _ _ (.tile _) => { release := true }
  | .ppop _ _ (.box a lay) => { scrW := (s.boxRanges a.val lay.val).1 }
  | .seed _ x c => { vR := (List.range 16).map (x.val + ·), kR := [c.val] }
  | .satom f =>
    let rel := releaseOrders f.order
    if f.scratch then { scrW := s.scrAt f.a.val 8, release := rel } else { memW := at' f.a.val (f.ty.bits / 8), release := rel }
  | .daubq _ shelf => { daub := !shelf }
  | .redx _ a _ _ _ => { scrR := s.scrAt a.val 128 }
  | .tcopy f => s.copyUses f.sp f.a.val
  | .tcopym f => s.copyUses f.sp f.a.val
  | .rflush _ a _ _ => { vaR := [((s.readS a.val).toNat, (s.readS (a.val + 1)).toNat)], release := true }
  | .rinval _ a _ _ | .rdisc _ a _ _ => { vaW := [((s.readS a.val).toNat, (s.readS (a.val + 1)).toNat)], release := true }
  | .feset a b | .feclr a b =>
    { fe := [((s.readS a.val).toNat / 16, (s.readS b.val).toNat / 16)], scrW := [((s.readS a.val).toNat, (s.readS b.val).toNat)] }
  | .xsend _ a _ _ => { vaR := [((s.readS a.val).toNat, (s.readS (a.val + 1)).toNat)], release := true }
  | .xwait a _ => { scrR := s.scrAt a.val 8 }
  | .waita _ a _ => { memR := (at' a.val 1).map fun x => (x.1 - x.1 % 128, 128) }
  | _ => {}

/-- The look at all that the pod's lane stream still has to do. -/
def State.laneLook (s : State) : Look := s.queueUses s.pod.queue {}

/-- An S word has to wait for an earlier lane block, or for an SFU word in flight (R29, R162). -/
def State.conflicts (s : State) (i : Instr) : Bool :=
  (!s.pod.queue.isEmpty || !s.pod.sfu.isEmpty) && (let u := s.sUses i; (s.pod.sfu.map SfuOp.uses ++ s.laneLook.uses).any u.conflict)

/-- The state in which the S-stream is held by a conflict: a lane word that has to be fetched before it can be looked at is on its way. -/
def State.looked (s : State) : State := if s.pod.queue.isEmpty then s else s.laneLook.fetching.getD s

/-! ## Pending status registers (R359) -/

/-- Scalar registers that an S word reads or writes. -/
def sRegs : Instr → List Nat
  | .sadd d a b | .ssub d a b | .smul d a b | .smulh d a b | .smulhN d a b | .sdiv d a b | .sdivN d a b | .srem d a b | .sremN d a b
  | .smin d a b | .sminN d a b | .smax d a b | .smaxN d a b | .sand d a b | .sor d a b | .sxor d a b | .sshl d a b | .sshr d a b
  | .ssra d a b | .srot d a b | .slea d a b _ | .scmpEq d a b | .scmpNe d a b | .scmpLt d a b | .scmpLe d a b | .scmpGt d a b
  | .scmpGe d a b | .scmpLtN d a b | .scmpLeN d a b | .scmpGtN d a b | .scmpGeN d a b | .ssel d a b => [d.val, a.val, b.val]
  | .sclz d a | .spopc d a | .sextI8 d a | .sextI16 d a | .sextI32 d a => [d.val, a.val]
  | .saddImm d a _ | .sandImm d a _ | .sorImm d a _ | .sxorImm d a _ => [d.val, a.val]
  | .sshlImm d a _ | .sshrImm d a _ | .ssraImm d a _ | .srotImm d a _ => [d.val, a.val]
  | .sbfx d a _ _ _ | .sbfi d a _ _ => [d.val, a.val]
  | .sli d _ | .sli32 d _ | .slui d _ => [d.val]
  | .sld d a _ _ _ | .sldk d a _ _ _ | .slds d a _ _ _ | .sldAcq d a _ _ _ _ => [d.val, a.val]
  | .sst d a _ _ | .ssts d a _ _ | .sstRel d a _ _ _ => [d.val, a.val]
  | .call _ => [63]
  | .bz c _ | .bnz c _ => [c.val]
  | .brx a b => [a.val, b.val]
  | .ret a => [a.val]
  | .lgo _ => (List.range 16).map (32 + ·)
  | .kmovKS _ a => [a.val]
  | .kmovSK d _ | .kpop d _ | .kfirst d _ => [d.val]
  | .srd d _ => [d.val]
  | .swr a _ => [a.val]
  | .sten a b => [a.val, b.val]
  | .laydef d a _ _ | .layq d a _ _ => [d.val, a.val]
  | .mma f | .mmaw f | .mmag f => [f.d.val, f.a.val]
  | .tld d a _ _ | .tst d a _ _ | .ald d a _ _ => d.val :: (List.range 5).map (a.val + ·)
  | .astore d a b _ _ | .addst d a b _ _ _ => d.val :: b.val :: (List.range 5).map (a.val + ·)
  | .alg d a _ _ => [d.val, a.val]
  | .binit d a b | .btest d a b _ => [d.val, a.val, b.val]
  | .barr a b | .barrx a b | .bwait a b => [a.val, b.val]
  | .tktake a b _ | .tkwait a b _ => [a.val, b.val]
  | .tkserve a _ => [a.val]
  | .ppush d _ (.tile _) | .ppop d _ (.tile _) => [d.val]
  | .ppush d _ (.box a _) | .ppop d _ (.box a _) => d.val :: (List.range 5).map (a.val + ·)
  | .pstat d _ | .pyield d => [d.val]
  | .seed d _ _ | .cancel d _ => [d.val]
  | .satom f => [f.a.val, f.b.val, f.r.val, f.c.val]
  | .daubq d _ => [d.val]
  | .redx d a b m _ => [d.val, a.val, b.val, m.val, m.val + 1]
  | .tcopy f => [f.d.val, f.a.val, f.b.val]
  | .tcopym f => [f.d.val, f.a.val, f.e.val]
  | .rflush d a b _ | .rinval d a b _ | .rdisc d a b _ => [d.val, a.val, a.val + 1, b.val]
  | .feset a b | .feclr a b => [a.val, b.val]
  | .coat a _ _ _ => [a.val]
  | .xsend d a b c => [d.val, a.val, a.val + 1, b.val, c.val]
  | .xwait a b => [a.val, b.val]
  | .set d _ | .scrape d _ => [d.val]
  | .waita d a b => [d.val, a.val, b.val]
  | _ => []

/-- The registers of a word that tile moves read only as far as the entry's rank goes (R206). -/
def State.touched (s : State) (i : Instr) : List Nat :=
  let upTo := fun (a lay : Nat) => (List.range (((s.wg.entry lay).map (·.rank)).getD 0)).map (a + ·)
  match i with
  | .tld d a _ lay | .tst d a _ lay | .ald d a _ lay => d.val :: upTo a.val lay.val
  | .astore d a b _ lay | .addst d a b _ lay _ => d.val :: b.val :: upTo a.val lay.val
  | .ppush d _ (.box a lay) | .ppop d _ (.box a lay) => d.val :: upTo a.val lay.val
  | i => sRegs i

/-- Pending registers that the word names (R359, R366). -/
def State.pendingOf (s : State) (i : Instr) : List Pending :=
  if s.pod.pending.isEmpty then []
  else let rs := (s.touched i).map s.pendName; s.pod.pending.filter fun p => rs.contains p.reg

/-- The scalar register that an S word writes: the first of those that it names, if it writes any. -/
def sWrites : Instr → List Nat
  | .sst _ _ _ _ | .ssts _ _ _ _ | .sstRel _ _ _ _ _ | .bz _ _ | .bnz _ _ | .brx _ _ | .ret _ | .lgo _ | .kmovKS _ _ | .swr _ _ | .sten _ _
  | .bwait _ _ | .tkwait _ _ _ | .tkserve _ _ | .feset _ _ | .feclr _ _ | .coat _ _ _ _ | .xwait _ _ => []
  | .barr _ b | .barrx _ b | .tktake _ b _ => [b.val]
  | .satom f => [f.r.val]
  | i => (sRegs i).take 1

/-- The scalar registers that an S word reads; SSEL, SBFI, SLUI and BARRX read the one that they write. -/
def State.sReads (s : State) (i : Instr) : List Nat :=
  match i with
  | .barr a _ | .tktake a _ _ => [a.val]
  | .barrx a b => [a.val, b.val]
  | .satom f => [f.a.val, f.b.val, f.c.val]
  | .ssel d a b => [d.val, a.val, b.val]
  | .sbfi d a _ _ => [d.val, a.val]
  | .slui d _ => [d.val]
  | i => (s.touched i).drop (sWrites i).length

/-- Reading a register in which a job's status has landed is an acquire at the job's scope, as long as the status stands in it (R366). -/
def State.readLanded (s : State) (i : Instr) : State :=
  if s.pod.pending.isEmpty then s
  else
    let rs := (s.sReads i).map s.pendName
    (s.pod.pending.filter fun p => p.landed && rs.contains p.reg).foldl (fun s p => s.acquire p.acq) s

end Sys2Proof.Machine
end

