-- ==== Sys2Proof/Machine/Turns.lean ====
section
/-! DEFINITION. What the device does next: an input, a message or a timer, or a word of a pod; how a word is fetched and let go (R28, R387, R388); and how a program is placed for one step. -/

namespace Sys2Proof.Machine

/-- A word that issues: its stream, whether it adds to the count of uncoated words when it completes (R387), and the scalar registers that it writes, as pending registers are named (R366). -/
structure Issue where
  pod : PodKey
  stream : Stream
  counts : Bool
  writes : List Nat
deriving DecidableEq, Repr

/-- The next act: an input, a word of a pod, or a step that ends here. -/
inductive Act | input (i : Instr) (s : State) | word (i : Instr) (s : State) (e : Issue) | done (r : Res)

/-! ## The lane stream -/

/-- A lane word whose issue lies still ahead: its first repetition, no access made; one held by a full-empty bit has made none (R186). -/
def State.freshL (s : State) : Bool := s.block.rep == 0 && s.pod.lTxn == Txn.empty

/-- An uncoated pod outside its handler, whose next word would be the 257th (R387). -/
def Pod.uncoated (p : Pod) : Bool := p.coat.isNone && !p.inHandler
def Pod.spanFull (p : Pod) : Bool := p.uncoated && decide (256 ≤ p.count)

/-- The lane word at the head of the queue (R20, R81, R103, R387). -/
def State.actL (s : State) : Act :=
  match s.fetchL (s.lAddr s.block.word).toNat with
  | .wait t => .done (ok t.holdL)
  | .poison t => .done (ok (t.faultPod .poison))
  | .fault c => .done (execTrapEntry c true 4 s.block.rep 0 (s.lAddr s.block.word) s)
  | .word t w _ =>
    if t.pod.spanFull && t.freshL then .done (execTrapEntry .coatSpan true 4 0 (t.bitsActive w) 0 t)
    else match decodeL w with
      | none => .done (execTrapEntry .illegal true 4 s.block.rep (t.bitsActive w) 0 t)
      | some i => .word i t ⟨t.pod.key, .l, t.pod.uncoated && decide (t.block.rep = 0), []⟩

/-! ## The S-stream -/

/-- The S-stream has had its turn: the lane stream may try again (R186). -/
def State.letLanes (s : State) : State := { s with pod := { s.pod with lHeld := false } }

def lanesNext : Res → Res
  | .next s => .next s.letLanes
  | r => r

/-- The S word at the program counter (R18, R29, R103, R359, R387). The span is checked until the word begins. -/
def State.actS (s : State) : Act :=
  match s.fetchS with
  | .wait t => .done (ok (t.holdS .plain).letLanes)
  | .poison t => .done (ok (t.faultPod .poison))
  | .fault c => .done (lanesNext (execTrapEntry c false 4 0 0 s.pod.pc s))
  | .word t w e =>
    if t.pod.spanFull && t.pod.sTxn == Txn.empty then .done (lanesNext (execTrapEntry .coatSpan false (sLen w) 0 0 0 t))
    else match decodeS w e with
      | none => .done (lanesNext (execTrapEntry .illegal false (sLen w) 0 0 0 t))
      | some i =>
        if t.pod.sTxn == Txn.empty && t.conflicts i then .done (ok (t.looked.holdS .plain).letLanes)
        else if (t.pendingOf i).any fun p => !p.landed then .done (ok (t.holdS .cond).letLanes)
        else .word i (t.readLanded i) ⟨t.pod.key, .s, t.pod.uncoated, (sWrites i).map t.pendName⟩

/-- A word of a stream has completed, or the pod has gone to another: before is the pod as the word found it. -/
def Pod.moved (p before : Pod) : Stream → Bool
  | .s => p.held == .none && !p.halted
  | .l => p.queue != before.queue

/-- After a word: an uncoated word that has completed outside the handler adds one to the count (R387); an S word lets the lane stream try again, and a landed status that it has overwritten is one no more. before is the pod as the word found it. -/
def State.counted (e : Issue) (before : Pod) (s : State) : State :=
  s.mapPod e.pod fun p =>
    let p := if e.stream == .s then { p with lHeld := false } else p
    let moved := p.moved before e.stream
    let p := if moved && p.inHandler == before.inHandler then { p with pending := p.pending.filter fun x => !(x.landed && e.writes.contains x.reg) } else p
    if e.counts && moved && p.uncoated then { p with count := p.count + 1 } else p

/-- A word that has completed waits for no fill any more (R347). -/
def State.leftFills (e : Issue) (before : Pod) (s : State) : State :=
  if (s.podBy e.pod).any fun p => p.moved before e.stream then s.mapCores (·.leaveFills (e.pod, e.stream)) else s

/-- A word has issued: what it counts as, the fills that it waits for no more, and what waits for a barrier object that it has operated on. -/
def State.issued (e : Issue) (before : Pod) (s : State) : State := ((s.counted e before).leftFills e before).wakeBars

/-! ## Whose turn it is -/

/-- A pod that can issue (R17, R222, R392): not ended, not halted by a debugger, its workgroup on a core, not stopped inside a coat; one whose unit ends only completes the word that it is inside of. -/
def State.ready (s : State) (p : Pod) : Bool :=
  p.live && !p.exited && !p.halted && !p.dead && (!p.dying || p.midWord) && ((s.wgBy p.key.wg).any fun w => w.resident) && !p.stopped

/-- The core that a pod is resident on. -/
def State.seat (s : State) (p : Pod) : Option Nat := ((s.wgBy p.key.wg).filter (·.resident)).map (·.core)

/-- The resident pods of the core that a pod is on (R234). -/
def State.crowd (s : State) (p : Pod) : Nat := (s.allPods.filter fun q => q.live && s.seat q == s.seat p).length

/-- The cycles that may pass at most before the next step: each pod that can issue has a turn within 16 cycles of its last for every resident pod of its core (R234), and a message on its way moves on; where nothing of these is left, no bound (log entry 5). -/
def State.pace (s : State) : Option Nat :=
  ((s.allPods.filter s.ready).map (fun (p : Pod) => 16 * s.crowd p - s.since p.turnAt) ++ if s.inflight.isEmpty then [] else [16]).min?

/-- The cycles that pass before the next step: a free number within what R234 allows (R16, R31). -/
def State.passing (s : State) : Nat :=
  match s.pace with
  | none => Config.freeCycles s.freeCount
  | some m => min (Config.freeCycles s.freeCount) m

/-- Time passes before a step; the counters that measure it follow. The clock stands still in Idle and Off (R485). -/
def State.tick (s : State) : State :=
  if s.skepin.pwr = .idle ∨ s.skepin.pwr = .off then { s with freeCount := s.freeCount + 1 }
  else
    let n := s.passing
    let s1 : State := { s with cycle := s.cycle + BitVec.ofNat 64 n, freeCount := s.freeCount + 1 }
    let staged := (s1.allWgs.filter fun w => w.resident && ((s1.launchBy w.launch).any fun l => l.pipeline.isSome)).map (·.id)
    let s2 := if staged.isEmpty then s1 else s1.mapPods fun p => if staged.contains p.key.wg && !p.exited then p.ticked n else p
    let s3 : State := { s2 with
      pipelines := s2.pipelines.map fun l => if l.state == .running && !s2.allPipeWait l then { l with quiet := s2.cycle } else l }
    if s3.skepin.idleOk && !s3.quiet then { s3 with skepin := { s3.skepin with idleSince := s3.cycle } } else s3

/-- The next pod in turn: the one that has waited longest. -/
def State.pick (s : State) : Option PodKey := ((s.pods ++ [s.pod]).find? s.ready).map (·.key)

/-- The lane stream of the pod in focus has a word to issue: none but a full-empty bit lets the S-stream go ahead of it (R28, R186). -/
def State.laneTurn (s : State) : Bool := !s.pod.queue.isEmpty && !(s.pod.lFe && s.pod.lHeld)

/-- A pod whose unit ends starts no further lane word (R222). -/
def State.trimmed (s : State) : State := if s.pod.dying then { s with pod := s.pod.trimmed } else s

/-- The pod in focus has its turn now (R234). -/
def State.timed (s : State) : State := { s with pod := { s.pod with turnAt := s.cycle } }

/-- A turn of a pod. -/
def State.podAct (s : State) (k : PodKey) : Act :=
  let t := (s.focusOn k).trimmed.timed
  if t.laneTurn then t.actL else t.actS

/-- A pod that a message has let go on: its S-stream, if it can issue now. -/
def State.turnAct (s : State) (k : PodKey) : Act :=
  let t := (s.focusOn k).trimmed
  if t.pod.key == k && t.ready t.pod && !t.laneTurn then t.actS else .done (ok t)

/-- After a message, barrier objects wake those that wait for them (R252). -/
def barsAfter : Res → Res
  | .next s => .next s.wakeBars
  | r => r

/-- The next step of the other agents: a timer, a message, or a pod that has been let go on. -/
def State.agentAct (s : State) : Option Act :=
  match s.due with
  | some m => some (.done (barsAfter (s.handle m)))
  | none =>
    match s.nextMsg with
    | some (m, t) => some (.done (barsAfter (t.handle m)))
    | none => match s.turns with
      | (k, _) :: r => some (({ s with turns := r } : State).turnAct k)
      | [] => none

/-- The next input, if the device hears it (R474, R481, R484). -/
def State.inputAct (s : State) : Option Act :=
  match s.agenda with
  | i :: r =>
    let t : State := { s with agenda := r }
    some (if t.admitted i then .input i t else .done (ok t))
  | [] => none

/-- The turn of a pod that can issue. -/
def State.podsAct (s : State) : Option Act := s.pick.map s.podAct

/-- The next act of the device: inputs, the other agents and the pods take turns, and one that has nothing to do leaves its turn to the next (log entry 4). -/
def State.act (s : State) : Act :=
  match s.turn with
  | .inputs => let t : State := { s with turn := .agents }
    ((t.inputAct.orElse fun _ => t.agentAct).orElse fun _ => t.podsAct).getD (.done (ok t))
  | .agents => let t : State := { s with turn := .pods }
    ((t.agentAct.orElse fun _ => t.podsAct).orElse fun _ => t.inputAct).getD (.done (ok t))
  | .pods => let t : State := { s with turn := .inputs }
    ((t.podsAct.orElse fun _ => t.inputAct).orElse fun _ => t.agentAct).getD (.done (ok t))

/-! ## Placing one instruction (log entry 1) -/

/-- Where the placed program stands: its S words, its L words, its handler, and the level-1 table of its context. -/
def placeS : Nat := 0x10000
def placeL : Nat := 0x20000
def placeHandler : Nat := 0x30000
def placeTable : Nat := 0x100000
/-- The context that it runs in, and the leaf that maps its first 4 TiB (R288, R293): valid, leaf, writable, both executable, tracked. -/
def placeCtx : Nat := 63
def placeLeaf : W64 := 0xF3

/-- The grants of the placed program: all that a descriptor may ask for with one pod (R224). -/
def placeGrants : Grants := { pods := 1, regs := 256, scratch := 768 * 1024, tiles := 32, accs := 240, lays := 64, algs := 4 }

def placeDesc : Desc :=
  { Desc.zero with entry := BitVec.ofNat 64 placeS, lbase := BitVec.ofNat 64 placeL, handler := BitVec.ofNat 64 placeHandler, grant := placeGrants,
                   seedOff := List.replicate 16 0 }

/-- The launch of the placed program. -/
def State.placeLaunch0 (s : State) : Launch :=
  { id := s.nextLaunch, ctx := placeCtx, ring := 1, job := s.nextId, d := placeDesc, cls := 1, args := 0, gx := 1, gy := 1, gz := 1, dies := [0],
    whole := false, next := 1, count := 0, record := 0, msix := false, pipeline := none, ending := false, done := false, seedSerial := [], wetGroups := [] }

/-- A launch of one pod on core 0 whose next word is given: as an S word, or as an L word of a running lane block when it has more than 64 bits. The program is loaded from outside; Skepin has brought the device up. -/
def State.placed (s : State) (nbits w : Nat) : State :=
  let lane := decide (64 < nbits)
  let code := if lane then placeL else placeS
  let n := if lane then 12 else 8
  let k : PodKey := ⟨s.nextId, 0⟩
  let wg : Wg := { Wg.empty with
    id := s.nextId, resident := true, launch := s.nextLaunch, ctx := placeCtx, grant := placeGrants, order := s.nextId,
    alg := (List.range 4).map fun i => (i, AlgTable.real) }
  let pod : Pod := Pod.start k s.placeLaunch0 (BitVec.ofNat 64 placeS) none
  let pod : Pod := if lane then { pod with queue := [{ word := 0, q := List.replicate 16 0, rep := 0, act := 0, hRun := 0 }] } else pod
  let lines := [placeTable / 128, code / 128]
  let clean := fun (c : Core) =>
    { c with tlb := c.tlb.filter (fun e => e.ctx != placeCtx), l1 := c.l1.filter (fun l => !lines.contains l.line),
             stash := c.stash.filter (fun l => !lines.contains l.line) }
  { s.mapCores clean with
    skepin := { s.skepin with stage := 7, ready := true, verified := true, recovery := false, failed := false, pwr := .p0 }
    agenda := [], inflight := [], turns := [], turn := .pods
    clusterTlb := s.clusterTlb.filter fun e => e.2.ctx != placeCtx
    mem := NMap.setBytes (NMap.setBytes s.mem placeTable (toBytes placeLeaf 8)) code (toBytes (BitVec.ofNat 96 w) n)
    poison := s.poison.filter fun e => !lines.contains (e.1 / 4)
    homes := s.homes.filter fun h => !lines.contains h.line
    proxies := s.proxies.filter fun h => !lines.contains h.line
    ctxs := s.ctxs.filter (fun c => c.n != placeCtx) ++ [{ n := placeCtx, domain := 0, table := placeTable, save := 0, ending := none }]
    jobs := s.jobs ++ [{ serial := s.nextId, ctx := placeCtx, id := 0, isOpen := true, record := 0, ring := 1, msix := false, members := 1,
                         counted := 0, ended := false, cancelled := false, faulted := none }]
    launches := s.launches.filter (fun l => l.id != s.nextLaunch) ++ [s.placeLaunch0]
    wgs := s.wgs.filter (fun x => x.id != s.nextId) ++ [wg]
    pods := pod :: s.pods
    nextLaunch := (s.nextLaunch + 1) % 2 ^ 32, nextId := s.nextId + 1 }

end Sys2Proof.Machine
end

