-- ==== Sys2Proof/Machine/Step.lean ====
section
/-! DEFINITION. One step of the device, and placing one instruction where the next step fetches it. -/

namespace Sys2Proof.Machine

/-- One step: time passes, and the next act happens. -/
def step (s : State) : Host.Outcome State Fault Refusal :=
  match s.tick.act with
  | .done r => r
  | .input i t => exec i t
  | .word i t e =>
    match exec i t with
    | .next u => .next (u.issued e t.pod)
    | .fault f => .fault f
    | .refused r => .refused r

/-- The state with one instruction placed where the next step fetches it (log entry 1). -/
def State.withFetchWord (s : State) (nbits w : Nat) : State := s.placed nbits w

end Sys2Proof.Machine
end

