-- ==== Sys2Proof/Safety.lean ====
section
/-! DEFINITION. The words that claims about the machine are made of: an instruction that completes, what a word of each kind changes and what it leaves alone, a pod that enters its handler, and memory that stays as it was. -/

namespace Sys2Proof.Machine

/-- exec answers a next state, and P holds of it. -/
def Completes (i : Instr) (s : State) (P : State → Prop) : Prop := ∃ t, exec i s = .next t ∧ P t

/-- Every byte of memory reads as before, at its acting home (R413). -/
def SameMemory (s t : State) : Prop := ∀ a, t.homeByte a = s.homeByte a

/-- Every byte of memory reads as before but those of n addresses from lo on. -/
def SameMemoryBut (lo n : Nat) (s t : State) : Prop := ∀ a, (a < lo ∨ lo + n ≤ a) → t.homeByte a = s.homeByte a

/-- The S-stream stands behind a word of len bytes, and waits for nothing (R18). -/
structure MovesOn (s t : State) (len : Nat) : Prop where
  pc : t.pod.pc = s.pod.pc + BitVec.ofNat 64 len
  held : t.pod.held = .none
  txn : t.pod.sTxn = Txn.empty

/-- The S-stream's place: the fields that every S word may change. -/
def Pod.place (p q : Pod) : Pod := { p with pc := q.pc, held := q.held, sTxn := q.sTxn }

/-- What a word with one scalar destination and no other effect does (R8, R12, R18, R113, R386): s_d holds x unless d is 0, every other register and all else is as before; a coat in which s_d is live-in is closed. -/
structure ScalarEffect (s t : State) (d : Nat) (x : W64) (len : Nat) : Prop where
  reads : ∀ n, t.readS n = if n = d ∧ d ≠ 0 then x else s.readS n
  file : ∀ n, NMap.get t.pod.s n = if n = d ∧ d ≠ 0 ∧ s.pod.banked d = false then x else NMap.get s.pod.s n
  bank : ∀ n, NMap.get t.pod.bankS n = if n = d ∧ d ≠ 0 ∧ s.pod.banked d = true then x else NMap.get s.pod.bankS n
  next : MovesOn s t len
  coat : t.pod.coat = if d ≠ 0 ∧ s.pod.liveInS d = true then none else s.pod.coat
  journal : t.wg.journal = if d ≠ 0 ∧ s.pod.liveInS d = true then s.wg.journal.filter (fun e => e.pod != s.pod.key.pod) else s.wg.journal
  rest : { t with
      pod := { t.pod.place s.pod with s := s.pod.s, bankS := s.pod.bankS, coat := s.pod.coat }
      wg := { t.wg with journal := s.wg.journal } } = s
  memory : SameMemory s t

/-- What a word with one mask destination and no other effect does (R8, R128, R386). -/
structure MaskEffect (s t : State) (d : Nat) (x : W32) : Prop where
  reads : ∀ n, t.readK n = if n = d ∧ d ≠ 0 then x else s.readK n
  next : MovesOn s t 4
  coat : t.pod.coat = if d ≠ 0 ∧ s.pod.liveInK d = true then none else s.pod.coat
  journal : t.wg.journal = if d ≠ 0 ∧ s.pod.liveInK d = true then s.wg.journal.filter (fun e => e.pod != s.pod.key.pod) else s.wg.journal
  rest : { t with
      pod := { t.pod.place s.pod with k := s.pod.k, coat := s.pod.coat }
      wg := { t.wg with journal := s.wg.journal } } = s
  memory : SameMemory s t

/-- The S-stream goes on at an address, and nothing else changes (R123). -/
structure JumpEffect (s t : State) (pc : W64) : Prop where
  pc : t.pod.pc = pc
  held : t.pod.held = .none
  txn : t.pod.sTxn = Txn.empty
  rest : { t with pod := t.pod.place s.pod } = s
  memory : SameMemory s t

/-- The pod can take a trap: it is outside its handler and has one (R380). -/
def State.canTrap (s : State) : Prop := s.pod.inHandler = false ∧ s.desc.handler ≠ 0

/-- Cores stand as they were but for the loads that wait for their fills. -/
def SameCores (s t : State) : Prop :=
  { t.core with fills := s.core.fills } = s.core ∧ t.cores.map (fun c => { c with fills := [] }) = s.cores.map fun c => { c with fills := [] }

/-- The pod has entered its handler (R378, R380, R381): the trap registers, the latch shadows, the place of the S-stream; the scalar registers of both files and the masks stand, and so do fsr, ten and the rounding modes when no SFU word was in flight; memory is as it was. -/
structure EntersHandler (s t : State) (c : Cause) (spc lpc : W64) (mask : W32) (addr : W64) : Prop where
  cause : t.pod.tcause = BitVec.ofNat 8 (causeCode c)
  spc : t.pod.tspc = spc
  lpc : t.pod.tlpc = lpc
  mask : t.pod.tmask = mask
  addr : t.pod.taddr = addr
  handler : t.pod.inHandler = true ∧ t.pod.pc = s.desc.handler ∧ t.pod.queue = []
  shadow : t.pod.shadow = s.pod.b ∧ t.pod.b = s.pod.b
  scalars : t.pod.s = s.pod.s ∧ t.pod.bankS = s.pod.bankS ∧ t.pod.k = s.pod.k ∧ t.pod.bankV = s.pod.bankV
  drained : t.pod.sfu = [] ∧ (s.pod.sfu = [] → t.pod.v = s.pod.v ∧ t.pod.o = s.pod.o ∧ t.pod.fsr = s.pod.fsr)
  modes : t.pod.ten = s.pod.ten ∧ t.pod.brnd = s.pod.brnd ∧ t.pod.drnd = s.pod.drnd
  coat : c ≠ .coatSpan → t.pod.coat = s.pod.coat ∧ t.wg = s.wg
  others : t.pods = s.pods ∧ t.wgs = s.wgs ∧ SameCores s t
  memory : SameMemory s t ∧ t.mem = s.mem

/-- An S word traps: after the earlier lane blocks, with tspc at the word and tlpc and tmask 0 (R114, R378). -/
def TrapsS (i : Instr) (s : State) (len : Nat) (c : Cause) (addr : W64) : Prop :=
  Completes i s fun t => EntersHandler s t c s.pod.pc 0 0 addr ∧ t.pod.trapLane = false ∧ t.pod.trapLen = len ∧ t.pod.setAside = []

/-- In every state the word gives s_d the value x of that state, and does nothing else. -/
def GivesScalar (i : Instr) (d : Fin 64) (len : Nat) (x : State → W64) : Prop :=
  ∀ s, Completes i s fun t => ScalarEffect s t d.val (x s) len

/-- In every state the word gives k_d the value x of that state, and does nothing else. -/
def GivesMask (i : Instr) (d : Fin 16) (x : State → W32) : Prop :=
  ∀ s, Completes i s fun t => MaskEffect s t d.val (x s)

/-- The S-stream stands at the word after, and nothing else has changed. -/
def OnlyMovesOn (s t : State) (len : Nat) : Prop := JumpEffect s t (s.pod.pc + BitVec.ofNat 64 len)

/-- 1 or 0. -/
def oneIf (p : Prop) [Decidable p] : W64 := if p then 1 else 0

/-- The target of a branch of R75. -/
def relTarget (s : State) (o : Int) : W64 := BitVec.ofInt 64 (s.pod.pc.toInt + 4 * o)

/-- R124: a target that a taken branch accepts. -/
def goodTarget (t : W64) : Prop := t.toNat < 2 ^ 54 ∧ t.toNat % 4 = 0

/-! ## Words that reach beyond the pod -/

/-- What a word with one scalar destination does to its pod, whatever it does to its workgroup, its core and beyond: as ScalarEffect says of the registers and the coat. -/
structure PodWrites (s t : State) (d : Nat) (x : W64) (len : Nat) : Prop where
  reads : ∀ n, t.readS n = if n = d ∧ d ≠ 0 then x else s.readS n
  next : MovesOn s t len
  coat : t.pod.coat = if d ≠ 0 ∧ s.pod.liveInS d = true then none else s.pod.coat
  podRest : { t.pod.place s.pod with s := s.pod.s, bankS := s.pod.bankS, coat := s.pod.coat } = s.pod
  others : t.pods = s.pods ∧ t.wgs = s.wgs

/-- The same for an irrevocable word, which closes the coat whatever it writes (R386). -/
structure PodCommits (s t : State) (d : Nat) (x : W64) (len : Nat) : Prop where
  reads : ∀ n, t.readS n = if n = d ∧ d ≠ 0 then x else s.readS n
  next : MovesOn s t len
  coat : t.pod.coat = none
  podRest : { t.pod.place s.pod with s := s.pod.s, bankS := s.pod.bankS, coat := s.pod.coat } = s.pod
  others : t.pods = s.pods ∧ t.wgs = s.wgs

/-- And its workgroup changes in its journal only. -/
structure PodScalar (s t : State) (d : Nat) (x : W64) (len : Nat) : Prop extends PodWrites s t d x len where
  wgRest : { t.wg with journal := s.wg.journal } = s.wg

/-- The pods and workgroups stand as they were but for the place of the S-stream. -/
structure PodMoves (s t : State) (len : Nat) : Prop where
  next : MovesOn s t len
  podRest : t.pod.place s.pod = s.pod
  wgRest : t.wg = s.wg
  others : t.pods = s.pods ∧ t.wgs = s.wgs

/-- The value of bytes, the lowest address first (R2). -/
def leValue (bs : List Byte) : Nat := bs.foldr (fun b n => b.toNat + 256 * n) 0

/-- What a scalar load of size bytes delivers (R129). -/
def loaded (size : Nat) (sx : Bool) (bs : List Byte) : W64 :=
  if sx then BitVec.ofInt 64 ((leValue bs : Int).bmod (2 ^ (8 * size))) else BitVec.ofNat 64 (leValue bs)

/-- The address of a scalar access (R129). -/
def scalarAddr (s : State) (a : Fin 64) (z : Fin 4) (o : BitVec 11) : W64 :=
  BitVec.ofInt 64 ((s.readS a).toInt + o.toInt * 2 ^ z.val)

/-- Byte i of a word. -/
def wordByte (x : W64) (i : Nat) : Byte := BitVec.ofNat 8 (x.toNat / 2 ^ (8 * i))

/-- What the core in focus reads at a byte key without asking anyone: its valid L1 byte, else its own stash byte, else the committed byte (R274, R275). -/
def State.ownView (s : State) (key : Nat) : Byte :=
  ((s.core.byteOf (key / 128) (key % 128)).getD (((s.core.stashByte (key / 128) (key % 128))).getD (s.homeByte key)))

/-- The place of an access of the S-stream: the one that its word has found already, or the one that its checks find now (R114, R130). -/
def State.goesTo (s : State) (e : W64) (size : Nat) (store : Bool) (l : Loc) : Prop :=
  (s.pod.sTxn.locs.find? fun x => x.1 == e) = some (e, l)
  ∨ (s.pod.sTxn.locs.find? fun x => x.1 == e) = none ∧ s.checkFlat s.core.n s.wg.ctx e size store = .ok l

/-- No other die acts for the line, its copies in guests and on other dies hold the home's bytes, and the core does not hold it for a page of the other kind. -/
structure State.CleanLine (s : State) (l : Loc) : Prop where
  copies : ∀ p ∈ s.proxies, p.line = l.line → p.kind = .copy ∧ p.bytes.map (·.2) = s.homeLineData l.line
  guests : ∀ g ∈ s.guests, g.line = l.line → g.data = s.homeLineData l.line
  kind : ∀ x, s.core.lineOf l.line = some x → x.tracked = l.tracked

/-- What the tile path of the core in focus reads at a byte key: its own stash byte, else the committed byte (R296, R302). -/
def State.tileView (s : State) (key : Nat) : Byte := (s.core.stashByte (key / 128) (key % 128)).getD (s.homeByte key)

/-- No other die acts for the line. -/
def State.ownHome (s : State) (line : Nat) : Prop := ∀ p ∈ s.proxies, p.line = line → p.kind = .copy

/-- A generic load of n bytes at a location finds them at once: either all of them are valid in the L1, or the line can be filled on the spot, from a home of this device or the host that has no operation in progress, into an L1 with room (R274, R302). -/
def State.readyLine (s : State) (l : Loc) (n : Nat) : Prop :=
  l.key % 128 + n ≤ 128 ∧ s.CleanLine l
  ∧ (s.core.allValid l.line (l.key % 128) n = true
    ∨ s.core.lineOf l.line = none ∧ s.core.fills = [] ∧ s.core.shelf = [] ∧ s.core.l1.length < Config.l1Ways ∧ lineRemote l.line = false
      ∧ l.tracked = true ∧ s.homeIdle l.line = true)

/-- No mark lies on the bytes of a place in the L1, or on its line in the core's stash or at its home (R404). -/
def State.unmarked (s : State) (l : Loc) (n : Nat) : Prop :=
  poisoned s.core.l1Poison l.key n = false ∧ poisoned s.core.stashPoison (l.line * 128) 128 = false ∧ poisoned s.poison (l.line * 128) 128 = false

/-! ## System words -/

/-- The special value of a name in a state, as a number (R13). -/
def specialNat (s : State) (l : Launch) : Special → Nat
  | .wgX => s.wg.x.toNat | .wgY => s.wg.y.toNat | .wgZ => s.wg.z.toNat
  | .wgdimX => l.gx | .wgdimY => l.gy | .wgdimZ => l.gz
  | .pod => s.pod.key.pod | .pods => s.wg.grant.pods
  | .core => s.core.n | .die => s.core.n / 72 | .dev => s.dev
  | .launch => s.wg.launch % 2 ^ 32 | .cycle => s.cycle.toNat
  | .fsr => s.pod.fsr.toNat | .ten => s.pod.ten.toNat | .brnd => s.pod.brnd.toNat | .drnd => s.pod.drnd.toNat
  | .tcause => s.pod.tcause.toNat | .tspc => s.pod.tspc.toNat | .tlpc => s.pod.tlpc.toNat
  | .tmask => s.pod.tmask.toNat | .taddr => s.pod.taddr.toNat

/-- Names that SWR may not write at all (R13, R14). -/
def readOnly : Special → Bool
  | .wgX | .wgY | .wgZ | .wgdimX | .wgdimY | .wgdimZ | .pod | .pods | .core | .die | .dev | .launch | .cycle => true
  | _ => false

/-- Trap registers, which SWR writes in the handler only (R13, R14). -/
def trapRegister : Special → Bool
  | .tcause | .tspc | .tlpc | .tmask | .taddr => true
  | _ => false

/-- A pod with the special registers that software writes put back as they stand in another. -/
def Pod.specialsOf (p q : Pod) : Pod :=
  { p with fsr := q.fsr, ten := q.ten, brnd := q.brnd, drnd := q.drnd, tcause := q.tcause, tspc := q.tspc, tlpc := q.tlpc, tmask := q.tmask, taddr := q.taddr }

/-- The width of a special value that software writes (R13). -/
def specialWidth : Special → Nat
  | .fsr | .ten => 10 | .brnd | .drnd => 3 | .tcause => 8 | .tmask => 32 | _ => 64

/-- A write of one special value: it holds the low bits of x, the other special values and all else stand (R14). -/
structure SpecialWritten (s t : State) (l : Launch) (n : Special) (x : W64) : Prop where
  value : specialNat t l n = x.toNat % 2 ^ specialWidth n
  others : ∀ m, m ≠ n → specialNat t l m = specialNat s l m
  next : MovesOn s t 4
  rest : { t with pod := (t.pod.place s.pod).specialsOf s.pod } = s
  memory : SameMemory s t

/-- Byte n of a core's line is dirty in its L1 (R274). -/
def Core.dirtyAt (c : Core) (line off : Nat) : Bool := (c.lineOf line).any fun l => l.isDirty off

/-- The lines of an L1 are distinct. -/
def Core.distinctLines (c : Core) : Prop := (c.l1.map (·.line)).Nodup

/-! ## States in which nothing is under way -/

/-- The pod in focus waits for nothing and its core holds nothing that another agent has to hear of: no line in its L1, stash, shelf or fills, no publication, no write not acknowledged, no copy of a line elsewhere, no coat and no request to stop. -/
structure State.Calm (s : State) : Prop where
  lanes : s.pod.queue = [] ∧ s.pod.sfu = []
  txn : s.pod.sTxn = Txn.empty ∧ s.pod.lTxn = Txn.empty
  daubs : s.pod.daubOut = 0
  coat : s.pod.coat = none
  lines : s.core.l1 = [] ∧ s.core.stash = [] ∧ s.core.shelf = [] ∧ s.core.fills = []
  far : s.hostPending = 0 ∧ s.peers = []
  homes : s.proxies = [] ∧ s.guests = []
  pubs : ∀ p ∈ s.pubs, p.core ≠ s.core.n
  who : s.pod.live = true ∧ s.pod.exited = false ∧ s.pod.stopReq = false ∧ s.wg.id ≠ 0 ∧ s.pod.key.wg = s.wg.id ∧ s.wg.core = s.core.n

/-- A pod other than in the place of its S-stream and in its scalar registers stands as before, and so does everything of its workgroup, its core and memory. -/
structure StandsBut (s t : State) : Prop where
  pod : { t.pod.place s.pod with s := s.pod.s, bankS := s.pod.bankS } = s.pod
  wg : t.wg = s.wg
  core : t.core = s.core
  others : t.pods = s.pods ∧ t.wgs = s.wgs ∧ t.cores = s.cores
  memory : t.mem = s.mem

/-- s_d holds x, no other register changes, and the S-stream stands len bytes on. -/
structure Gives (s t : State) (d : Nat) (x : W64) (len : Nat) : Prop where
  reads : ∀ n, t.readS n = if n = d ∧ d ≠ 0 then x else s.readS n
  next : MovesOn s t len

/-- The S-stream is held at its word for a reason, with no register changed. -/
structure Holds (s t : State) (h : Hold) : Prop where
  held : t.pod.held = h
  place : t.pod.pc = s.pod.pc
  reads : ∀ n, t.readS n = s.readS n

/-! ## Engine jobs -/

/-- The 64 bytes of a job card at s_a, as a word that reads it delivers them: from the window, or through the L1. -/
def State.cardIs (s : State) (sp : Bool) (a : Fin 64) (card : List Byte) : Prop :=
  (s.readS a).toNat % 64 = 0 ∧
  if sp then (s.readS a).toNat + 64 ≤ s.wg.grant.scratch ∧ poisoned s.wg.scratchPoison (s.readS a).toNat 64 = false
      ∧ card = NMap.bytes s.wg.scratch (s.readS a).toNat 64
  else ∃ l, s.goesTo (s.readS a) 64 false l ∧ s.readyLine l 64 ∧ s.unmarked l 64 ∧ card = (List.range 64).map fun i => s.ownView (l.key + i)

/-- The regions that a card describes. -/
def cardRegions (card : List Byte) : List Region := (List.range 4).map fun i => parseRegion ((card.drop (16 * i)).take 16)

/-- The workgroup has one pod, which has no other copy word or status under way. -/
def State.aloneCopying (s : State) : Prop :=
  s.wg.grant.pods = 1 ∧ s.pod.key.pod = 0 ∧ (∀ p ∈ s.pods, p.key.wg ≠ s.wg.id) ∧ s.pod.tcopies = [] ∧ s.pod.pending = [] ∧ s.core.jobs.length < Config.engineQueue

/-- A word has put one job at the end of its core's queue, and d waits for its status; the pod goes on. -/
structure Submits (s t : State) (d : Fin 64) (len : Nat) (j : Job) : Prop where
  queued : t.core.jobs = s.core.jobs ++ [j]
  regs : j.regs = [(s.pod.key, d.val)] ∧ j.wg = s.wg.id ∧ j.ctx = s.wg.ctx
  fresh : j.started = false ∧ j.done = 0 ∧ j.tr = 0 ∧ j.fault = none ∧ j.flags = 0
  start : Msg.jobStart s.core.n j.id ∈ t.inflight
  pending : t.pod.pending = if d = 0 then [] else [⟨if s.pod.banked d then d + 64 else d, j.id, j.scope, false⟩]
  next : MovesOn s t len
  regsKept : t.pod.s = s.pod.s ∧ t.pod.bankS = s.pod.bankS ∧ t.pod.v = s.pod.v
  rest : t.wg = s.wg ∧ t.pods = s.pods ∧ SameMemory s t

/-- The job moves unscaled one-byte elements of one format from a box of a to a box of b, its workgroup is in focus, and the next n elements can move at once. -/
structure State.Copying (s : State) (core job : Nat) (j : Job) (a b : LayEntry) (src dst : List Int) (n : Nat) : Prop where
  job : s.jobOf core job = some j ∧ (∀ p, j.pub = some p → s.pubDone core p = true) ∧ (j.kind = .copy ∨ j.kind = .copym) ∧ j.wg = s.wg.id ∧ core = s.core.n
  current : ∃ ri wi rr wr, j.current = some ((ri, rr, a), (wi, wr, some b)) ∧ rr.org = src ∧ wr.org = dst
  plain : a.fmt = b.fmt ∧ a.fmt.bits = 8 ∧ a.fmt.scaled = false
  size : j.done < a.volume ∧ n = min (if b.space = 0 then 128 else 2048) (a.volume - j.done)
  ready : s.placesWait a (a.placesIn src j.done n) = false ∧ s.placesWait b (b.placesIn dst j.done n) = false ∧ s.checkPlaces a (a.placesIn src j.done n) false false = none ∧ s.checkPlaces b (b.placesIn dst j.done n) true false = none
    ∧ s.boxWaits a (a.placesIn src j.done n) = false ∧ s.boxPoison a (a.placesIn src j.done n) = false

/-- The byte of element i of a transfer's source; outside the extents it is zero (R208, R357). -/
def State.copied (s : State) (a : LayEntry) (src : List Int) (i : Nat) : Byte :=
  if a.inside (a.coords src i) then (s.boxRead a (a.address (a.coords src i)).1 1).headD 0 else 0

/-- n elements of the job have moved. -/
def Job.moved (j k : Job) (a : LayEntry) (n : Nat) : Prop :=
  (if a.volume ≤ j.done + n then k.tr = j.tr + 1 ∧ k.done = 0 else k.tr = j.tr ∧ k.done = j.done + n) ∧ k.slots = 0 ∧ k.flags = j.flags ∧ k.id = j.id

/-! ## Atomics -/

/-- The bits of an operand of a type as a number: two's complement for a signed type (R42). -/
def typedNat (ty : LType) (x : Nat) : Int := if ty.signed then (x : Int).bmod (2 ^ ty.bits) else ((x % 2 ^ ty.bits : Nat) : Int)

/-- y is the new value of an atomic on x with operands b and c, all as bits of the type (R321). -/
def AtomicGives (op : AtomOp) (ty : LType) (x b c y : Nat) : Prop :=
  match op with
  | .add => y = (x + b) % 2 ^ ty.bits
  | .min => (y = x ∨ y = b) ∧ typedNat ty y ≤ typedNat ty x ∧ typedNat ty y ≤ typedNat ty b
  | .max => (y = x ∨ y = b) ∧ typedNat ty x ≤ typedNat ty y ∧ typedNat ty b ≤ typedNat ty y
  | .and => y = Nat.land x b
  | .or => y = Nat.lor x b
  | .xor => y = Nat.xor x b
  | .xchg => y = b
  | .cas => y = if x = c then b else x
  | .fadd => y = (fmtF32.deliver .rn false ((fmtF32.value x).add .rn (fmtF32.value b)).1).1

/-- A home has nothing in progress, nobody waits there, and nobody holds the line. -/
structure HomeLine.Bare (h : HomeLine) : Prop where
  idle : h.op = .idle ∧ h.dir = .home ∧ h.waiting = []
  unheld : h.clusters = [] ∧ h.guests = [] ∧ h.dies = []

/-- The line is of this device and tracked, its home holds nothing but its bytes, no mark lies on those, and the sending window of the core in focus has room for a request to it (R336). -/
def State.PlainHome (s : State) (l : Loc) (n : Nat) : Prop :=
  l.tracked = true ∧ lineFar l.line = false ∧ (∀ h, s.homeOf l.line = some h → h.Bare) ∧ l.key % 128 + n ≤ 128 ∧ poisoned s.poison l.key n = false
  ∧ (s.touchHome l).windowOpen s.core.n l.line = true

/-- Bytes of a contribution's result record (R342): the sum, the status, the missing members. -/
def roundBytes (data : List W32) (st missing : Nat) : List Byte :=
  data.flatMap (fun x => toBytes x 4) ++ toBytes (BitVec.ofNat 32 st) 4 ++ [0, 0, 0, 0] ++ toBytes (BitVec.ofNat 64 missing) 8

/-- The pod stands but for its place, its scalar registers and the transactions of its streams. -/
def Pod.apart (p q : Pod) : Pod := { p.place q with s := q.s, bankS := q.bankS, lTxn := q.lTxn }

/-! ## Lane words -/

/-- The word at issue can go on: it is in the queue, no SFU word is in flight, its registers are granted and the latches it reads hold (R10, R35, R162). -/
def State.LaneGoes (s : State) (f : LFields) (sp : Spans) : Prop :=
  s.pod.queue ≠ [] ∧ s.pod.sfu = [] ∧ (∀ n ∈ readRegs f sp ++ destRegs { f with n := false } sp.d, s.granted n = true)
  ∧ (usesLatch f = true → 1 ≤ s.block.hRun ∧ s.block.hRun ≤ 8)

/-- The block after a repetition (R35, R88). -/
def State.afterRep (s : State) (h : Bool) (reps : Nat) (act : W32) : List Block :=
  match s.pod.queue with
  | [] => []
  | b :: r => (if b.rep < reps then { b with rep := b.rep + 1, act := act } else { b with word := b.word + 1, rep := 0, act := 0, hRun := if h then b.hRun + 1 else 0 }) :: r

/-- Register n of one lane after a word wrote comps values from register first on, each a register or a pair (R11, R88). -/
def laneWord (first : Option Nat) (wide : Bool) (comps : Nat) (x : Nat → W64) (n : Nat) (old : W32) : W32 :=
  match first with
  | none => old
  | some d =>
    if wide then (if d ≤ n ∧ n < d + 2 * comps then (if (n - d) % 2 = 1 then (x ((n - d) / 2)).extractLsb' 32 32 else (x ((n - d) / 2)).setWidth 32) else old)
    else if d ≤ n ∧ n < d + comps then (x (n - d)).setWidth 32 else old

/-- The first destination register of a repetition in a file. -/
def firstV (s : State) (f : LFields) : Option Nat := match f.dest with
  | .v d => if f.n then none else some (d + s.block.rep * (f.stride.val + 1))
  | _ => none
def firstO (s : State) (f : LFields) : Option Nat := match f.dest with
  | .o d => if f.n then none else some (d + s.block.rep * (f.stride.val + 1))
  | _ => none

/-- What a repetition of a lane word does: x j c is component c of active lane j; the destination takes the components, the latches take them in turn with zero in the other lanes (R32, R33), fsr takes the flags, a mask may be written, and the stream goes on. -/
structure LaneEffect (s t : State) (f : LFields) (span : Nat) (wide : Bool) (comps : Nat) (x : Nat → Nat → W64) (flags : Nat → Flags) (kd : Option (Nat × W32)) : Prop where
  v : ∀ n j, j < 32 → t.pod.readV n j = if (s.active f).getLsbD j then laneWord (firstV s f) wide comps (x j) n (s.pod.readV n j) else s.pod.readV n j
  o : ∀ n j, j < 32 → t.pod.readO n j = if (s.active f).getLsbD j then laneWord (firstO s f) wide comps (x j) n (s.pod.readO n j) else s.pod.readO n j
  latch : ∀ m < 4, ∀ j < 32, NMap.get t.pod.b (m * 32 + j) =
    if m < comps then (if (s.active f).getLsbD j then x j (comps - 1 - m) else 0) else NMap.get s.pod.b ((m - comps) * 32 + j)
  fsr : ∀ i < 10, t.pod.fsr.getLsbD i = (s.pod.fsr.getLsbD i || (List.range 32).any fun j => (s.active f).getLsbD j && (flags j).getLsbD i)
  masks : ∀ n, t.readK n = match kd with
    | some (d, y) => if n = d ∧ d ≠ 0 then y else s.readK n
    | none => s.readK n
  next : t.pod.queue = s.afterRep f.h f.rep (s.active f) ∧ t.pod.lHeld = false ∧ t.pod.lFe = false ∧ t.pod.lTxn = Txn.empty
  coat : t.pod.coat = if (destRegs f span).any s.pod.liveInV || kd.any (fun e => e.1 != 0 && s.pod.liveInK e.1) then none else s.pod.coat
  rest : { t with
      pod := { t.pod with v := s.pod.v, bankV := s.pod.bankV, o := s.pod.o, b := s.pod.b, fsr := s.pod.fsr, k := s.pod.k, queue := s.pod.queue,
                          lHeld := s.pod.lHeld, lFe := s.pod.lFe, lTxn := s.pod.lTxn, coat := s.pod.coat }
      wg := { t.wg with journal := s.wg.journal } } = s
  memory : SameMemory s t

/-- What a repetition of a word with a mask destination does (R145). -/
structure LaneMaskEffect (s t : State) (f : LFields) (k : Nat) (bit : Nat → Bool) (flags : Nat → Flags) : Prop where
  masks : ∀ n, n ≠ k + s.block.rep * (f.stride.val + 1) ∨ n = 0 → t.readK n = s.readK n
  mask : k + s.block.rep * (f.stride.val + 1) ≠ 0 → ∀ j < 32, (t.readK (k + s.block.rep * (f.stride.val + 1))).getLsbD j =
    if (s.active f).getLsbD j then bit j else (s.readK (k + s.block.rep * (f.stride.val + 1))).getLsbD j
  fsr : ∀ i < 10, t.pod.fsr.getLsbD i = (s.pod.fsr.getLsbD i || (List.range 32).any fun j => (s.active f).getLsbD j && (flags j).getLsbD i)
  next : t.pod.queue = s.afterRep f.h f.rep (s.active f) ∧ t.pod.lHeld = false ∧ t.pod.lFe = false ∧ t.pod.lTxn = Txn.empty
  coat : (∀ i ≤ f.rep.val, s.pod.liveInK (k + i * (f.stride.val + 1)) = false) → t.pod.coat = s.pod.coat ∧ t.wg = s.wg
  rest : { t with
      pod := { t.pod with fsr := s.pod.fsr, k := s.pod.k, queue := s.pod.queue, lHeld := s.pod.lHeld, lFe := s.pod.lFe, lTxn := s.pod.lTxn, coat := s.pod.coat }
      wg := { t.wg with journal := s.wg.journal } } = s
  memory : SameMemory s t

/-- A lane word traps (R378): with tlpc at the word, its lanes in tmask, and the queue set aside. -/
def TrapsL (i : Instr) (s : State) (c : Cause) (mask : W32) (addr : W64) : Prop :=
  Completes i s fun t => EntersHandler s t c s.pod.pc (s.desc.lbase + BitVec.ofNat 64 (12 * s.block.word)) mask addr
    ∧ t.pod.trapLane = true ∧ t.pod.trapRep = s.block.rep ∧ t.pod.setAside = s.pod.queue

/-- The active lanes whose flags hold bit i. -/
def State.raising (s : State) (f : LFields) (flags : Nat → Flags) (i : Nat) : W32 :=
  (List.range 32).foldl (fun m j => if (s.active f).getLsbD j && (flags j).getLsbD i then m ||| (1#32 <<< j) else m) 0

/-- No active lane raises an exception that ten enables. -/
def State.unraised (s : State) (f : LFields) (flags : Nat → Flags) : Prop := ∀ j < 32, (s.active f).getLsbD j = true → s.pod.ten &&& flags j = 0

/-- A word of one value per lane gives that value and its flags; an enabled exception traps instead, the one of lowest code first (R60). -/
def LaneGives (i : LFields → Instr) (sp : LFields → Spans) (x : State → LFields → Nat → W64) (flags : State → LFields → Nat → Flags) : Prop :=
  ∀ (s : State) (f : LFields), (i f).wf = true → s.LaneGoes f (sp f) →
    (s.unraised f (flags s f) → Completes (i f) s fun t => LaneEffect s t f (sp f).d (decide ((sp f).d = 1)) 1 (fun j _ => x s f j) (flags s f) none)
    ∧ (∀ n < 10, s.canTrap → s.pod.sTxn.sent = false → s.pod.ten.getLsbD n = true → s.raising f (flags s f) n ≠ 0 →
        (∀ m < n, s.pod.ten.getLsbD m = false ∨ s.raising f (flags s f) m = 0) → TrapsL (i f) s (flagCause n) (s.raising f (flags s f) n) 0)

/-- A word that raises nothing. -/
def quiet (_ : State) (_ : LFields) (_ : Nat) : Flags := 0

/-- A word of one bit per lane. -/
def LaneTests (i : LFields → Instr) (sp : LFields → Spans) (x : State → LFields → Nat → Bool) (flags : State → LFields → Nat → Flags) : Prop :=
  ∀ (s : State) (f : LFields) (k : Nat), (i f).wf = true → s.pod.queue ≠ [] → s.pod.sfu = [] → (∀ n ∈ readRegs f (sp f), s.granted n = true) →
    (usesLatch f = true → 1 ≤ s.block.hRun ∧ s.block.hRun ≤ 8) → f.dest = .k k → s.block.rep ≤ f.rep.val → s.unraised f (flags s f) →
    Completes (i f) s fun t => LaneMaskEffect s t f k (x s f) (flags s f)

/-- An exact integer as a word delivers it: saturated or wrapped to its type, and extended to its register or pair (R42, R149). -/
def laneInt (t : LType) (sat : Bool) (r : Int) : W64 :=
  let m : Int := 2 ^ t.bits
  let y := if sat then (if t.signed then max (-(m / 2)) (min (m / 2 - 1) r) else max 0 (min (m - 1) r)) else if t.signed then r.bmod (2 ^ t.bits) else r % m
  if t.wide then BitVec.ofInt 64 y else (BitVec.ofInt 32 y).setWidth 64

/-- Bits of a type as a word delivers them. -/
def laneBits (t : LType) (n : Nat) : W64 := if t.isInt then laneInt t false n else BitVec.ofNat 64 (n % 2 ^ t.bits)

/-- The sources of a lane as integers of the word's type. -/
def State.intA (s : State) (f : LFields) (j : Nat) : Int := typedNat f.ty (s.srcA f f.ty j).toNat
def State.intB (s : State) (f : LFields) (j : Nat) : Int := typedNat f.ty (s.srcB f f.ty j).toNat
def State.intC (s : State) (f : LFields) (j : Nat) : Int := typedNat f.ty (s.srcC f f.ty j).toNat
/-- The bits of the sources of a lane. -/
def State.bitsA (s : State) (f : LFields) (j : Nat) : Nat := (s.srcA f f.ty j).toNat % 2 ^ f.ty.bits
def State.bitsB (s : State) (f : LFields) (j : Nat) : Nat := (s.srcB f f.ty j).toNat % 2 ^ f.ty.bits
/-- Sources that are read as n32. -/
def State.amountB (s : State) (f : LFields) (j : Nat) : Nat := (s.srcB f .n32 j).toNat
def State.amountC (s : State) (f : LFields) (j : Nat) : Nat := (s.srcC f .n32 j).toNat
/-- The sources of a lane as binary values (R44). -/
def State.valA (s : State) (f : LFields) (j : Nat) : Val := (binFmt f.ty).value (s.bitsA f j)
def State.valB (s : State) (f : LFields) (j : Nat) : Val := (binFmt f.ty).value (s.bitsB f j)
def State.valC (s : State) (f : LFields) (j : Nat) : Val := (binFmt f.ty).value ((s.srcC f f.ty j).toNat % 2 ^ f.ty.bits)
/-- The sources of a lane as decimal data (R48). -/
def State.decA (s : State) (f : LFields) (j : Nat) : DVal := DVal.decode (s.srcA f .d64 j).toNat
def State.decB (s : State) (f : LFields) (j : Nat) : DVal := DVal.decode (s.srcB f .d64 j).toNat
def State.decC (s : State) (f : LFields) (j : Nat) : DVal := DVal.decode (s.srcC f .d64 j).toNat

/-- The rounding modes of a word (R55). -/
def State.roundB (s : State) (f : LFields) : Rnd := if f.rnd = .dyn then rndOf s.pod.brnd else f.rnd
def State.roundD (s : State) (f : LFields) : Rnd := if f.rnd = .dyn then rndOf s.pod.drnd else f.rnd

/-- A binary result rounded once to a type, with the flags of its operation, in fsr's low half (R56, R61). -/
def binResult (t : LType) (m : Rnd) (r : Val × Exc) : W64 × Flags :=
  let d := (binFmt t).deliver m false r.1
  (BitVec.ofNat 64 d.1, (d.2 ||| r.2).setWidth 10)

/-- A decimal result, with its flags in fsr's high half. -/
def decResult (r : DVal × Exc) : W64 × Flags := (BitVec.ofNat 64 r.1.encode, (r.2.setWidth 10) <<< 5)

/-- A word that gives a value with its flags. -/
def LaneComputes (i : LFields → Instr) (row : LRow) (r : State → LFields → Nat → W64 × Flags) : Prop :=
  LaneGives i (fun f => rowSpans row f.ty) (fun s f j => (r s f j).1) (fun s f j => (r s f j).2)

/-- The exception of a comparison or a class of operands: BI or DI where one is a signalling NaN (R50). -/
def sigFlags (dec : Bool) (xs : List Val) : Flags := if xs.any Val.signalling then (if dec then 0x20 else 0x01) else 0

/-- One of the eight conditions of FCMP and DCMP on two values, and whether it raises the invalid exception (R159). -/
def holdsCond (code : Nat) (a b : Val) : Bool × Bool :=
  let un := a.isNan || b.isNan
  let sig := a.signalling || b.signalling
  match code with
  | 0 => (!un && decide (a.cmp b = 0), sig)
  | 1 => (un || decide (a.cmp b ≠ 0), sig)
  | 2 => (!un && decide (a.cmp b < 0), un)
  | 3 => (!un && decide (a.cmp b ≤ 0), un)
  | 4 => (!un && decide (0 < a.cmp b), un)
  | 5 => (!un && decide (0 ≤ a.cmp b), un)
  | 6 => (un, sig)
  | _ => (!un, sig)

/-- A minimum or maximum keeps the operand's bits; a NaN gives way to a number, and −0 is below +0 (R157). -/
def extreme (t : LType) (greater : Bool) (x y : Nat) : W64 × Flags :=
  let a := (binFmt t).value x
  let b := (binFmt t).value y
  let below := decide (a.cmp b < 0) || (decide (a.cmp b = 0) && a.neg && !b.neg)
  (BitVec.ofNat 64 (if a.isNan && b.isNan then (binFmt t).nanBits else if a.isNan then y else if b.isNan then x
    else if below then (if greater then y else x) else (if greater then x else y)), sigFlags false [a, b])

/-- A word of the special-function unit: at once where a binary exception is enabled or in the handler; otherwise its results are in flight until the unit completes them, and then stand as those of any word (R162). -/
def SfuGives (i : LFields → Instr) (row : LRow) (x : State → LFields → Nat → W64) (flags : State → LFields → Nat → Flags) : Prop :=
  ∀ (s : State) (f : LFields), (i f).wf = true → s.LaneGoes f (rowSpans row f.ty) →
    let span := (rowSpans row f.ty).d
    (s.pod.ten.toNat % 32 ≠ 0 ∨ s.pod.inHandler = true → s.unraised f (flags s f) →
      Completes (i f) s fun t => LaneEffect s t f span f.ty.wide 1 (fun j _ => x s f j) (flags s f) none)
    ∧ (s.pod.ten.toNat % 32 = 0 → s.pod.inHandler = false → s.pod.live = true → Completes (i f) s fun t =>
      t.pod.v = s.pod.v ∧ t.pod.o = s.pod.o ∧ t.pod.fsr = s.pod.fsr ∧ t.pod.sfu.length = 1 ∧ t.inflight = s.inflight ++ [.sfuComplete s.pod.key]
      ∧ Completes (.sfuComplete s.pod.key) t fun u => LaneEffect s { u with inflight := s.inflight } f span f.ty.wide 1 (fun j _ => x s f j) (flags s f) none)

/-! ## Lane trees and algebra -/

/-- The value of node i of level l of the tree of R177 over the lanes that have a value. -/
def redNode (comb : W64 → W64 → W64 × Flags) (leaf : Nat → Option W64) : Nat → Nat → Option W64
  | 0, i => leaf i
  | l + 1, i => match redNode comb leaf l (2 * i), redNode comb leaf l (2 * i + 1) with
    | some a, some b => some (comb a b).1
    | some a, none => some a
    | none, y => y

/-- The flags that the node above lane j at level l raises. -/
def redFlags (comb : W64 → W64 → W64 × Flags) (leaf : Nat → Option W64) (l j : Nat) : Flags :=
  match redNode comb leaf l (2 * (j / 2 ^ (l + 1))), redNode comb leaf l (2 * (j / 2 ^ (l + 1)) + 1) with
  | some a, some b => (comb a b).2
  | _, _ => 0

/-- How REDP combines two values of its type (R177). -/
def redStep (t : LType) (sat : Bool) (m : Rnd) (op : Nat) (a b : W64) : W64 × Flags :=
  let x := a.toNat % 2 ^ t.bits
  let y := b.toNat % 2 ^ t.bits
  if t.isInt then
    (match op with
     | 0 => laneInt t sat (typedNat t x + typedNat t y)
     | 1 => laneInt t sat (min (typedNat t x) (typedNat t y))
     | 2 => laneInt t sat (max (typedNat t x) (typedNat t y))
     | 3 => laneBits t (Nat.land x y)
     | 4 => laneBits t (Nat.lor x y)
     | _ => laneBits t (Nat.xor x y), 0)
  else match op with
    | 0 => binResult t m (((binFmt t).value x).add m ((binFmt t).value y))
    | 1 => extreme t false x y
    | _ => extreme t true x y

/-- An algebra word of comps components, in a slot within the grant (R178, R179); a slot of another dimension gives NaNs and BI (R181). -/
def AlgGives (i : LFields → Instr) (sp : LFields → Spans) (comps : LFields → Nat) (x : State → LFields → AlgTable → Nat → Nat → W64 × Flags) : Prop :=
  ∀ (s : State) (f : LFields) (g : AlgTable), (i f).wf = true → s.LaneGoes f (sp f) → f.imm.toNat % 4 < s.wg.grant.algs → (alookup (f.imm.toNat % 4) s.wg.alg).getD AlgTable.real = g →
    let d := 2 ^ (f.imm.toNat / 2 ^ 5 % 4)
    let flags := fun (j : Nat) => (List.range (comps f)).foldl (fun e k => e ||| (x s f g j k).2) 0
    (g.dim = d → s.unraised f flags → Completes (i f) s fun t =>
      LaneEffect s t f (sp f).d f.ty.wide (comps f) (fun j k => (x s f g j k).1) flags none)
    ∧ (g.dim ≠ d → s.unraised f (fun _ => 0x01) → Completes (i f) s fun t =>
      LaneEffect s t f (sp f).d f.ty.wide (comps f) (fun _ _ => BitVec.ofNat 64 (binFmt f.ty).nanBits) (fun _ => 0x01) none)

/-- Component k of a source group of a lane, as a value (R178). -/
def State.comp (s : State) (f : LFields) (x : Src) (j k : Nat) : Val :=
  (binFmt f.ty).value ((s.source (s.block.rep * (f.stride.val + 1) + k * (if f.ty.wide then 2 else 1)) f.ty f.imm x j).toNat % 2 ^ f.ty.bits)

/-- A component under a slot's conjugation, where the word asks for it. -/
def conjIf (c : Bool) (g : AlgTable) (k : Nat) (v : Val) : Val := if c && g.conj.getLsbD k then v.negate else v

/-- The products of two groups that fall on component k, in the order of the table (R179). -/
def tableProducts (g : AlgTable) (d k : Nat) (l r : Nat → Val) : List (Val × Exc) :=
  (List.range d).flatMap fun i => (List.range d).filterMap fun j =>
    let e := (NMap.get g.tab (8 * i + j)).toNat
    if e % 8 = k ∧ e / 8 % 4 = 1 then some ((l i).mul (r j))
    else if e % 8 = k ∧ e / 8 % 4 = 3 then some (((l i).mul (r j)).1.negate, ((l i).mul (r j)).2)
    else none

/-- The lane types of the packed formats (R164). -/
def packedType (fm : Nat) : LType := [LType.f16, .bf16, .i16, .n16, .e4m3, .e5m2, .i8].getD fm .n8

/-- One source of PACK in its packed form: an element of a lane type, or a weight of four or three bits in four (R164). -/
def packedPart (t : LType) (fm : Nat) (m : Rnd) (sat : Bool) (x : Nat) : Nat × Flags :=
  if 8 ≤ fm then
    let h : Int := if fm = 8 then 8 else 4
    let v := typedNat t x
    (((if sat then max (-h) (min (h - 1) v) else v.bmod (2 * h.toNat)) % 16).toNat, 0)
  else if (packedType fm).isInt then ((laneInt (packedType fm) sat (typedNat t x)).toNat % 2 ^ (packedType fm).bits, 0)
  else
    let v := fmtF32.value x
    let d := (binFmt (packedType fm)).deliver m sat v
    (d.1, d.2.setWidth 10 ||| sigFlags false [v])

/-- An element of a packed format as UNPK delivers it (R165). -/
def unpackedPart (fm x : Nat) : W64 × Flags :=
  if 8 ≤ fm then (laneInt .i32 false ((x : Int).bmod (if fm = 8 then 16 else 8)), 0)
  else if (packedType fm).isInt then (laneInt .i32 false (typedNat (packedType fm) x), 0)
  else (BitVec.ofNat 64 (fmtF32.deliver .rn false ((binFmt (packedType fm)).value x)).1, sigFlags false [(binFmt (packedType fm)).value x])

/-- What a repetition of a lane word without a result does to its pod and workgroup: the stream goes on (R32). -/
def LaneSteps (s t : State) (f : LFields) : Prop := LaneEffect s t f 0 false 0 (fun _ _ => 0) (fun _ => 0) none

/-- A state with the pod and the workgroup in focus of another. -/
def State.ownOf (s t : State) : State := { s with pod := t.pod, wg := t.wg }

/-- The offset of a lane in the window (R182). -/
def State.laneOffset (s : State) (f : LFields) (j : Nat) : Nat :=
  (((s.srcA f .n32 j).toNat + (s.srcB f .i32 j).toNat + (f.imm.setWidth 16 : BitVec 16).toInt : Int) % 2 ^ 32).toNat

/-- The flat address of a lane (R182). -/
def State.laneFlat (s : State) (f : LFields) (j : Nat) : W64 :=
  BitVec.ofInt 64 ((s.srcA f .n64 j).toInt + ((s.srcB f .i32 j).setWidth 32).toInt + (f.imm.setWidth 16 : BitVec 16).toInt)

/-- Lane j is the one active lane. -/
def State.oneLane (s : State) (f : LFields) (j : Nat) : Prop := j < 32 ∧ ∀ i < 32, (s.active f).getLsbD i = decide (i = j)

/-- The bytes that a lane stores from a source. -/
def storedBytes (x : W64) (n : Nat) : List Byte := (List.range n).map (wordByte x)


def latched : Src → Bool
  | .b _ => true
  | _ => false

/-- The first destination register of a half in a file. -/
def pairV (x : Half) : Option Nat := match x.dest with
  | .v d => some d
  | _ => none
def pairO (x : Half) : Option Nat := match x.dest with
  | .o d => some d
  | _ => none

/-- What a half of a paired word gives in a lane (R94, R147): integer halves wrap, floating halves round in the pod's binary mode. -/
def State.pairGives (s : State) (x : Half) (j : Nat) : W64 × Flags :=
  let t := x.ty
  let a := (s.source 0 t 0 x.a j).toNat % 2 ^ t.bits
  let b := (s.source 0 t 0 x.b j).toNat % 2 ^ t.bits
  let n := (s.source 0 .n32 0 x.b j).toNat
  let ia := typedNat t a
  let ib := typedNat t b
  let va := (binFmt t).value a
  let vb := (binFmt t).value b
  let m := rndOf s.pod.brnd
  match x.op with
  | .iadd => (laneInt t false (ia + ib), 0)
  | .isub => (laneInt t false (ia - ib), 0)
  | .imul => (laneInt t false (ia * ib), 0)
  | .imin => (laneInt t false (min ia ib), 0)
  | .imax => (laneInt t false (max ia ib), 0)
  | .iabs => (laneInt t false (ia.natAbs : Int), 0)
  | .ineg => (laneInt t false (-ia), 0)
  | .and => (laneBits t (Nat.land a b), 0)
  | .or => (laneBits t (Nat.lor a b), 0)
  | .xor => (laneBits t (Nat.xor a b), 0)
  | .not => (laneBits t (2 ^ t.bits - 1 - a), 0)
  | .shl => (laneBits t (a * 2 ^ n), 0)
  | .shr => (laneBits t (a / 2 ^ n), 0)
  | .sra => (laneBits t (((a : Int).bmod (2 ^ t.bits) / 2 ^ n) % 2 ^ t.bits).toNat, 0)
  | .rot => (laneBits t (a * 2 ^ (n % t.bits) + a / 2 ^ (t.bits - n % t.bits)), 0)
  | .clz => (laneBits t (if a = 0 then t.bits else t.bits - 1 - Nat.log2 a), 0)
  | .popc => (laneBits t ((List.range t.bits).map fun i => a / 2 ^ i % 2).sum, 0)
  | .brev => (laneBits t ((List.range t.bits).map fun i => a / 2 ^ i % 2 * 2 ^ (t.bits - 1 - i)).sum, 0)
  | .mov => (laneBits t a, 0)
  | .lidx => (BitVec.ofNat 64 j, 0)
  | .fadd => binResult t m (va.add m vb)
  | .fsub => binResult t m (va.add m vb.negate)
  | .fmul => binResult t m (va.mul vb)
  | .fmin => extreme t false a b
  | .fmax => extreme t true a b
  | .frnd => (match va with
      | .num neg p q => (BitVec.ofNat 64 ((binFmt t).deliver m false (.num neg (roundNat m neg p q) 1)).1, 0)
      | v => (BitVec.ofNat 64 ((binFmt t).deliver m false v).1, sigFlags false [v]))
  | .cvt => convert t m false x.src (s.source 0 x.src 0 x.a j)


/-- Pods and workgroups stand as they were. -/
def Aside (s t : State) : Prop := t.pod = s.pod ∧ t.pods = s.pods ∧ t.wg = s.wg ∧ t.wgs = s.wgs

/-- One publication of one line is under way, its home has one record and no proxy takes part. -/
structure State.OneLine (s : State) (p : Publication) (q : PubPart) (h : HomeLine) : Prop where
  pubs : s.pubs = [p] ∧ p.parts = [q]
  homes : s.homes = [h] ∧ h.line = q.line
  proxies : s.proxies = []

/-- What changed beside the pods: the home's record, the publications, and the messages that left. -/
structure LineStep (s t : State) (h : HomeLine) (pubs : List Publication) (msgs : List Msg) : Prop where
  homes : t.homes = [h]
  pubs : t.pubs = pubs
  sent : t.inflight = s.inflight ++ msgs
  aside : Aside s t


/-! ## The front end -/

/-- The number in n bytes of a list from an offset on. -/
def num (e : List Byte) (off n : Nat) : Nat := leValue ((e.drop off).take n)

/-- The one ring has read the command e of its head entry, which is its last; no home has a record. -/
structure State.Command (s : State) (r : Ring) (e : List Byte) : Prop where
  ring : s.rings = [r] ∧ r.conf = true ∧ r.busy = true ∧ r.waiting = none ∧ r.tail = r.head + 1
  entry : r.entry = e ∧ e.length = 64
  homes : s.homes = [] ∧ s.proxies = []

/-- The 16 bytes of a completion record (R220, R221). -/
def recordImage (st : W32) (count : Nat) : List Byte := (List.range 16).map fun i => if i < 4 then wordByte (st.setWidth 64) i else if i < 8 then 0 else wordByte (BitVec.ofNat 64 count) (i - 8)

/-- A ring's head record (R461). -/
def headBytes (head : W32) (state : Nat) : List Byte := (List.range 8).map fun i => if i < 4 then wordByte (head.setWidth 64) i else if i = 4 then BitVec.ofNat 8 state else 0

/-- A command has left its ring: head and head record move on; a completion record, if one was asked for, stands at its physical address, and no other byte of memory has changed. -/
structure Took (s t : State) (r : Ring) (record : Nat) (st : W32) (count : Nat) : Prop where
  head : NMap.bytes t.mem r.headAddr 8 = headBytes (r.head + 1) r.state
  result : record ≠ 0 → NMap.bytes t.mem record 16 = recordImage st count
  memory : ∀ a, (a < r.headAddr ∨ r.headAddr + 8 ≤ a) → (record = 0 ∨ a < record ∨ record + 16 ≤ a) → NMap.get t.mem a = NMap.get s.mem a
  aside : Aside s t ∧ t.core = s.core ∧ t.cores = s.cores

/-- The ring after a command that has ended. -/
def Ring.after (r : Ring) : Ring := { r with head := r.head + 1, waitLogged := false, busy := false }

/-- A record's place does not meet the head record. -/
def Ring.clear (r : Ring) (record : Nat) : Prop := record = 0 ∨ record + 16 ≤ r.headAddr ∨ r.headAddr + 8 ≤ record


/-- Everything but its wet stores, its sets, its group epochs, publications, log and messages stands as it was. -/
def SetsOnly (s t : State) : Prop := t.pods = s.pods ∧ t.wg = s.wg ∧ t.wgs = s.wgs ∧ t.core = s.core ∧ t.cores = s.cores ∧ t.mem = s.mem

/-- The one pipeline runs, and its one pipe has a bridge with a peer under a tag. -/
structure State.OneBridge (s : State) (l : Pipeline) (p : Pipe) (b : Bridge) (peer : Fin 512) (tag : W32) : Prop where
  shape : s.pipelines = [l] ∧ l.pipes = [p] ∧ p.bridge = some b ∧ b.peer = peer.val ∧ b.tag = tag.toNat
  runs : l.state = .running ∧ p.pushers = [] ∧ p.poppers = []

/-- The one pipeline's pipe has changed, or time since its last move. -/
def PipeStep (s t : State) (l : Pipeline) (p : Pipe) (quiet : W64) : Prop :=
  t.pipelines = [{ l with pipes := [p], quiet := quiet }] ∧ t.inflight = s.inflight ∧ Aside s t ∧ t.core = s.core ∧ t.mem = s.mem

end Sys2Proof.Machine
end

