-- ==== Sys2Proof/Certificates/Slice0/Obligations.lean ====
section
/-! DEFINITION. The statements about the model, one definition each; OBLIGATIONS.json lists them. -/

open Sys2Proof Sys2Proof.Machine

/-! ## Scalar words -/

/-- R115: the arithmetic functions of major 0x01, as operations on integers wrapped to 64 bits. R115, R118: logic, shifts by an amount read as n64, leading zeros, one bits and sign extension. -/
def Obligations.ScalarArithmeticAndLogic : Prop :=
  (∀ d a b : Fin 64,
     GivesScalar (.sadd d a b) d 4 (fun s => BitVec.ofInt 64 ((s.readS a).toInt + (s.readS b).toInt))
     ∧ GivesScalar (.ssub d a b) d 4 (fun s => BitVec.ofInt 64 ((s.readS a).toInt - (s.readS b).toInt))
     ∧ GivesScalar (.smul d a b) d 4 (fun s => BitVec.ofInt 64 ((s.readS a).toInt * (s.readS b).toInt))
     ∧ GivesScalar (.smulh d a b) d 4 (fun s => (((s.readS a).signExtend 128 * (s.readS b).signExtend 128 : BitVec 128)).extractLsb' 64 64)
     ∧ GivesScalar (.smulhN d a b) d 4 (fun s => (((s.readS a).setWidth 128 * (s.readS b).setWidth 128 : BitVec 128)).extractLsb' 64 64)
     ∧ GivesScalar (.smin d a b) d 4 (fun s => BitVec.ofInt 64 (min (s.readS a).toInt (s.readS b).toInt))
     ∧ GivesScalar (.sminN d a b) d 4 (fun s => BitVec.ofNat 64 (min (s.readS a).toNat (s.readS b).toNat))
     ∧ GivesScalar (.smax d a b) d 4 (fun s => BitVec.ofInt 64 (max (s.readS a).toInt (s.readS b).toInt))
     ∧ GivesScalar (.smaxN d a b) d 4 (fun s => BitVec.ofNat 64 (max (s.readS a).toNat (s.readS b).toNat))
     ∧ ∀ sh : Fin 4, GivesScalar (.slea d a b sh) d 4 (fun s => BitVec.ofInt 64 ((s.readS a).toInt + (s.readS b).toInt * 2 ^ sh.val)))
  ∧
  (∀ d a b : Fin 64,
     GivesScalar (.sand d a b) d 4 (fun s => BitVec.ofNat 64 (Nat.land (s.readS a).toNat (s.readS b).toNat))
     ∧ GivesScalar (.sor d a b) d 4 (fun s => BitVec.ofNat 64 (Nat.lor (s.readS a).toNat (s.readS b).toNat))
     ∧ GivesScalar (.sxor d a b) d 4 (fun s => BitVec.ofNat 64 (Nat.xor (s.readS a).toNat (s.readS b).toNat))
     ∧ GivesScalar (.sshl d a b) d 4 (fun s => BitVec.ofNat 64 ((s.readS a).toNat * 2 ^ (s.readS b).toNat))
     ∧ GivesScalar (.sshr d a b) d 4 (fun s => BitVec.ofNat 64 ((s.readS a).toNat / 2 ^ (s.readS b).toNat))
     ∧ GivesScalar (.ssra d a b) d 4 (fun s => BitVec.ofInt 64 ((s.readS a).toInt / 2 ^ (s.readS b).toNat))
     ∧ GivesScalar (.srot d a b) d 4 (fun s =>
         BitVec.ofNat 64 ((s.readS a).toNat * 2 ^ ((s.readS b).toNat % 64) + (s.readS a).toNat / 2 ^ (64 - (s.readS b).toNat % 64)))
     ∧ GivesScalar (.sclz d a) d 4 (fun s => if s.readS a = 0 then 64 else BitVec.ofNat 64 (63 - Nat.log2 (s.readS a).toNat))
     ∧ GivesScalar (.spopc d a) d 4 (fun s => BitVec.ofNat 64 ((List.range 64).map fun i => ((s.readS a).getLsbD i).toNat).sum)
     ∧ GivesScalar (.sextI8 d a) d 4 (fun s => BitVec.ofInt 64 (((s.readS a).toNat : Int).bmod (2 ^ 8)))
     ∧ GivesScalar (.sextI16 d a) d 4 (fun s => BitVec.ofInt 64 (((s.readS a).toNat : Int).bmod (2 ^ 16)))
     ∧ GivesScalar (.sextI32 d a) d 4 (fun s => BitVec.ofInt 64 (((s.readS a).toNat : Int).bmod (2 ^ 32))))

/-- R121: SCMP writes 1 or 0 and nothing else. R122: SSEL reads s_d as its condition; with d = 0 the word has no effect but its move. -/
def Obligations.ScalarComparesAndSelect : Prop :=
  (∀ d a b : Fin 64,
     GivesScalar (.scmpEq d a b) d 4 (fun s => oneIf (s.readS a = s.readS b))
     ∧ GivesScalar (.scmpNe d a b) d 4 (fun s => oneIf (s.readS a ≠ s.readS b))
     ∧ GivesScalar (.scmpLt d a b) d 4 (fun s => oneIf ((s.readS a).toInt < (s.readS b).toInt))
     ∧ GivesScalar (.scmpLe d a b) d 4 (fun s => oneIf ((s.readS a).toInt ≤ (s.readS b).toInt))
     ∧ GivesScalar (.scmpGt d a b) d 4 (fun s => oneIf ((s.readS a).toInt > (s.readS b).toInt))
     ∧ GivesScalar (.scmpGe d a b) d 4 (fun s => oneIf ((s.readS a).toInt ≥ (s.readS b).toInt))
     ∧ GivesScalar (.scmpLtN d a b) d 4 (fun s => oneIf ((s.readS a).toNat < (s.readS b).toNat))
     ∧ GivesScalar (.scmpLeN d a b) d 4 (fun s => oneIf ((s.readS a).toNat ≤ (s.readS b).toNat))
     ∧ GivesScalar (.scmpGtN d a b) d 4 (fun s => oneIf ((s.readS a).toNat > (s.readS b).toNat))
     ∧ GivesScalar (.scmpGeN d a b) d 4 (fun s => oneIf ((s.readS a).toNat ≥ (s.readS b).toNat)))
  ∧
  (∀ d a b : Fin 64,
     (d ≠ 0 → ∀ s : State, s.readS d ≠ 0 → Completes (.ssel d a b) s fun t => ScalarEffect s t d (s.readS a) 4)
     ∧ (d ≠ 0 → ∀ s : State, s.readS d = 0 → Completes (.ssel d a b) s fun t => ScalarEffect s t d (s.readS b) 4)
     ∧ ∀ s : State, Completes (.ssel 0 a b) s fun t => OnlyMovesOn s t 4)

/-- R117 to R120: immediate forms, immediate shifts, bit fields and loads of immediates. R128: operations on mask registers. -/
def Obligations.ImmediatesAndMasks : Prop :=
  (∀ d a : Fin 64,
     (∀ i : BitVec 14,
       GivesScalar (.saddImm d a i) d 4 (fun s => BitVec.ofInt 64 ((s.readS a).toInt + i.toInt))
       ∧ GivesScalar (.sandImm d a i) d 4 (fun s => BitVec.ofNat 64 (Nat.land (s.readS a).toNat (i.signExtend 64).toNat))
       ∧ GivesScalar (.sorImm d a i) d 4 (fun s => BitVec.ofNat 64 (Nat.lor (s.readS a).toNat (i.signExtend 64).toNat))
       ∧ GivesScalar (.sxorImm d a i) d 4 (fun s => BitVec.ofNat 64 (Nat.xor (s.readS a).toNat (i.signExtend 64).toNat))
       ∧ GivesScalar (.sli d i) d 4 (fun _ => BitVec.ofInt 64 i.toInt))
     ∧ (∀ n : Fin 64,
       GivesScalar (.sshlImm d a n) d 4 (fun s => BitVec.ofNat 64 ((s.readS a).toNat * 2 ^ n.val))
       ∧ GivesScalar (.sshrImm d a n) d 4 (fun s => BitVec.ofNat 64 ((s.readS a).toNat / 2 ^ n.val))
       ∧ GivesScalar (.ssraImm d a n) d 4 (fun s => BitVec.ofInt 64 ((s.readS a).toInt / 2 ^ n.val))
       ∧ GivesScalar (.srotImm d a n) d 4 (fun s => BitVec.ofNat 64 ((s.readS a).toNat * 2 ^ n.val + (s.readS a).toNat / 2 ^ (64 - n.val))))
     ∧ (∀ x : W32,
       GivesScalar (.sli32 d x) d 8 (fun _ => BitVec.ofInt 64 x.toInt)
       ∧ GivesScalar (.slui d x) d 8 (fun s => BitVec.ofNat 64 (x.toNat * 2 ^ 32 + (s.readS d).toNat % 2 ^ 32)))
     ∧ ∀ p w : Fin 64, p.val + w.val < 64 →
       GivesScalar (.sbfx d a false p w) d 4 (fun s => BitVec.ofNat 64 ((s.readS a).toNat / 2 ^ p.val % 2 ^ (w.val + 1)))
       ∧ GivesScalar (.sbfx d a true p w) d 4 (fun s => BitVec.ofInt 64 ((((s.readS a).toNat / 2 ^ p.val : Nat) : Int).bmod (2 ^ (w.val + 1))))
       ∧ GivesScalar (.sbfi d a p w) d 4 (fun s => BitVec.ofNat 64
           ((s.readS d).toNat % 2 ^ p.val + (s.readS a).toNat % 2 ^ (w.val + 1) * 2 ^ p.val
             + (s.readS d).toNat / 2 ^ (p.val + w.val + 1) * 2 ^ (p.val + w.val + 1))))
  ∧
  (∀ (d a b : Fin 16) (x : Fin 64),
     GivesMask (.kmovKK d a) d (fun s => s.readK a)
     ∧ GivesMask (.kmovKS d x) d (fun s => BitVec.ofNat 32 (s.readS x).toNat)
     ∧ GivesScalar (.kmovSK x a) x 4 (fun s => BitVec.ofNat 64 (s.readK a).toNat)
     ∧ GivesMask (.kand d a b) d (fun s => BitVec.ofNat 32 (Nat.land (s.readK a).toNat (s.readK b).toNat))
     ∧ GivesMask (.kor d a b) d (fun s => BitVec.ofNat 32 (Nat.lor (s.readK a).toNat (s.readK b).toNat))
     ∧ GivesMask (.kxor d a b) d (fun s => BitVec.ofNat 32 (Nat.xor (s.readK a).toNat (s.readK b).toNat))
     ∧ GivesMask (.knot d a) d (fun s => BitVec.ofNat 32 (2 ^ 32 - 1 - (s.readK a).toNat))
     ∧ GivesScalar (.kpop x a) x 4 (fun s => BitVec.ofNat 64 ((List.range 32).map fun j => ((s.readK a).getLsbD j && (s.readK 0).getLsbD j).toNat).sum)
     ∧ ∀ s : State, ∃ n ≤ 32, Completes (.kfirst x a) s (fun t => ScalarEffect s t x (BitVec.ofNat 64 n) 4)
         ∧ (∀ j < n, (s.readK a &&& s.readK 0).getLsbD j = false) ∧ (n < 32 → (s.readK a &&& s.readK 0).getLsbD n = true))

/-- R115, R116: quotients truncate toward zero and remainders carry the sign of a; −2⁶³ by −1 wraps; a divisor of 0 traps. -/
def Obligations.ScalarDivision : Prop :=
  ∀ (d a b : Fin 64) (s : State),
    (s.readS b ≠ 0 →
      Completes (.sdiv d a b) s (fun t => ScalarEffect s t d (BitVec.ofInt 64 ((s.readS a).toInt.tdiv (s.readS b).toInt)) 4)
      ∧ Completes (.sdivN d a b) s (fun t => ScalarEffect s t d (BitVec.ofNat 64 ((s.readS a).toNat / (s.readS b).toNat)) 4)
      ∧ Completes (.srem d a b) s (fun t => ScalarEffect s t d
          (BitVec.ofInt 64 ((s.readS a).toInt - (s.readS b).toInt * (s.readS a).toInt.tdiv (s.readS b).toInt)) 4)
      ∧ Completes (.sremN d a b) s (fun t => ScalarEffect s t d
          (BitVec.ofNat 64 ((s.readS a).toNat - (s.readS b).toNat * ((s.readS a).toNat / (s.readS b).toNat))) 4))
    ∧ (s.readS a = BitVec.intMin 64 → s.readS b = -1 →
      Completes (.sdiv d a b) s (fun t => ScalarEffect s t d (BitVec.intMin 64) 4)
      ∧ Completes (.srem d a b) s (fun t => ScalarEffect s t d 0 4))
    ∧ (s.readS b = 0 → s.canTrap → s.pod.queue = [] →
      TrapsS (.sdiv d a b) s 4 .intDiv0 0 ∧ TrapsS (.sdivN d a b) s 4 .intDiv0 0
      ∧ TrapsS (.srem d a b) s 4 .intDiv0 0 ∧ TrapsS (.sremN d a b) s 4 .intDiv0 0)

/-- R123: where each branch goes, and when it is taken; a branch that is not taken only moves on. CALL writes s63. R124: a taken branch to a bad target traps before anything is written: XLATE_ABSENT first, then MISALIGN, with taddr the target. -/
def Obligations.Branches : Prop :=
  (∀ (s : State) (c a b : Fin 64) (k : Fin 16) (o : BitVec 20) (j : BitVec 26),
     (goodTarget (relTarget s j.toInt) →
       Completes (.br j) s (fun t => JumpEffect s t (relTarget s j.toInt))
       ∧ Completes (.call j) s (fun t => t.pod.pc = relTarget s j.toInt
           ∧ ScalarEffect s { t with pod := { t.pod with pc := s.pod.pc + 4 } } 63 (s.pod.pc + 4) 4))
     ∧ (goodTarget (relTarget s o.toInt) →
       (s.readS c = 0 → Completes (.bz c o) s fun t => JumpEffect s t (relTarget s o.toInt))
       ∧ (s.readS c ≠ 0 → Completes (.bnz c o) s fun t => JumpEffect s t (relTarget s o.toInt))
       ∧ (s.readK k &&& s.readK 0 ≠ 0 → Completes (.bany k o) s fun t => JumpEffect s t (relTarget s o.toInt))
       ∧ (s.readK k &&& s.readK 0 = s.readK 0 → Completes (.ball k o) s fun t => JumpEffect s t (relTarget s o.toInt))
       ∧ (s.readK k &&& s.readK 0 = 0 → Completes (.bnone k o) s fun t => JumpEffect s t (relTarget s o.toInt)))
     ∧ (s.readS c ≠ 0 → Completes (.bz c o) s fun t => OnlyMovesOn s t 4)
     ∧ (s.readS c = 0 → Completes (.bnz c o) s fun t => OnlyMovesOn s t 4)
     ∧ (s.readK k &&& s.readK 0 = 0 → Completes (.bany k o) s fun t => OnlyMovesOn s t 4)
     ∧ (s.readK k &&& s.readK 0 ≠ s.readK 0 → Completes (.ball k o) s fun t => OnlyMovesOn s t 4)
     ∧ (s.readK k &&& s.readK 0 ≠ 0 → Completes (.bnone k o) s fun t => OnlyMovesOn s t 4)
     ∧ (goodTarget (s.readS a + 4 * s.readS b) → Completes (.brx a b) s fun t => JumpEffect s t (s.readS a + 4 * s.readS b))
     ∧ (goodTarget (s.readS a) → Completes (.ret a) s fun t => JumpEffect s t (s.readS a)))
  ∧
  (∀ (s : State) (t : W64) (cause : Cause), s.canTrap → s.pod.queue = [] →
     (2 ^ 54 ≤ t.toNat ∧ cause = .xlateAbsent ∨ t.toNat < 2 ^ 54 ∧ t.toNat % 4 ≠ 0 ∧ cause = .misalign) →
     (∀ j : BitVec 26, relTarget s j.toInt = t → TrapsS (.br j) s 4 cause t ∧ TrapsS (.call j) s 4 cause t)
     ∧ (∀ (c : Fin 64) (k : Fin 16) (o : BitVec 20), relTarget s o.toInt = t →
       (s.readS c = 0 → TrapsS (.bz c o) s 4 cause t)
       ∧ (s.readS c ≠ 0 → TrapsS (.bnz c o) s 4 cause t)
       ∧ (s.readK k &&& s.readK 0 ≠ 0 → TrapsS (.bany k o) s 4 cause t)
       ∧ (s.readK k &&& s.readK 0 = s.readK 0 → TrapsS (.ball k o) s 4 cause t)
       ∧ (s.readK k &&& s.readK 0 = 0 → TrapsS (.bnone k o) s 4 cause t))
     ∧ (∀ a b : Fin 64, s.readS a + 4 * s.readS b = t → TrapsS (.brx a b) s 4 cause t)
     ∧ (∀ a : Fin 64, s.readS a = t → TrapsS (.ret a) s 4 cause t))

/-- R21, R23, R126, R127, R136: LGO binds s32 to s47 and appends its block; one that finds four blocks holds the S-stream; LWAIT with no block in the queue and NOP only move on. -/
def Obligations.LaneBlockWords : Prop :=
  ∀ (s : State) (i : BitVec 26),
    (s.pod.queue.length < 4 → Completes (.lgo i) s fun t =>
      (∃ b : Block, t.pod.queue = s.pod.queue ++ [b] ∧ b.word = i.toNat ∧ b.rep = 0 ∧ b.hRun = 0 ∧ b.q.length = 16
        ∧ ∀ n < 16, b.q.getD n 0 = BitVec.ofNat 32 (s.readS (32 + n)).toNat)
      ∧ OnlyMovesOn s { t with pod := { t.pod with queue := s.pod.queue } } 4)
    ∧ (4 ≤ s.pod.queue.length → Completes (.lgo i) s fun t =>
      t.pod.held = .plain ∧ { t with pod := { t.pod with held := s.pod.held } } = s)
    ∧ (s.pod.queue = [] → Completes .lwait s fun t => OnlyMovesOn s t 4)
    ∧ (s.pod.queue ≠ [] → Completes .lwait s fun t =>
      t.pod.held = .plain ∧ { t with pod := { t.pod with held := s.pod.held } } = s)
    ∧ Completes .nop s fun t => OnlyMovesOn s t 4

/-! ## Scalar memory -/

/-- R129, R131: SLDS reads and SSTS writes the window; the bytes written are those of s_d, and a barrier object that the store meets may change besides (R250). R130, R131: the checks of an access in their order, each with taddr the address; no byte is read or written. The model's choices in it: log entry 13. -/
def Obligations.ScratchpadWordsAndAccessTraps : Prop :=
  (∀ (s : State) (d a : Fin 64) (z : Fin 4) (o : BitVec 11) (e : Nat),
     (scalarAddr s a z o).toNat = e → e % 2 ^ z.val = 0 → e + 2 ^ z.val ≤ s.wg.grant.scratch →
     (∀ sx : Bool, poisoned s.wg.scratchPoison e (2 ^ z.val) = false →
       Completes (.slds d a z sx o) s fun t =>
         ScalarEffect s t d (loaded (2 ^ z.val) sx ((List.range (2 ^ z.val)).map fun i => NMap.get s.wg.scratch (e + i))) 4)
     ∧ Completes (.ssts d a z o) s fun t =>
         MovesOn s t 4
         ∧ { t with pod := t.pod.place s.pod, wg := { t.wg with scratch := s.wg.scratch, scratchPoison := s.wg.scratchPoison } } = s
         ∧ SameMemory s t
         ∧ (∀ x, (x < e ∨ e + 2 ^ z.val ≤ x) → (∀ b ∈ s.wg.objects, x < b ∨ b + 16 ≤ x) → NMap.get t.wg.scratch x = NMap.get s.wg.scratch x)
         ∧ ((∀ b ∈ s.wg.objects, b + 16 ≤ e ∨ e + 2 ^ z.val ≤ b) →
             ∀ i < 2 ^ z.val, NMap.get t.wg.scratch (e + i) = wordByte (s.readS d) i))
  ∧
  (∀ (s : State) (d a : Fin 64) (z : Fin 4) (o : BitVec 11) (e : W64), s.canTrap → s.pod.queue = [] → s.pod.sTxn = Txn.empty → scalarAddr s a z o = e →
     (e.toNat < 2 ^ 54 → s.walkBusy s.core.n s.wg.ctx e.toNat = false) →
     (∀ cause, (2 ^ 54 ≤ e.toNat ∧ cause = .xlateAbsent
         ∨ e.toNat < 2 ^ 54 ∧ e.toNat % 2 ^ z.val ≠ 0 ∧ cause = .misalign
         ∨ e.toNat < 2 ^ 54 ∧ e.toNat % 2 ^ z.val = 0 ∧ s.locate s.core.n s.wg.ctx e.toNat = none ∧ cause = .xlateAbsent) →
       (∀ sx, TrapsS (.sld d a z sx o) s 4 cause e ∧ TrapsS (.sldk d a z sx o) s 4 cause e ∧ ∀ sc, TrapsS (.sldAcq d a z sx o sc) s 8 cause e)
       ∧ TrapsS (.sst d a z o) s 4 cause e ∧ ∀ sc, TrapsS (.sstRel d a z o sc) s 8 cause e)
     ∧ (e.toNat < 2 ^ 54 → e.toNat % 2 ^ z.val = 0 → (∃ l : Loc, s.locate s.core.n s.wg.ctx e.toNat = some l ∧ l.leaf.getLsbD 4 = false) →
       TrapsS (.sst d a z o) s 4 .xlatePerm e ∧ ∀ sc, TrapsS (.sstRel d a z o sc) s 8 .xlatePerm e)
     ∧ (e.toNat % 2 ^ z.val ≠ 0 → (∀ sx, TrapsS (.slds d a z sx o) s 4 .misalign e) ∧ TrapsS (.ssts d a z o) s 4 .misalign e)
     ∧ (e.toNat % 2 ^ z.val = 0 → s.wg.grant.scratch < e.toNat + 2 ^ z.val →
       (∀ sx, TrapsS (.slds d a z sx o) s 4 .xlateAbsent e) ∧ TrapsS (.ssts d a z o) s 4 .xlateAbsent e))

/-- R129, R132: SLD, SLDK and SLD.acq deliver the bytes at the address; memory and every other register stay as they were. SLD reads through the L1 and the core's own stash, SLDK the K-cache or the published bytes. R129, R296, R318: a generic store performs in the core: its bytes stand in the L1 and are dirty, no byte of memory at a home changes, and every other byte that the L1 holds stays. SST.rel of scope pod or wg does the same; at dev, with nothing else to publish, it starts a publication of its own bytes, holds, and moves on when that is complete. -/
def Obligations.GenericLoadsAndStores : Prop :=
  (∀ (s : State) (d a : Fin 64) (z : Fin 4) (sx : Bool) (o : BitVec 11) (l : Loc) (n : Nat),
     n = 2 ^ z.val → s.goesTo (scalarAddr s a z o) n false l →
     (s.readyLine l n → s.unmarked l n →
       Completes (.sld d a z sx o) s (fun t =>
         PodScalar s t d (loaded n sx ((List.range n).map fun i => s.ownView (l.key + i))) 4 ∧ SameMemory s t)
       ∧ (∀ sc, (s.core.shelf.all fun e => e.copy.isNone) = true → Completes (.sldAcq d a z sx o sc) s fun t =>
         PodScalar s t d (loaded n sx ((List.range n).map fun i => s.ownView (l.key + i))) 8 ∧ SameMemory s t
         ∧ (sc = .dev ∨ sc = .sys → t.core.shelf = [] ∧ t.core.kcache = [])))
     ∧ (s.CleanLine l → alookup l.line s.core.kcache = none → lineRemote l.line = false → s.homeIdle l.line = true →
         poisoned s.poison (l.line * 128) 128 = false → l.key % 128 + n ≤ 128 →
       Completes (.sldk d a z sx o) s fun t =>
         PodScalar s t d (loaded n sx ((List.range n).map fun i => s.homeByte (l.key + i))) 4 ∧ SameMemory s t)
     ∧ (∀ k : List Byte, s.CleanLine l → alookup l.line s.core.kcache = some k → k.length = 128 → l.key % 128 + n ≤ 128 →
       Completes (.sldk d a z sx o) s fun t =>
         PodScalar s t d (loaded n sx ((List.range n).map fun i => k.getD (l.key % 128 + i) 0)) 4 ∧ SameMemory s t))
  ∧
  (∀ (s : State) (d a : Fin 64) (z : Fin 4) (o : BitVec 11) (l : Loc) (n : Nat),
     n = 2 ^ z.val → s.goesTo (scalarAddr s a z o) n true l → l.key % 128 + n ≤ 128 → s.CleanLine l →
     s.core.l1.length < Config.l1Ways →
     let performed := fun (t : State) =>
       (∀ i < n, t.core.byteOf l.line (l.key % 128 + i) = some (wordByte (s.readS d) i) ∧ ∃ x, t.core.lineOf l.line = some x ∧ x.isDirty (l.key % 128 + i) = true)
       ∧ (∀ line off, (line ≠ l.line ∨ off < l.key % 128 ∨ l.key % 128 + n ≤ off) → t.core.byteOf line off = s.core.byteOf line off)
       ∧ SameMemory s t
     Completes (.sst d a z o) s (fun t => PodMoves s t 4 ∧ performed t)
     ∧ (∀ sc, sc = .pod ∨ sc = .wg → s.pod.sTxn.phase = 0 → Completes (.sstRel d a z o sc) s fun t => PodMoves s t 8 ∧ performed t)
     ∧ (l.tracked = true → lineFar l.line = false → s.core.dirtyLines = [] → (∀ p ∈ s.pubs, p.core ≠ s.core.n) → s.pod.daubOut = 0 → s.pod.sTxn.phase = 0 →
       Completes (.sstRel d a z o .dev) s fun t =>
         t.pod.held = .plain ∧ t.pod.pc = s.pod.pc ∧ performed t
         ∧ ∃ p ∈ t.pubs, t.pod.sTxn.pub = some p.id ∧ p.core = s.core.n ∧ p.parts.map (·.line) = [l.line])
     ∧ (∀ sc, s.pod.sTxn.phase = 3 → (∀ p, s.pod.sTxn.pub = some p → s.pubDone s.core.n p = true) → s.farAcked s.core.n = true →
       sc = .dev ∨ sc = .sys → Completes (.sstRel d a z o sc) s fun t => PodMoves s t 8 ∧ SameMemory s t))

/-! ## Special values, traps and coats -/

/-- R13, R133: SRD delivers each special value, zero-extended; a read of fsr waits while a matrix step of the pod can still set a flag. R14, R133: SWR writes the low bits of a writable name; a rounding code that R56 does not accept raises ILLEGAL, judged on three bits; names marked read, and trap registers outside the handler, raise PRIV. R134: STEN changes the bits of ten that the mask selects. -/
def Obligations.SpecialReadsAndWrites : Prop :=
  (∀ (s : State) (d : Fin 64) (n : Special) (l : Launch), s.curLaunch = some l →
     ((n ≠ .fsr ∨ ∀ m ∈ s.core.steps, m.pod ≠ some s.pod.key) →
       Completes (.srd d n) s fun t => ScalarEffect s t d (BitVec.ofNat 64 (specialNat s l n)) 4)
     ∧ ((∃ m ∈ s.core.steps, m.pod = some s.pod.key) →
       Completes (.srd d .fsr) s fun t => t.pod.held = .plain ∧ { t with pod := { t.pod with held := s.pod.held } } = s))
  ∧
  (∀ (s : State) (a : Fin 64) (n : Special) (l : Launch),
     ((n = .ten ∨ (n = .fsr ∧ ∀ m ∈ s.core.steps, m.pod ≠ some s.pod.key)
         ∨ (n = .brnd ∧ (s.readS a).toNat % 8 ≤ 4) ∨ (n = .drnd ∧ (s.readS a).toNat % 8 ≤ 6) ∨ (trapRegister n = true ∧ s.pod.inHandler = true)) →
       Completes (.swr a n) s fun t => SpecialWritten s t l n (s.readS a))
     ∧ (s.canTrap → s.pod.queue = [] →
       (n = .brnd → 5 ≤ (s.readS a).toNat % 8 → TrapsS (.swr a n) s 4 .illegal 0)
       ∧ (n = .drnd → 7 ≤ (s.readS a).toNat % 8 → TrapsS (.swr a n) s 4 .illegal 0)
       ∧ (readOnly n = true ∨ trapRegister n = true → TrapsS (.swr a n) s 4 .priv 0)))
  ∧
  (∀ (s : State) (a b : Fin 64), Completes (.sten a b) s fun t =>
     (∀ i < 10, t.pod.ten.getLsbD i = if (s.readS b).getLsbD i then (s.readS a).getLsbD i else s.pod.ten.getLsbD i)
     ∧ OnlyMovesOn s { t with pod := { t.pod with ten := s.pod.ten } } 4)

/-- R378 to R381: TRAP, BRK and a trap at an S word or at the lane word at the head of the queue enter the handler; a lane trap sets the rest of its block aside at the repetition that trapped. -/
def Obligations.TrapsEnterTheHandler : Prop :=
  ∀ (s : State), s.canTrap →
    (s.pod.queue = [] → ∀ code : BitVec 8,
      TrapsS (.trap code) s 4 .trap (BitVec.ofNat 64 code.toNat)
      ∧ (s.skepin.dbg ≠ .halt → TrapsS (.brk code) s 4 .brk (BitVec.ofNat 64 code.toNat))
      ∧ ∀ (c : Cause) (len : Nat) (addr : W64), endsJob c = false → TrapsS (.trapEntry c false len 0 0 addr) s len c addr)
    ∧ ∀ (c : Cause) (rep : Nat) (mask : W32) (addr : W64) (b : Block) (r : List Block), endsJob c = false → s.pod.queue = b :: r → s.pod.sTxn.sent = false →
      Completes (.trapEntry c true 4 rep mask addr) s fun t =>
        EntersHandler s t c s.pod.pc (s.desc.lbase + BitVec.ofNat 64 (12 * b.word)) mask addr
        ∧ t.pod.trapLane = true ∧ t.pod.trapRep = rep ∧ t.pod.setAside = { b with rep := rep } :: r

/-- R135, R488: BRK in halt-debug halts the pod at the word and reports it to the debugger. R114: an S word that traps with a lane block still in the queue holds instead, and changes nothing else. R380, R398: a trap in the handler, or where the launch has no handler, faults the job and stops the pod, which enters no handler; where no other pod is left to reach a word boundary it is gone at once. The model's choices in it: log entry 35. -/
def Obligations.TrapsThatEnterNoHandler : Prop :=
  (∀ (s : State) (code : BitVec 8), s.skepin.dbg = .halt → s.pod.queue = [] →
     Completes (.brk code) s fun t =>
       t.pod.halted = true ∧ t.outbox = s.outbox ++ [.debug s.pod.key (BitVec.ofNat 64 code.toNat)]
       ∧ { t with pod := { t.pod with halted := s.pod.halted }, outbox := s.outbox } = s)
  ∧
  (∀ (s : State) (code : BitVec 8) (d a b : Fin 64), s.pod.queue ≠ [] → s.skepin.dbg ≠ .halt →
     ∀ i, (i = .trap code ∨ i = .brk code ∨ (i = .sdiv d a b ∧ s.readS b = 0)) →
       Completes i s fun t => t.pod.held = .plain ∧ { t with pod := { t.pod with held := s.pod.held } } = s)
  ∧
  (∀ (s : State) (l : Launch) (j : HostJob) (code : BitVec 8),
     (s.pod.inHandler = true ∨ s.desc.handler = 0) → s.pod.queue = [] → s.curLaunch = some l → l.done = false →
     s.hostJobBy l.job = some j → j.ended = false → j.faulted = none → j.cancelled = false → s.pod.live = true → s.wg.id ≠ 0 → s.pod.key.wg = s.wg.id →
     Completes (.trap code) s fun t =>
       (t.pod = Pod.empty ∨ t.pod.dead = true) ∧ (s.pods = [] → t.pod = Pod.empty)
       ∧ ∃ k : HostJob, t.hostJobBy l.job = some k ∧ k.faulted = some .trap)

/-- R382: TRET outside the handler raises PRIV; inside it restores the latches, leaves the handler and goes on at tspc, past the word that trapped with .skip; after a lane trap the set-aside queue comes back with its first block at tlpc. Registers and memory stand. The model's choices in it: log entry 78. -/
def Obligations.TrapReturn : Prop :=
  ∀ (s : State) (skip : Bool),
    (s.canTrap → s.pod.queue = [] → TrapsS (.tret skip) s 4 .priv 0)
    ∧ (s.pod.inHandler = true → s.pod.queue = [] →
      let back := fun (t : State) =>
        t.pod.inHandler = false ∧ t.pod.b = s.pod.shadow ∧ t.pod.setAside = []
        ∧ t.pod.s = s.pod.s ∧ t.pod.bankS = s.pod.bankS ∧ t.pod.k = s.pod.k ∧ t.pod.v = s.pod.v ∧ t.pod.bankV = s.pod.bankV ∧ t.pod.o = s.pod.o
        ∧ t.pod.fsr = s.pod.fsr ∧ t.pod.ten = s.pod.ten ∧ t.pod.coat = s.pod.coat ∧ SameMemory s t
      (s.pod.trapLane = false → Completes (.tret skip) s fun t =>
        back t ∧ t.pod.queue = [] ∧ t.pod.pc = s.pod.tspc + BitVec.ofNat 64 (if skip then s.pod.trapLen else 0))
      ∧ (s.pod.trapLane = true → skip = false → ∀ (b : Block) (r : List Block), s.pod.setAside = b :: r →
        Completes (.tret false) s fun t => back t ∧ t.pod.pc = s.pod.tspc
          ∧ ∃ b' : Block, t.pod.queue = b' :: r ∧ b'.q = b.q
            ∧ (s.pod.tlpc = s.pod.tlpcEntry → b'.word = b.word ∧ b'.rep = s.pod.trapRep)
            ∧ (s.pod.tlpc ≠ s.pod.tlpcEntry → b'.rep = 0 ∧ ∀ n < 2 ^ 32, s.pod.tlpc = s.lAddr n → b'.word = n))
      ∧ (s.pod.trapLane = true → skip = true → ∀ (u : State) (w e : Nat) (b : Block) (r : List Block), s.pod.setAside = b :: r →
          s.fetchL s.pod.tlpc.toNat = .word u w e → u.pod = s.pod → u.desc = s.desc →
        Completes (.tret true) s fun t => t.pod.inHandler = false ∧ t.pod.b = s.pod.shadow ∧ t.pod.pc = s.pod.tspc ∧ SameMemory u t
          ∧ (w / 2 ^ 85 % 2 ^ 11 = 2 * 0x3F0 → t.pod.queue = r)
          ∧ (w / 2 ^ 85 % 2 ^ 11 ≠ 2 * 0x3F0 →
            ∃ b' : Block, t.pod.queue = b' :: r ∧ b'.q = b.q ∧ b'.rep = 0 ∧ ∀ n < 2 ^ 32, s.pod.tlpc = s.lAddr n → b'.word = n + 1)))

/-- R384 to R386, R391: COAT closes an open coat, opens one with its live-in sets and the snapshot, and sets the count of uncoated words to 0; a v range beyond the grant, or COAT in the handler, is ILLEGAL. R19, R248, R391: EXIT with other pods of its workgroup left ends the pod, closes its coat and leaves memory as it was; the last pod of a workgroup of a launch that still has workgroups to place ends it and counts it, when nothing is left to publish or to wait for. The model's choices in it: log entry 27. -/
def Obligations.CoatsAndExit : Prop :=
  (∀ (s : State) (a : Fin 64) (n : BitVec 9) (b : BitVec 8) (km : BitVec 15),
     (b.toNat + n.toNat ≤ s.wg.grant.regs → s.pod.inHandler = false → s.pod.queue = [] →
       Completes (.coat a n b km) s fun t =>
         (∃ c : Coat, t.pod.coat = some c ∧ c.entry = s.pod.pc + 8 ∧ c.vB = b.toNat ∧ c.vN = n.toNat
           ∧ c.fsr = s.pod.fsr ∧ c.ten = s.pod.ten ∧ c.brnd = s.pod.brnd ∧ c.drnd = s.pod.drnd
           ∧ (∀ r, c.liveS.getLsbD r = (decide (r ≠ 0) && (s.readS a).getLsbD r))
           ∧ ∀ i, c.km.getLsbD i = (decide (i ≠ 0) && km.getLsbD (i - 1)))
         ∧ t.pod.count = 0
         ∧ (∀ e ∈ t.wg.journal, s.pod.coat.isSome = true → e.pod ≠ s.pod.key.pod)
         ∧ OnlyMovesOn s { t with pod := { t.pod with coat := s.pod.coat, count := s.pod.count }, wg := { t.wg with journal := s.wg.journal } } 8)
     ∧ (s.canTrap → s.pod.queue = [] → s.wg.grant.regs < b.toNat + n.toNat → TrapsS (.coat a n b km) s 8 .illegal 0))
  ∧
  (∀ (s : State), s.pod.queue = [] →
     (1 < (s.livePods s.wg.id).length → s.pod.key.wg = s.wg.id → (∀ p ∈ s.allPods, p.tcopies = []) → s.wg.arrived = [] → s.pod.live = true → s.wg.id ≠ 0 →
       Completes .exit s fun t =>
         t.pod.exited = true ∧ t.pod.coat = none ∧ t.pod.s = s.pod.s ∧ t.pods = s.pods ∧ SameMemory s t)
     ∧ ∀ l, (s.livePods s.wg.id).length ≤ 1 → (∀ p ∈ s.allPods, p.tcopies = []) → s.core.dirtyLines = [] → (∀ p ∈ s.pubs, p.core ≠ s.core.n) →
       s.pod.daubOut = 0 → s.pod.sTxn = Txn.empty →
       s.core.jobs = [] → s.core.steps = [] → s.pod.live = true → s.wg.id ≠ 0 → s.pod.key.wg = s.wg.id → s.pod.exited = false →
       s.curLaunch = some l → l.pipeline = none → l.next < l.gx * l.gy * l.gz →
       Completes .exit s fun t => t.pod = Pod.empty ∧ (∃ l' : Launch, t.launchBy l.id = some l' ∧ l'.count = l.count + 1) ∧ SameMemory s t)

/-! ## Layout entries, fences, matrix -/

/-- R138, R139, R141: LAYDEF makes an entry that stands for exactly its record, or clears it and says why; a base that is not a multiple of 128 bytes in memory is the first reason; LAYQ stores the record back, or 64 zero bytes, in the window or through the L1, and says whether the entry is valid. R138: the alignment and bounds of LAYDEF and LAYQ; after a trap the entry stands. -/
def Obligations.LayoutEntries : Prop :=
  (∀ (s : State) (d a n : Fin 64), n.val < s.wg.grant.lays →
     (∀ (sp : Bool) (rec' : List Byte), s.cardIs sp a rec' →
       let rest := fun (t : State) => { t.wg with lay := s.wg.lay, journal := s.wg.journal } = s.wg ∧ (sp = true → t.core = s.core) ∧ SameMemory s t
         ∧ ∀ m, m ≠ n.val → t.wg.entry m = s.wg.entry m
       (layCheck s.wg.grant.scratch rec' = none → Completes (.laydef d a n sp) s fun t =>
         PodWrites s t d 0 4 ∧ (∃ x : LayEntry, t.wg.entry n = some x ∧ x.bytes = rec') ∧ rest t)
       ∧ (∀ st, layCheck s.wg.grant.scratch rec' = some st → Completes (.laydef d a n sp) s fun t =>
         PodWrites s t d (BitVec.ofNat 64 st.toNat) 4 ∧ t.wg.entry n = none ∧ rest t)
       ∧ ((rec'.getD 8 0).toNat % 4 = 0 → (rec'.getD 0 0).toNat % 128 ≠ 0 → layCheck s.wg.grant.scratch rec' = some 0x01010000))
     ∧ (∀ e, (s.readS a).toNat = e → e % 64 = 0 → e + 64 ≤ s.wg.grant.scratch → (∀ b ∈ s.wg.objects, b + 16 ≤ e ∨ e + 64 ≤ b) → Completes (.layq d a n true) s fun t =>
       PodWrites s t d (if (s.wg.entry n).isSome then 1 else 0) 4
       ∧ (∀ x, s.wg.entry n = some x → x.bytes.length = 64 → NMap.bytes t.wg.scratch e 64 = x.bytes)
       ∧ (s.wg.entry n = none → NMap.bytes t.wg.scratch e 64 = List.replicate 64 0)
       ∧ (∀ y, y < e ∨ e + 64 ≤ y → NMap.get t.wg.scratch y = NMap.get s.wg.scratch y)
       ∧ t.wg.lay = s.wg.lay ∧ SameMemory s t)
     ∧ (∀ l, (s.readS a).toNat % 64 = 0 → s.goesTo (s.readS a) 64 true l → l.key % 128 + 64 ≤ 128 → s.CleanLine l → s.core.l1.length < Config.l1Ways →
       Completes (.layq d a n false) s fun t =>
         PodWrites s t d (if (s.wg.entry n).isSome then 1 else 0) 4
         ∧ (∀ x, s.wg.entry n = some x → x.bytes.length = 64 → ∀ i < 64, t.core.byteOf l.line (l.key % 128 + i) = some (x.bytes.getD i 0))
         ∧ (s.wg.entry n = none → ∀ i < 64, t.core.byteOf l.line (l.key % 128 + i) = some 0)
         ∧ (∀ line off, (line ≠ l.line ∨ off < l.key % 128 ∨ l.key % 128 + 64 ≤ off) → t.core.byteOf line off = s.core.byteOf line off)
         ∧ { t.wg with journal := s.wg.journal } = s.wg ∧ SameMemory s t))
  ∧
  (∀ (s : State) (d a n : Fin 64), s.canTrap → s.pod.queue = [] →
     (s.wg.grant.lays ≤ n.val → ∀ sp, TrapsS (.laydef d a n sp) s 4 .illegal 0 ∧ TrapsS (.layq d a n sp) s 4 .illegal 0)
     ∧ (n.val < s.wg.grant.lays →
       ((s.readS a).toNat % 64 ≠ 0 → ∀ sp, TrapsS (.laydef d a n sp) s 4 .misalign (s.readS a) ∧ TrapsS (.layq d a n sp) s 4 .misalign (s.readS a))
       ∧ ((s.readS a).toNat % 64 = 0 → s.wg.grant.scratch < (s.readS a).toNat + 64 →
         TrapsS (.laydef d a n true) s 4 .xlateAbsent (s.readS a) ∧ TrapsS (.layq d a n true) s 4 .xlateAbsent (s.readS a))))

/-- R303, R307, R319: PHASE of pod or wg scope only moves on; an acquire of dev or sys empties the shelf and the K-cache; a release of dev with nothing to publish moves on, one with dirty bytes starts their publication and holds, and moves on when it is complete. R320: what each PFENCE does to the core, with memory as it was. -/
def Obligations.PhasesAndFences : Prop :=
  (∀ (s : State), s.pod.queue = [] →
     (∀ o sc, o ≠ .relaxed → sc = .pod ∨ sc = .wg → Completes (.phase o sc) s fun t => OnlyMovesOn s t 4)
     ∧ (∀ sc, sc = .dev ∨ sc = .sys → (∀ e ∈ s.core.shelf, e.copy = none) → s.core.distinctLines → Completes (.phase .acq sc) s fun t =>
       PodMoves s t 4 ∧ t.core.shelf = [] ∧ t.core.kcache = [] ∧ SameMemory s t
       ∧ ∀ line off, s.core.dirtyAt line off = true → t.core.byteOf line off = s.core.byteOf line off)
     ∧ (s.core.dirtyLines = [] → (∀ p ∈ s.pubs, p.core ≠ s.core.n) → s.pod.daubOut = 0 → s.pod.sTxn = Txn.empty →
       Completes (.phase .rel .dev) s fun t => OnlyMovesOn s t 4)
     ∧ (s.core.dirtyLines ≠ [] → (∀ e ∈ s.core.dirtyLines, lineFar e.1 = false ∧ e.2 ≠ []) → (∀ p ∈ s.pubs, p.core ≠ s.core.n) → s.pod.sTxn = Txn.empty → ∀ sc, sc = .dev ∨ sc = .sys →
       Completes (.phase .rel sc) s fun t =>
         t.pod.held = .plain ∧ t.pod.pc = s.pod.pc ∧ t.core = s.core ∧ SameMemory s t
         ∧ ∃ p : Publication, t.pubs = s.pubs ++ [p] ∧ t.pod.sTxn.pub = some p.id ∧ p.core = s.core.n ∧ p.parts.map (fun q => (q.line, q.bytes)) = s.core.dirtyLines)
     ∧ (∀ id, s.pod.sTxn.phase = 1 → s.pod.sTxn.pub = some id → s.pubDone s.core.n id = true → s.pod.daubOut = 0 →
       Completes (.phase .rel .dev) s (fun t => OnlyMovesOn s t 4)
       ∧ (s.farAcked s.core.n = true → Completes (.phase .rel .sys) s fun t => OnlyMovesOn s t 4)))
  ∧
  (∀ (s : State), s.pod.queue = [] → s.pod.sTxn = Txn.empty → s.core.distinctLines →
     (Completes (.pfence .tile .generic) s fun t =>
       PodMoves s t 4 ∧ SameMemory s t ∧ t.core.stash = s.core.stash
       ∧ ∀ line off, t.core.byteOf line off = if s.core.dirtyAt line off then s.core.byteOf line off else none)
     ∧ ((∀ l ∈ s.core.l1, l.tracked = true ∧ ∀ e ∈ l.dirty, (alookup e.1 l.bytes).isSome = true) → s.wroteBack s.core.n = true → s.core.stash.length + s.core.l1.length ≤ Config.stashPerCore →
         (s.allCores.flatMap (·.stash)).length + s.core.l1.length ≤ Config.stashPerSlice →
       Completes (.pfence .generic .tile) s fun t =>
         PodMoves s t 4 ∧ SameMemory s t ∧ (∀ l ∈ t.core.l1, l.dirty = []) ∧ ∀ key, t.ownView key = s.ownView key)
     ∧ (s.core.dirtyLines = [] → (∀ p ∈ s.pubs, p.core ≠ s.core.n) → s.pod.daubOut = 0 → ∀ f, f = .generic ∨ f = .tile →
       Completes (.pfence f .constant) s fun t => PodMoves s t 4 ∧ t.core = { s.core with kcache := [] } ∧ SameMemory s t))

/-- R194, R195, R200, R201: a step with good extents gives status 0 and is accepted with its tiles as they stand; its accumulators change only when it completes. Bad extents give ERR_BOUNDS 0x20 and nothing else. R194: which extents a step accepts. The model's choices in it: log entry 74. -/
def Obligations.MatrixStepsIssue : Prop :=
  (∀ (s : State) (f : MmaFields) (k : MKind) (i : Instr),
     (i = .mma f ∧ k = .mma ∨ i = .mmaw f ∧ k = .mmaw ∨ i = .mmag f ∧ k = .mmag) →
     stepGranted s.wg.grant k f = true →
     (extOk (stepKmax k f) (s.readS f.a) = true → s.pod.coat = none → s.wg.stepPoisoned k f (s.readS f.a) = false →
       Completes i s fun t =>
         PodScalar s t f.d 0 8 ∧ SameMemory s t
         ∧ { t.core with steps := s.core.steps, ka := s.core.ka, stepSince := s.core.stepSince } = s.core
         ∧ ∃ m : MStep, t.core.steps = s.core.steps ++ [m] ∧ m.kind = k ∧ m.f = f ∧ m.dims = s.readS f.a ∧ m.pod = some s.pod.key ∧ m.wg = s.wg.id
           ∧ (∀ x, x / 2048 = f.tileA.val ∨ x / 2048 = f.tileB.val → NMap.wf s.wg.tile = true → NMap.get m.tiles x = NMap.get s.wg.tile x))
     ∧ (extOk (stepKmax k f) (s.readS f.a) = false → Completes i s fun t => ScalarEffect s t f.d 0x02200000 8))
  ∧
  (∀ (kmax : Nat) (x : W64), kmax ≤ 128 →
     (extOk kmax x = true ↔ ∃ m n k : Nat, m ≤ 16 ∧ n ≤ 16 ∧ k ≤ kmax ∧ x.toNat = m + 2 ^ 8 * n + 2 ^ 16 * k))

/-- R69, R195, R197, R200: the oldest step of a core completes: cells outside its extents and accumulators stand; with 16-bit formats in row views each cell becomes mstep of itself and the products along K; an MMAG whose slot has another dimension writes the canonical NaN and raises BI. The flags reach the issuing pod. R399: a matrix array that has completed no step for 2^20 cycles is reset: its steps are gone, the tiles and accumulators of the workgroups on it are zero, and the reset is logged; before that time nothing happens. The model's choices in it: log entry 38. -/
def Obligations.MatrixStepCompletesOrResets : Prop :=
  (∀ (s : State) (m : MStep) (rest : List MStep) (p : PodKey), s.core.steps = m :: rest → m.pod = some p → m.wg = s.wg.id →
     p = s.pod.key → s.pod.live = true → s.wg.id ≠ 0 → s.wg.accBad m = false →
     Completes (.matrixStepComplete s.core.n) s fun t =>
       t.core.steps = rest ∧ SameMemory s t ∧ t.pods = s.pods
       ∧ { t.pod with fsr := s.pod.fsr } = s.pod ∧ (∀ i, s.pod.fsr.getLsbD i = true → t.pod.fsr.getLsbD i = true)
       ∧ { t.wg with acc := s.wg.acc, accPoison := s.wg.accPoison } = s.wg
       ∧ (∀ x, (¬ ∃ k < stepDim m.kind m.f, ∃ r < extM m.dims, ∃ c < extN m.dims, x = (m.f.acc.val + k) * 256 + 16 * r + c) →
           extM m.dims ≤ 16 → extN m.dims ≤ 16 → NMap.get t.wg.acc x = NMap.get s.wg.acc x)
       ∧ (m.kind = .mma → m.f.ta = false → m.f.tb = false → (m.f.fmtA = .ty .f16 ∨ m.f.fmtA = .ty .bf16) → m.f.fmtB = m.f.fmtA →
           m.f.rev = false → extM m.dims ≤ 16 → extN m.dims ≤ 16 → m.f.ca = false → m.f.cb = false →
           ∀ ty, m.f.fmtA = .ty ty → ∀ r < extM m.dims, ∀ c < extN m.dims,
             let unit := fun (tile row k : Nat) => (binFmt ty).value (natOfBytes (NMap.bytes m.tiles (tile * 2048 + 128 * row + 2 * k) 2))
             NMap.get t.wg.acc (m.f.acc.val * 256 + 16 * r + c)
               = BitVec.ofNat 32 (mstep (NMap.get s.wg.acc (m.f.acc.val * 256 + 16 * r + c)).toNat
                   ((List.range (extK m.dims)).map fun k => ((unit m.f.tileA.val r k).mul (unit m.f.tileB.val c k)).1)).1)
       ∧ (m.kind = .mmag → m.alg.dim ≠ stepDim m.kind m.f → extM m.dims ≤ 16 → extN m.dims ≤ 16 →
           t.pod.fsr.getLsbD 0 = true
           ∧ ∀ k < stepDim m.kind m.f, ∀ r < extM m.dims, ∀ c < extN m.dims, NMap.get t.wg.acc ((m.f.acc.val + k) * 256 + 16 * r + c) = 0x7FC00000))
  ∧
  (∀ (s : State),
     (s.core.steps = [] ∨ s.since s.core.stepSince < 2 ^ 20 → Completes (.matrixReset s.core.n) s fun t => t = s)
     ∧ (s.core.steps ≠ [] → 2 ^ 20 ≤ s.since s.core.stepSince → (∀ w ∈ s.allWgs, w.core ≠ s.core.n) →
       Completes (.matrixReset s.core.n) s fun t =>
         t.core.steps = [] ∧ t.core.ka = none ∧ SameMemory s t ∧ t.pod = s.pod ∧ t.wg = s.wg
         ∧ t.skepin.log.getLast?.map (fun e => (e.code, e.ctx, e.detail)) = some (0x07, 0xFFFF, [BitVec.ofNat 32 s.core.n]))
     ∧ ∀ l j, s.core.steps ≠ [] → 2 ^ 20 ≤ s.since s.core.stepSince → s.wg.id ≠ 0 → s.wg.resident = true → s.wg.core = s.core.n → 0 < s.wg.grant.accs →
         s.curLaunch = some l → l.done = false → s.hostJobBy l.job = some j → j.ended = false → j.faulted = none → j.cancelled = false →
         s.pod.live = true → s.pod.key.wg = s.wg.id → (∀ w ∈ s.allWgs, w.core = s.core.n → w.launch = s.wg.launch) → (∀ p ∈ s.allPods, p.between = true) →
       Completes (.matrixReset s.core.n) s fun t => t.core.steps = [] ∧ t.pod = Pod.empty)

/-! ## Tiles and accumulators -/

/-- R207 to R210, R214, R215: TLD brings the elements of a box into a tile, zeros for those outside; TST leaves the tile and stores each inside element to its place; both give status 0. R214, R215: TMOV between a register and a row of a tile in the live lanes, and TZERO. -/
def Obligations.TileMoves : Prop :=
  (∀ (s : State) (d a lay : Fin 64) (t : Fin 32) (e : LayEntry),
     t.val < s.wg.grant.tiles → lay.val < s.wg.grant.lays → s.tileMoveCheck a t lay = .ok e → e.fmt.scaled = false → 8 ≤ e.fmt.bits →
     let org := s.coordsFrom a e.rank
     let ps := e.places org (fun _ => true) false
     s.placesWait e ps = false → s.boxWaits e ps = false →
     (s.checkPlaces e ps false false = none → s.boxPoison e ps = false →
       Completes (.tld d a t lay) s fun u =>
         PodWrites s u d 0 8 ∧ SameMemory s u
         ∧ (∀ x ∈ e.elems org, ∀ i < e.size, NMap.get u.wg.tile (t * 2048 + x.l * e.size + i) =
             match x.place with
             | some p => (s.boxRead e p.1 e.size).getD i 0
             | none => 0)
         ∧ (∀ y : Nat, y / 2048 ≠ t → NMap.get u.wg.tile y = NMap.get s.wg.tile y)
         ∧ { u.wg with tile := s.wg.tile, tilePoison := s.wg.tilePoison, journal := s.wg.journal } = s.wg
         ∧ { u.core with ka := s.core.ka } = s.core)
     ∧ (s.checkPlaces e ps true false = none → s.placesFit e ps = true →
       Completes (.tst d a t lay) s fun u =>
         PodWrites s u d 0 8 ∧ u.wg.tile = s.wg.tile ∧ u.wg.acc = s.wg.acc
         ∧ (e.space = 1 → SameMemory s u ∧ u.core = s.core)
         ∧ (e.space = 1 → s.wg.objects = [] → ∀ x ∈ e.elems org, ∀ p, x.place = some p →
             (∀ y ∈ e.elems org, y.l ≠ x.l → ∀ q, y.place = some q → ∀ i < e.size, ∀ j < e.size, swz e.perm (q.1 + j) ≠ swz e.perm (p.1 + i)) →
             (∀ i < e.size, ∀ j < e.size, i ≠ j → swz e.perm (p.1 + i) ≠ swz e.perm (p.1 + j)) →
             ∀ i < e.size, NMap.get u.wg.scratch (swz e.perm (p.1 + i)) = NMap.get s.wg.tile (t * 2048 + x.l * e.size + i))
         ∧ (e.space = 1 → s.wg.objects = [] → ∀ b, (∀ x ∈ e.elems org, ∀ p, x.place = some p → ∀ i < e.size, swz e.perm (p.1 + i) ≠ b) →
             NMap.get u.wg.scratch b = NMap.get s.wg.scratch b)
         ∧ (e.space = 0 → (∀ x ∈ e.elems org, ∀ p, x.place = some p → ∀ l, s.locate s.core.n s.wg.ctx p.1 = some l →
               l.tracked = true ∧ lineFar l.line = false ∧ s.ownHome l.line) →
             SameMemory s u ∧ (∀ line off, u.core.byteOf line off = s.core.byteOf line off)
             ∧ (∀ key, (∀ x ∈ e.elems org, ∀ p l, x.place = some p → s.locate s.core.n s.wg.ctx p.1 = some l → key < l.key ∨ l.key + e.size ≤ key) →
                 u.tileView key = s.tileView key)
             ∧ ∀ x ∈ e.elems org, ∀ p l, x.place = some p → s.locate s.core.n s.wg.ctx p.1 = some l →
                 (∀ y ∈ e.elems org, y.l ≠ x.l → ∀ q m, y.place = some q → s.locate s.core.n s.wg.ctx q.1 = some m → m.key + e.size ≤ l.key ∨ l.key + e.size ≤ m.key) →
                 ∀ i < e.size, u.tileView (l.key + i) = NMap.get s.wg.tile (t * 2048 + x.l * e.size + i))))
  ∧
  (∀ (s : State) (v : Fin 64) (t : Fin 32) (row : Fin 16), v.val < s.wg.grant.regs → t.val < s.wg.grant.tiles →
     let tileRest := fun (u : State) =>
       (∀ y : Nat, y / 2048 ≠ t → NMap.get u.wg.tile y = NMap.get s.wg.tile y)
       ∧ { u.wg with tile := s.wg.tile, tilePoison := s.wg.tilePoison } = s.wg ∧ { u.core with ka := s.core.ka } = s.core
       ∧ u.pod.place s.pod = s.pod ∧ u.pods = s.pods ∧ u.wgs = s.wgs ∧ SameMemory s u ∧ MovesOn s u 4
     (s.wg.tilePoison = [] → Completes (.tmovToV v t row) s fun u =>
       (∀ n j, j < 32 → NMap.get u.pod.v (n * 32 + j) =
         if n = v ∧ s.pod.liveMask.getLsbD j then BitVec.ofNat 32 (leValue (NMap.bytes s.wg.tile (t * 2048 + 128 * row + 4 * j) 4)) else NMap.get s.pod.v (n * 32 + j))
       ∧ u.pod.coat = (if s.pod.liveInV v then none else s.pod.coat)
       ∧ { u.pod.place s.pod with v := s.pod.v, coat := s.pod.coat } = s.pod ∧ { u.wg with journal := s.wg.journal } = s.wg
       ∧ u.pods = s.pods ∧ u.core = s.core ∧ SameMemory s u ∧ MovesOn s u 4)
     ∧ Completes (.tmovToTile v t row) s (fun u =>
       (∀ x < 2048, NMap.get u.wg.tile (t * 2048 + x) =
         if x / 128 = row ∧ s.pod.liveMask.getLsbD (x % 128 / 4) then wordByte ((s.pod.readV v (x % 128 / 4)).setWidth 64) (x % 4) else NMap.get s.wg.tile (t * 2048 + x))
       ∧ tileRest u)
     ∧ Completes (.tzero t) s (fun u => (∀ x < 2048, NMap.get u.wg.tile (t * 2048 + x) = 0) ∧ tileRest u))

/-- R203 to R205: ALG replaces the slot's table when every check of R204 passes, and otherwise says which fails first and keeps the table; its record lies in the window or in one line of memory. R391: under an open coat an ACLR journals the cells of each accumulator that no entry holds yet; with no room left it raises COAT_ACC with the accumulator in taddr, before anything is written. R196, R207: ILLEGAL for operands beyond the grants, and the statuses of the first checks of a move. The model's choices in it: log entries 39, 89. -/
def Obligations.AlgebraTablesAndMoveChecks : Prop :=
  (∀ (s : State) (d a : Fin 64) (g : Fin 4) (sp : Bool) (b : Nat → Byte), g.val < s.wg.grant.algs → (s.readS a).toNat % 8 = 0 →
     (if sp then (s.readS a).toNat + 72 ≤ s.wg.grant.scratch ∧ poisoned s.wg.scratchPoison (s.readS a).toNat 72 = false
         ∧ b = fun i => NMap.get s.wg.scratch ((s.readS a).toNat + i)
       else ∃ l : Loc, s.checkFlatAt s.core.n s.wg.ctx (s.readS a) 8 72 = .ok l ∧ s.readyLine l 72 ∧ s.unmarked l 72
         ∧ b = fun i => s.ownView (l.key + i)) →
     let good := ((b 0 = 1 ∨ b 0 = 2 ∨ b 0 = 4 ∨ b 0 = 8) ∧ ∀ i, 2 ≤ i → i < 8 → b i = 0)
       ∧ (∀ c < 8, (b 0).toNat ≤ c → (b 1).getLsbD c = false)
       ∧ (∀ i < 8, ∀ j < 8, ((b 0).toNat ≤ i ∨ (b 0).toNat ≤ j) → b (8 + 8 * i + j) = 0)
       ∧ (∀ i < 64, b (8 + i) = 0 ∨ (((b (8 + i)).toNat / 8 = 1 ∨ (b (8 + i)).toNat / 8 = 3) ∧ (b (8 + i)).toNat % 8 < (b 0).toNat))
     (good → Completes (.alg d a g sp) s fun t =>
       PodWrites s t d 0 4 ∧ SameMemory s t ∧ (sp = true → t.core = s.core)
       ∧ (∃ x : AlgTable, alookup g.val t.wg.alg = some x ∧ x.dim = (b 0).toNat ∧ x.conj = b 1 ∧ ∀ i < 64, NMap.get x.tab i = b (8 + i))
       ∧ (∀ m, m ≠ g.val → alookup m t.wg.alg = alookup m s.wg.alg)
       ∧ { t.wg with alg := s.wg.alg, journal := s.wg.journal } = s.wg)
     ∧ (¬ good → ∃ st : W32, st.toNat / 2 ^ 24 = 2 ∧ 0x30 ≤ st.toNat / 2 ^ 16 % 256 ∧ st.toNat / 2 ^ 16 % 256 ≤ 0x33
       ∧ Completes (.alg d a g sp) s fun t => PodScalar s t d (BitVec.ofNat 64 st.toNat) 4 ∧ SameMemory s t ∧ (sp = true → t.core = s.core)))
  ∧
  (∀ (s : State) (acc : Fin 256) (c : Fin 4), acc.val + 2 ^ c.val ≤ s.wg.grant.accs → s.accBusy acc (2 ^ c.val) = false → s.pod.coat ≠ none →
     (∀ e ∈ s.wg.journal, e.acc < acc.val ∨ acc.val + 2 ^ c.val ≤ e.acc) →
     (s.wg.journal.length + 2 ^ c.val ≤ min 16 s.wg.grant.accs → Completes (.aclr acc c) s fun t =>
       t.wg.journal = s.wg.journal ++ ((List.range (2 ^ c.val)).map fun i =>
         JEntry.mk (acc + i) ((List.range 256).map fun l => NMap.get s.wg.acc ((acc + i) * 256 + l)) s.pod.key.pod
           ((List.range 32).filter fun h => NMap.get s.wg.accPoison ((acc + i) * 32 + h) == 1))
       ∧ t.pod.coat = s.pod.coat ∧ MovesOn s t 4)
     ∧ (∀ i < 2 ^ c.val, s.wg.journal.length + i = min 16 s.wg.grant.accs → s.canTrap → s.pod.queue = [] →
       TrapsS (.aclr acc c) s 4 .coatAcc (BitVec.ofNat 64 (acc + i))))
  ∧
  (∀ (s : State) (d a b lay : Fin 64) (t : Fin 32) (acc : Fin 256), s.canTrap → s.pod.queue = [] →
     (s.wg.grant.tiles ≤ t.val → TrapsS (.tld d a t lay) s 8 .illegal 0 ∧ TrapsS (.tst d a t lay) s 8 .illegal 0 ∧ TrapsS (.tzero t) s 4 .illegal 0
       ∧ (∀ v row, TrapsS (.tmovToV v t row) s 4 .illegal 0 ∧ TrapsS (.tmovToTile v t row) s 4 .illegal 0)
       ∧ ∀ tr f sat, TrapsS (.atot b tr t f sat) s 4 .illegal 0)
     ∧ (s.wg.grant.accs ≤ acc.val → TrapsS (.ald d a acc lay) s 8 .illegal 0 ∧ TrapsS (.astore d a b acc lay) s 8 .illegal 0
       ∧ (∀ rel, TrapsS (.addst d a b acc lay rel) s 8 .illegal 0) ∧ ∀ c, TrapsS (.aclr acc c) s 4 .illegal 0)
     ∧ (t.val < s.wg.grant.tiles → acc.val < s.wg.grant.accs → lay.val < s.wg.grant.lays → s.pod.sTxn = Txn.empty →
         ∀ st : W64,
           (s.wg.entry lay = none ∧ st = 0x02400000
             ∨ ∃ e : LayEntry, s.wg.entry lay = some e ∧ (e.space = 2 ∧ st = 0x02400000
                 ∨ e.space ≠ 2 ∧ e.fmt = .ty .f32 ∧ 64 < a.val + e.rank ∧ st = 0x02420000)) →
         Completes (.tld d a t lay) s (fun u => ScalarEffect s u d st 8) ∧ Completes (.tst d a t lay) s (fun u => ScalarEffect s u d st 8)
         ∧ Completes (.ald d a acc lay) s (fun u => ScalarEffect s u d st 8) ∧ Completes (.astore d a b acc lay) s (fun u => ScalarEffect s u d st 8)
         ∧ ∀ rel, Completes (.addst d a b acc lay rel) s fun u => ScalarEffect s u d st 8))

/-- R206, R211 to R213, R215: moves of accumulators that no step is about to write, outside a coat. The model's choices in it: log entry 48. -/
def Obligations.AccumulatorMoves : Prop :=
  ∀ (s : State) (d a b lay : Fin 64) (acc : Fin 256),
    (∀ c : Fin 4, acc.val + 2 ^ c.val ≤ s.wg.grant.accs → s.accBusy acc (2 ^ c.val) = false → s.pod.coat = none →
      Completes (.aclr acc c) s fun t =>
        (∀ x, NMap.wf s.wg.acc = true → NMap.get t.wg.acc x = if acc.val * 256 ≤ x ∧ x < (acc.val + 2 ^ c.val) * 256 then 0 else NMap.get s.wg.acc x)
        ∧ t.pod.place s.pod = s.pod ∧ { t.wg with acc := s.wg.acc, accPoison := s.wg.accPoison } = s.wg ∧ t.core = s.core ∧ t.pods = s.pods ∧ SameMemory s t ∧ MovesOn s t 4)
    ∧ (∀ e ty, acc.val < s.wg.grant.accs → lay.val < s.wg.grant.lays → s.accBusy acc 1 = false → e.fmt = .ty ty →
        let org := s.coordsFrom a e.rank
        let ps := e.places org (fun _ => true) false
        s.placesWait e ps = false → s.boxWaits e ps = false →
        (s.accMoveCheck a lay none = .ok e → s.checkPlaces e ps false false = none → s.boxPoison e ps = false → s.pod.coat = none →
          Completes (.ald d a acc lay) s fun t =>
            (∀ n, t.readS n = if n = d ∧ d ≠ 0 then 0 else s.readS n) ∧ MovesOn s t 8 ∧ SameMemory s t ∧ t.core = s.core ∧ t.pods = s.pods
            ∧ (∀ x ∈ e.elems org, NMap.get t.wg.acc (acc * 256 + x.l) =
                match x.place with
                | some p => if ty = .f32 then BitVec.ofNat 32 (leValue (s.boxRead e p.1 4))
                    else BitVec.ofNat 32 (fmtF32.deliver .rn false ((binFmt ty).value (leValue (s.boxRead e p.1 2)))).1
                | none => 0)
            ∧ (∀ y : Nat, (y < acc * 256 ∨ (acc + 1) * 256 ≤ y) → NMap.get t.wg.acc y = NMap.get s.wg.acc y)
            ∧ { t.wg with acc := s.wg.acc, accPoison := s.wg.accPoison } = s.wg)
        ∧ (s.accMoveCheck a lay (some (s.readS b)) = .ok e → s.checkPlaces e ps true false = none → s.placesFit e ps = true →
          Completes (.astore d a b acc lay) s fun t =>
            (∀ n, t.readS n = if n = d ∧ d ≠ 0 then 0 else s.readS n) ∧ MovesOn s t 8 ∧ t.wg.acc = s.wg.acc ∧ t.pods = s.pods
            ∧ (e.space = 1 → SameMemory s t ∧ t.core = s.core)
            ∧ (e.space = 1 → s.wg.objects = [] → ∀ y, (∀ x ∈ e.elems org, ∀ p, x.place = some p → ∀ i < e.size, swz e.perm (p.1 + i) ≠ y) →
                NMap.get t.wg.scratch y = NMap.get s.wg.scratch y)
            ∧ (e.space = 1 → s.wg.objects = [] → ∀ x ∈ e.elems org, ∀ p, x.place = some p → x.l / 16 < (s.readS b).toNat % 32 → x.l % 16 < (s.readS b).toNat / 2 ^ 8 % 32 →
                (∀ y ∈ e.elems org, y.l ≠ x.l → ∀ q, y.place = some q → ∀ i < e.size, ∀ j < e.size, swz e.perm (q.1 + j) ≠ swz e.perm (p.1 + i)) →
                (∀ i < e.size, ∀ j < e.size, i ≠ j → swz e.perm (p.1 + i) ≠ swz e.perm (p.1 + j)) →
                let cell := (NMap.get s.wg.acc (acc * 256 + x.l)).toNat
                leValue ((List.range e.size).map fun i => NMap.get t.wg.scratch (swz e.perm (p.1 + i)))
                  = if ty = .f32 then cell else ((binFmt ty).deliver .rn false (fmtF32.value cell)).1 % 2 ^ 16)
            ∧ (e.space = 0 → (∀ x ∈ e.elems org, ∀ p, x.place = some p → ∀ l, s.locate s.core.n s.wg.ctx p.1 = some l →
                  l.tracked = true ∧ lineFar l.line = false ∧ s.ownHome l.line) →
                SameMemory s t ∧ (∀ line off, t.core.byteOf line off = s.core.byteOf line off)
                ∧ (∀ key, (∀ x ∈ e.elems org, ∀ p l, x.place = some p → s.locate s.core.n s.wg.ctx p.1 = some l → key < l.key ∨ l.key + e.size ≤ key) →
                    t.tileView key = s.tileView key)
                ∧ (∀ x ∈ e.elems org, ∀ p l, x.place = some p → s.locate s.core.n s.wg.ctx p.1 = some l → x.l / 16 < (s.readS b).toNat % 32 → x.l % 16 < (s.readS b).toNat / 2 ^ 8 % 32 →
                      (∀ y ∈ e.elems org, y.l ≠ x.l → ∀ q m, y.place = some q → s.locate s.core.n s.wg.ctx q.1 = some m → m.key + e.size ≤ l.key ∨ l.key + e.size ≤ m.key) →
                      let cell := (NMap.get s.wg.acc (acc * 256 + x.l)).toNat
                      leValue ((List.range e.size).map fun i => t.tileView (l.key + i)) = if ty = .f32 then cell else ((binFmt ty).deliver .rn false (fmtF32.value cell)).1 % 2 ^ 16))))
    ∧ (∀ (tr sat : Bool) (t : Fin 32) (f : Fin 4), 4 * b.val + (if f.val < 2 then 4 else 8) ≤ s.wg.grant.accs → t.val < s.wg.grant.tiles →
        s.accBusy (4 * b) (if f.val < 2 then 4 else 8) = false →
        let n := if f.val < 2 then 4 else 8
        let ty : LType := if f.val = 0 then .f16 else if f.val = 1 then .bf16 else if f.val = 2 then .e4m3 else .e5m2
        Completes (.atot b tr t f sat) s fun u =>
          MovesOn s u 4 ∧ SameMemory s u ∧ u.wg.acc = s.wg.acc ∧ u.pods = s.pods ∧ u.pod.s = s.pod.s ∧ u.pod.v = s.pod.v
          ∧ (∀ y : Nat, y / 2048 ≠ t → NMap.get u.wg.tile y = NMap.get s.wg.tile y)
          ∧ ∀ i < 16, ∀ j < 16, ∀ k < n,
              -- the cell (i, j) of accumulator 4b + k: row i of the tile without .t, column i of K index 16k + j transposed with it
              let unit := if tr then 16 * n * j + 16 * k + i else 16 * n * i + 16 * k + j
              leValue (NMap.bytes u.wg.tile (t * 2048 + unit * (ty.bits / 8)) (ty.bits / 8))
                = ((binFmt ty).deliver .rn sat (fmtF32.value (NMap.get s.wg.acc ((4 * b + k) * 256 + 16 * i + j)).toNat)).1 % 2 ^ ty.bits)

/-! ## Barriers, tickets, pipes, seeds -/

/-- R250 to R252: what BINIT, BARR, BARRX, BWAIT and BTEST do to a barrier object at an aligned offset inside the window, with the completion rule, the old phase in s_b, and BAR_MISUSE where the object is misused; every other byte of the window and all else stand. R248: WGSYNC of the only pod left completes and closes the coat; of a pod whose others have not all arrived it marks the arrival and waits; of the last pod to arrive it completes, clears the marks, and completes the others' words with it. R375: FESET fills and FECLR empties the granules from s_a on, s_b bytes of them, and leaves the others; both check their operands. The model's choices in it: log entry 13. -/
def Obligations.BarriersAndFullEmptyBits : Prop :=
  (∀ (s : State) (d a b : Fin 64) (e : Nat) (o : Bar), (s.readS a).toNat = e → e % 16 = 0 → e + 16 ≤ s.wg.grant.scratch → s.wg.bar e = o →
     let left := fun (t : State) =>
       (∀ x, (x < e ∨ e + 16 ≤ x) → NMap.get t.wg.scratch x = NMap.get s.wg.scratch x)
       ∧ { t.wg with scratch := s.wg.scratch, scratchPoison := s.wg.scratchPoison, objects := s.wg.objects, journal := s.wg.journal } = s.wg
       ∧ t.core = s.core ∧ SameMemory s t
     let arrived := fun (x : Nat) (o' : Bar) =>
       if o.arrivals + 1 = o.expected ∧ o.expBytes + x ≤ o.arrBytes then o' = ⟨o.phase + 1, o.expected, 0, 0, o.arrBytes - (o.expBytes + x)⟩
       else o' = ⟨o.phase, o.expected, o.arrivals + 1, o.expBytes + x, o.arrBytes⟩
     let n := (s.readS b).toNat
     let p := n % 2 ^ 32
     let reached := decide ((o.phase.toNat + 2 ^ 33 - p - 1) % 2 ^ 32 < 2 ^ 31)
     (1 ≤ n → n ≤ 65535 → o.arrivals = 0 → Completes (.binit d a b) s fun t => PodCommits s t d 0 4 ∧ t.wg.bar e = ⟨0, n, 0, 0, 0⟩ ∧ left t)
     ∧ (n = 0 ∨ 65535 < n → Completes (.binit d a b) s fun t => ScalarEffect s t d 0x02700000 4)
     ∧ (s.pod.queue = [] → o.arrivals < o.expected →
       Completes (.barr a b) s fun t => PodCommits s t b (BitVec.ofNat 64 o.phase.toNat) 4 ∧ arrived 0 (t.wg.bar e) ∧ left t)
     ∧ (s.pod.queue = [] → o.arrivals < o.expected → o.expBytes + n < 2 ^ 32 →
       Completes (.barrx a b) s fun t => PodCommits s t b (BitVec.ofNat 64 o.phase.toNat) 4 ∧ arrived n (t.wg.bar e) ∧ left t)
     ∧ (o.expected ≠ 0 → o.complete = o →
       (reached = true → s.pod.sTxn.phase ≠ 9 → Completes (.bwait a b) s fun t => PodMoves s { t with wg := s.wg } 4 ∧ t.wg.bar e = o ∧ left t)
       ∧ (s.pod.sTxn.phase = 9 → Completes (.bwait a b) s fun t => PodMoves s t 4 ∧ t.core = s.core ∧ SameMemory s t)
       ∧ (reached = false → s.pod.sTxn.phase ≠ 9 → s.pod.stopReq = false → Completes (.bwait a b) s fun t => t.pod.held = .cond ∧ t.pod.pc = s.pod.pc ∧ t.pod.s = s.pod.s ∧ t.wg.bar e = o ∧ left t)
       ∧ Completes (.btest d a b false) s (fun t => PodWrites s t d (if reached then 1 else 0) 4 ∧ t.wg.bar e = o ∧ left t)
       ∧ Completes (.btest d a b true) s (fun t => PodWrites s t d (if o.phase.toNat % 2 ≠ n % 2 then 1 else 0) 4 ∧ t.wg.bar e = o ∧ left t))
     ∧ (s.canTrap → s.pod.queue = [] →
       (1 ≤ n → n ≤ 65535 → o.arrivals ≠ 0 → TrapsS (.binit d a b) s 4 .barMisuse (s.readS a))
       ∧ (o.expected = 0 ∨ o.expected ≤ o.arrivals → TrapsS (.barr a b) s 4 .barMisuse (s.readS a) ∧ TrapsS (.barrx a b) s 4 .barMisuse (s.readS a))
       ∧ (2 ^ 32 ≤ o.expBytes + n → TrapsS (.barrx a b) s 4 .barMisuse (s.readS a))
       ∧ (o.expected = 0 → s.pod.sTxn.phase ≠ 9 → TrapsS (.bwait a b) s 4 .barMisuse (s.readS a) ∧ ∀ par, TrapsS (.btest d a b par) s 4 .barMisuse (s.readS a))))
  ∧
  (∀ (s : State), s.pod.queue = [] → s.pod.sTxn = Txn.empty → s.wg.id ≠ 0 → s.pod.key.wg = s.wg.id → s.pod.live = true → s.pod.exited = false →
     (s.pod.stopped = false → (∀ p ∈ s.pods, p.key.wg = s.wg.id → p.exited = false → p.key.pod ∈ s.wg.arrived ∧ p.stopped = false) → Completes .wgsync s fun t =>
       t.pod.pc = s.pod.pc + 4 ∧ t.pod.held = .none ∧ t.pod.coat = none ∧ t.wg.arrived = [] ∧ t.pod.s = s.pod.s ∧ SameMemory s t
       ∧ t.pods = s.pods.map fun p => if p.key.wg = s.wg.id ∧ (p.key.pod ∈ s.wg.arrived ∨ p.key.pod = s.pod.key.pod)
           then { p with coat := none, pc := p.pc + 4, held := .none, sTxn := Txn.empty } else p)
     ∧ ((∃ p ∈ s.pods, p.key.wg = s.wg.id ∧ p.exited = false ∧ p.key.pod ∉ s.wg.arrived ∧ p.key.pod ≠ s.pod.key.pod) → Completes .wgsync s fun t =>
       t.pod.pc = s.pod.pc ∧ t.pod.held = .cond ∧ s.pod.key.pod ∈ t.wg.arrived ∧ t.pod.s = s.pod.s ∧ t.pods = s.pods ∧ SameMemory s t))
  ∧
  (∀ (s : State) (a b : Fin 64) (v : BitVec 1) (i : Instr), (i = .feset a b ∧ v = 1 ∨ i = .feclr a b ∧ v = 0) →
     ((s.readS a).toNat % 16 = 0 → (s.readS b).toNat % 16 = 0 → ((s.readS b).toNat = 0 ∨ (s.readS a).toNat + (s.readS b).toNat ≤ s.wg.grant.scratch) →
       Completes i s fun t =>
         (∀ g, NMap.get t.wg.fe g = if (s.readS a).toNat / 16 ≤ g ∧ g < (s.readS a).toNat / 16 + (s.readS b).toNat / 16 then v else NMap.get s.wg.fe g)
         ∧ { t.wg with fe := s.wg.fe } = s.wg ∧ t.pod.place s.pod = s.pod ∧ MovesOn s t 4 ∧ t.core = s.core ∧ t.pods = s.pods ∧ SameMemory s t)
     ∧ (s.canTrap → s.pod.queue = [] → ((s.readS a).toNat % 16 ≠ 0 ∨ (s.readS b).toNat % 16 ≠ 0) → TrapsS i s 4 .misalign (s.readS a)))

/-- R255 to R257, R324: ticket words at a dispenser that this device holds, with no operation in progress there. TKTAKE takes the next ticket; TKWAIT for a ticket already served moves on, for a later one it waits as a sleeper; TKSERVE serves the next ticket and tells the sleepers, or raises BAR_MISUSE when none is out. R256, R257: a ticket operation that comes to an idle home gives its answer to its pod; a serving value releases the sleeper that it satisfies, and no other. -/
def Obligations.Tickets : Prop :=
  (∀ (s : State) (a b : Fin 64) (sys : Bool) (l : Loc) (h : HomeLine),
     s.homeOf l.line = some h → h.op = .idle → h.dir = .home → h.waiting = [] → h.clusters = [] → h.dies = [] → h.guests = [] → h.farSleepers = [] →
     h.die = l.die → h.cmp = leafCmp l.leaf → s.windowOpen s.core.n l.line = true → s.pubs = [] → s.pod.stopReq = false →
     lineFar l.line = false → l.tracked = true → l.key % 16 = 0 → s.pod.sTxn = Txn.empty → s.proxies = [] → s.core.l1 = [] → s.core.stash = [] → s.core.shelf = [] →
     let next := BitVec.ofNat 64 (leValue (NMap.bytes s.mem l.key 8))
     let serving := BitVec.ofNat 64 (leValue (NMap.bytes s.mem (l.key + 8) 8))
     (s.checkFlat s.core.n s.wg.ctx (s.readS a) 16 true = .ok l → Completes (.tktake a b sys) s fun t =>
       PodCommits s t b next 4 ∧ SameMemoryBut l.key 8 s t ∧ NMap.bytes t.mem l.key 8 = toBytes (next + 1) 8)
     ∧ (s.checkFlat s.core.n s.wg.ctx (s.readS a) 16 false = .ok l →
       (0 ≤ (serving - s.readS b).toInt → Completes (.tkwait a b sys) s fun t => PodMoves s t 4 ∧ SameMemory s t ∧ t.core.kcache = [])
       ∧ ((serving - s.readS b).toInt < 0 → Completes (.tkwait a b sys) s fun t =>
           t.pod.held = .cond ∧ t.pod.pc = s.pod.pc ∧ t.pod.s = s.pod.s ∧ SameMemory s t ∧ ∃ h' : HomeLine, t.homeOf l.line = some h' ∧ (s.pod.key, l.key, s.readS b) ∈ h'.sleepers))
     ∧ (s.checkFlat s.core.n s.wg.ctx (s.readS a) 16 true = .ok l → s.pod.daubOut = 0 → s.farAcked s.core.n = true →
       (serving ≠ next → Completes (.tkserve a sys) s fun t =>
         MovesOn s t 4 ∧ t.pod.coat = none ∧ t.pod.s = s.pod.s ∧ SameMemoryBut (l.key + 8) 8 s t ∧ NMap.bytes t.mem (l.key + 8) 8 = toBytes (serving + 1) 8
         ∧ ∀ e ∈ h.sleepers, e.2.1 = l.key → Msg.ticketServingValue e.1 l.key (serving + 1) ∈ t.inflight)
       ∧ (serving = next → s.canTrap → s.pod.queue = [] → Completes (.tkserve a sys) s fun t =>
         t.pod.tcause = 0x30 ∧ t.pod.taddr = s.readS a ∧ t.pod.inHandler = true ∧ SameMemory s t)))
  ∧
  ((∀ (s : State) (r : TicketReq) (h : HomeLine), r.kind = .take → r.pod = s.pod.key → s.pod.live = true → r.core = s.core.n →
     s.homeOf (r.key / 128) = some h → h.op = .idle → h.dir = .home → h.waiting = [] → h.clusters = [] → h.dies = [] → h.guests = [] → lineFar (r.key / 128) = false →
     r.key % 16 = 0 → s.pubs = [] → s.proxies = [] → s.core.l1 = [] → s.core.stash = [] → s.core.shelf = [] → s.pod.sTxn.replies = [] →
     let next := BitVec.ofNat 64 (leValue (NMap.bytes s.mem r.key 8))
     Completes (.ticketOperation r) s fun t =>
       t.pod.sTxn.replies = [(0, next)] ∧ t.pod.coat = none ∧ { t.pod with sTxn := s.pod.sTxn, coat := s.pod.coat } = s.pod ∧ NMap.bytes t.mem r.key 8 = toBytes (next + 1) 8 ∧ SameMemoryBut r.key 8 s t)
   ∧ ∀ (s : State) (key : Nat) (value ticket : W64) (h : HomeLine), s.pod.live = true → s.pod.sTxn.phase = 7 → s.pod.sTxn.key = key → s.pod.sTxn.start = ticket → s.homeOf (key / 128) = some h →
       h.sleepers = [(s.pod.key, key, ticket)] →
     (0 ≤ (value - ticket).toInt → Completes (.ticketServingValue s.pod.key key value) s fun t =>
       t.pod.sTxn = { s.pod.sTxn with last := 1 } ∧ (∃ h' : HomeLine, t.homeOf (key / 128) = some h' ∧ h'.sleepers = []) ∧ t.mem = s.mem ∧ { t.pod with sTxn := s.pod.sTxn } = s.pod)
     ∧ ((value - ticket).toInt < 0 → Completes (.ticketServingValue s.pod.key key value) s fun t => t = s))

/-- R259 to R265: pipe words of a pod of a stage, through a tile operand that fits, at a pipe with no bridge and with nobody waiting: a push appends the tile, a pop takes the oldest; a full or an empty pipe holds the word; a closed and empty pipe answers CLOSED; PCLOSE closes; PSTAT and PYIELD report; the wrong stage traps. The home lets the oldest waiter go on. The model's choices in it: log entry 24. -/
def Obligations.PipeWords : Prop :=
  (∀ (s : State) (d : Fin 64) (p : Fin 16) (n : Fin 32) (l : Pipeline) (st : Nat) (pp : Pipe),
    s.Calm → s.curStage = some (l, st) → l.pipes[p.val]? = some pp → pp.bridge = none → n.val + (pp.slotSize + 2047) / 2048 ≤ s.wg.grant.tiles → n.val < s.wg.grant.tiles →
    (pp.producer = st → pp.closed = false → pp.pushers = [] →
      (pp.slots.length < pp.depth → Completes (.ppush d p (.tile n)) s fun t =>
        (∃ marks, s.pipeAt l.id p = some pp ∧ t.pipeAt l.id p = some { pp with slots := pp.slots ++ [⟨NMap.bytes s.wg.tile (n * 2048) pp.slotSize, marks⟩] })
        ∧ Gives s t d 0 8 ∧ StandsBut s t)
      ∧ (pp.depth ≤ pp.slots.length → Completes (.ppush d p (.tile n)) s fun t =>
        t.pipeAt l.id p = some { pp with pushers := [s.pod.key] } ∧ Holds s t (.pushFull p) ∧ t.wg = s.wg ∧ t.core = s.core ∧ t.mem = s.mem))
    ∧ (pp.consumer = st → pp.poppers = [] → pp.spilled = 0 →
      (∀ b r, pp.slots = b :: r → Completes (.ppop d p (.tile n)) s fun t =>
        t.pipeAt l.id p = some { pp with slots := r }
        ∧ (∀ i < b.data.length, NMap.get t.wg.tile (n * 2048 + i) = b.data.getD i 0)
        ∧ (∀ x : Nat, (x < n * 2048 ∨ n * 2048 + b.data.length ≤ x) → NMap.get t.wg.tile x = NMap.get s.wg.tile x)
        ∧ Gives s t d 0 8 ∧ { t.wg with tile := s.wg.tile, tilePoison := s.wg.tilePoison } = s.wg ∧ t.pods = s.pods ∧ t.mem = s.mem)
      ∧ (pp.slots = [] → pp.closed = true → Completes (.ppop d p (.tile n)) s fun t =>
        Gives s t d (BitVec.ofNat 64 (0x05000000 + p.val)) 8 ∧ StandsBut s t ∧ t.pipeAt l.id p = some pp)
      ∧ (pp.slots = [] → pp.closed = false → Completes (.ppop d p (.tile n)) s fun t =>
        t.pipeAt l.id p = some { pp with poppers := [s.pod.key] } ∧ Holds s t (.popEmpty p) ∧ t.wg = s.wg ∧ t.core = s.core ∧ t.mem = s.mem))
    ∧ (pp.producer = st → Completes (.pclose p) s fun t =>
        t.pipeAt l.id p = some { pp with closed := true } ∧ StandsBut s t ∧ MovesOn s t 4 ∧ t.pod.s = s.pod.s
        ∧ t.turns = s.turns ++ (pp.pushers ++ pp.poppers).map fun k => (k, Stream.s))
    ∧ Completes (.pstat d p) s (fun t => ScalarEffect s t d
        ((BitVec.ofNat 32 ((if pp.closed then 2 ^ 23 else 0) + (if 0 < pp.spilled then 2 ^ 22 else 0) + pp.slots.length)).setWidth 64) 4)
    ∧ (s.canTrap →
        (pp.producer = st → pp.closed = true → TrapsS (.ppush d p (.tile n)) s 8 .pipeType (BitVec.ofNat 64 p))
        ∧ (pp.producer ≠ st → TrapsS (.ppush d p (.tile n)) s 8 .pipeType (BitVec.ofNat 64 p) ∧ TrapsS (.pclose p) s 4 .pipeType (BitVec.ofNat 64 p))
        ∧ (pp.consumer ≠ st → TrapsS (.ppop d p (.tile n)) s 8 .pipeType (BitVec.ofNat 64 p))))
  ∧ (∀ (s : State) (d : Fin 64) (p : Fin 16) (n : Fin 32), s.canTrap → s.pod.queue = [] → s.curStage = none → n.val < s.wg.grant.tiles →
      TrapsS (.ppush d p (.tile n)) s 8 .pipeType (BitVec.ofNat 64 p) ∧ TrapsS (.ppop d p (.tile n)) s 8 .pipeType (BitVec.ofNat 64 p)
      ∧ TrapsS (.pclose p) s 4 .pipeType (BitVec.ofNat 64 p) ∧ TrapsS (.pstat d p) s 4 .pipeType (BitVec.ofNat 64 p))
  ∧ (∀ (s : State) (d : Fin 64),
      ((∀ l st, s.curStage = some (l, st) → l.state = .running → ∀ b, l.move ≠ some (st, b, s.core.n)) → Completes (.pyield d) s fun t => ScalarEffect s t d 0 4)
      ∧ ((∃ l st b, s.curStage = some (l, st) ∧ l.state = .running ∧ l.move = some (st, b, s.core.n)) → Completes (.pyield d) s fun t =>
          PodWrites s t d 1 4 ∧ t.wg.yielded = true))
  ∧ ∀ (s : State) (pl i : Nat) (q : Pipe) (k : PodKey) (r : List PodKey), s.pipeAt pl i = some q →
      (q.pushers = k :: r → q.slots.length < q.depth ∨ q.closed = true → Completes (.pipePushAccept pl i) s fun t => t = { s with turns := s.turns ++ [(k, .s)] })
      ∧ ((∀ b, q.bridge = some b → b.side = .inn) → q.poppers = k :: r → 0 < q.slots.length ∨ 0 < q.spilled ∨ q.closed = true → Completes (.pipePopAccept pl i) s fun t => t = { s with turns := s.turns ++ [(k, .s)] })

/-- R241, R242, R266: SEED puts one record of each named lane into the gatherer of its die, in lane order, and answers their number; a lane with a bad entry number is reported and nothing enters; a bin whose oldest record is 5,400 cycles old gives a seed pod of its oldest records. R222, R267: CANCEL ends the launch, the pipeline or the job of its pod; the pod stops at the word, and is gone with its workgroup once no other pod of the unit is inside a word; a pod of no pipeline that cancels its pipeline is told so. -/
def Obligations.SeedsAndCancel : Prop :=
  ((∀ (s : State) (d x : Fin 64) (c : Fin 16),
     let ls := (List.range 32).filter fun j => (s.readK c &&& s.pod.liveMask).getLsbD j
     let word := fun (w j : Nat) => NMap.get s.pod.v ((x.val + w) * 32 + j)
     let good := fun (j : Nat) => (word 0 j).toNat < 16 ∧ s.desc.seedmask.getLsbD (word 0 j).toNat = true
     (x.val + 16 ≤ s.wg.grant.regs → s.pod.coat = none → (∀ j ∈ ls, good j) → s.seeds.length + ls.length < 32 →
       Completes (.seed d x c) s fun t =>
         t.seeds = s.seeds ++ ls.map (fun j => ⟨dieOf s.core.n, s.wg.launch, (word 0 j).toNat, (List.range 16).map fun w => word w j, s.cycle⟩)
         ∧ Gives s t d (BitVec.ofNat 64 ls.length) 4 ∧ StandsBut s t)
     ∧ (x.val + 16 ≤ s.wg.grant.regs → ∀ j ∈ ls, ¬ good j → (∀ i ∈ ls, i < j → good i) →
       Completes (.seed d x c) s fun t => ScalarEffect s t d (BitVec.ofNat 64 (0x02710000 + j)) 4)
     ∧ (s.wg.grant.regs < x.val + 16 → s.canTrap → s.pod.queue = [] → TrapsS (.seed d x c) s 4 .illegal 0))
   ∧ ∀ (s : State) (die launch entry : Nat) (l : Launch) (r : SeedRec) (rest : List SeedRec),
     let mine := fun (r : SeedRec) => r.die == die && r.launch == launch && r.entry == entry
     s.launchBy launch = some l → s.seeds.filter mine = r :: rest →
     (5400 ≤ (s.cycle - r.arrived).toNat → Completes (.seedBinTimeout die launch entry) s fun t =>
       t.seedPods = s.seedPods ++ [⟨die, launch, entry, (alookup die l.seedSerial).getD 0, ((r :: rest).take 32).map (·.words)⟩]
       ∧ t.seeds.filter mine = (r :: rest).drop 32 ∧ (t.seeds.filter fun r => !mine r) = s.seeds.filter (fun r => !mine r)
       ∧ Msg.placementDecision ∈ t.inflight ∧ t.pod = s.pod ∧ t.wg = s.wg ∧ t.core = s.core ∧ t.mem = s.mem)
     ∧ ((s.cycle - r.arrived).toNat < 5400 → Completes (.seedBinTimeout die launch entry) s fun t => t = s))
  ∧
  (∀ (s : State) (d : Fin 64) (lv : Level) (l : Launch) (j : HostJob),
     s.pod.live = true → s.pod.key.wg = s.wg.id → s.wg.id ≠ 0 → s.curLaunch = some l → l.done = false → s.hostJobBy l.job = some j → j.ended = false → j.faulted = none →
     (lv = .pipe → l.pipeline = none → Completes (.cancel d lv) s fun t => ScalarEffect s t d 0x02720000 4)
     ∧ (lv ≠ .pipe ∨ l.pipeline ≠ none → Completes (.cancel d lv) s fun t => t.pod = Pod.empty ∨ t.pod.dead = true)
     ∧ (s.pods = [] → (lv = .launch ∧ l.pipeline = none ∧ l.ending = false ∨ lv = .job ∧ j.cancelled = false
           ∨ ∃ q st, lv ≠ .job ∧ l.pipeline = some (q.id, st) ∧ s.plBy q.id = some q ∧ q.state ≠ .done ∧ q.ending = false ∧ ∃ g ∈ q.stages, g.launch = l.id) →
         Completes (.cancel d lv) s fun t =>
           t.pod = Pod.empty ∧ (∀ w ∈ t.wgs, w.id ≠ s.wg.id) ∧ (lv = .job → ∃ k : HostJob, t.hostJobBy l.job = some k ∧ k.cancelled = true)
           ∧ (lv = .launch → l.pipeline = none → (∃ l' : Launch, t.launchBy l.id = some l' ∧ l'.done = true)
               ∧ (s.endings = [] → l.record = 0 → j.isOpen = true → l.gx * l.gy * l.gz ≤ l.next → t.mem = s.mem))))

/-! ## The engine and the cache walker -/

/-- R356 to R362: a TCOPY or TCOPYM of the only pod of its workgroup forms one job from its card and enters it in the queue; a bad card gives the status of its first failing check; a word of one pod of several waits for the others in the pod's list; a third word holds. R370: RFLUSH, RINVAL and RDISC submit a job of the cache walker over the bytes that s_a and the register after it name; an empty range completes at once, and one that leaves the address space is refused. The model's choices in it: log entries 71, 76. -/
def Obligations.CopyAndCacheWords : Prop :=
  (∀ (s : State) (card : List Byte), s.Calm →
     (∀ f : TcopyFields, s.cardIs f.sp f.a card → (f.bar = true → (s.readS f.b).toNat % 16 = 0 ∧ (s.readS f.b).toNat + 16 ≤ s.wg.grant.scratch) →
       (s.aloneCopying → cardCheck s.wg (cardRegions card) = none → Completes (.tcopy f) s fun t =>
         ∃ j : Job, Submits s t f.d 8 j ∧ j.kind = .copy ∧ j.regions = cardRegions card ∧ j.lays = s.wg.lay ∧ j.scope = f.scope ∧ j.bytesArr = f.bytes
           ∧ j.bar = if f.bar then some (s.readS f.b).toNat else none)
       ∧ (∀ c why i, s.aloneCopying → cardCheck s.wg (cardRegions card) = some (c, why, i) → Completes (.tcopy f) s fun t =>
         Gives s t f.d ((BitVec.ofNat 32 (c * 2 ^ 24 + why * 2 ^ 16 + i)).setWidth 64) 8 ∧ t.core.jobs = s.core.jobs ∧ t.wg = s.wg ∧ t.pods = s.pods ∧ SameMemory s t)
       ∧ (s.pod.tcopies.length < 2 → (∃ p ∈ s.pods, p.key.wg = s.wg.id ∧ p.key.pod < s.wg.grant.pods ∧ p.key ≠ s.pod.key ∧ s.podBy p.key = some p ∧ p.leaves = false ∧ p.tcopies = []) →
           Completes (.tcopy f) s fun t =>
             (∃ x : TcopyWord, t.pod.tcopies = s.pod.tcopies ++ [x] ∧ x.m = false ∧ x.c = f ∧ x.card = card) ∧ t.core.jobs = s.core.jobs ∧ MovesOn s t 8 ∧ t.pod.s = s.pod.s
             ∧ t.pods = s.pods ∧ t.wg = s.wg ∧ SameMemory s t)
       ∧ (2 ≤ s.pod.tcopies.length → Completes (.tcopy f) s fun t => Holds s t .cond ∧ t.wg = s.wg ∧ t.core = s.core ∧ t.mem = s.mem))
     ∧ ∀ f : TcopymFields, s.cardIs f.sp f.a card →
         (f.tileA.val + (if f.fmtA.scaled then 1 else 0) < s.wg.grant.tiles ∧ f.tileB.val + (if f.fmtB.scaled then 1 else 0) < s.wg.grant.tiles ∧ f.acc.val < s.wg.grant.accs) →
         (s.aloneCopying → cardCheck s.wg (cardRegions card) = none → extOk (mmaKmax f.fmtA f.fmtB) (s.readS f.e) = true → Completes (.tcopym f) s fun t =>
           ∃ j : Job, Submits s t f.d 8 j ∧ j.kind = .copym ∧ j.regions = cardRegions card ∧ j.lays = s.wg.lay ∧ j.scope = .wg ∧ j.step = f ∧ j.dims = s.readS f.e ∧ j.bar = none)
         ∧ (s.aloneCopying → cardCheck s.wg (cardRegions card) = none → extOk (mmaKmax f.fmtA f.fmtB) (s.readS f.e) = false → Completes (.tcopym f) s fun t =>
           Gives s t f.d 0x02200000 8 ∧ t.core.jobs = s.core.jobs ∧ t.wg = s.wg ∧ t.pods = s.pods ∧ SameMemory s t))
  ∧
  (∀ (s : State) (d a b : Fin 64) (bar : Bool) (i : Instr) (kind : JobKind) (sc : Scope),
     (i = .rflush d a b bar ∧ kind = .flush ∧ sc = .dev ∨ i = .rinval d a b bar ∧ kind = .inval ∧ sc = .wg ∨ i = .rdisc d a b bar ∧ kind = .disc ∧ sc = .dev) →
     s.Calm → s.pod.pending = [] → (bar = true → (s.readS b).toNat % 16 = 0 ∧ (s.readS b).toNat + 16 ≤ s.wg.grant.scratch) →
     let lo := (s.readS a).toNat
     let len := (s.readS (a.val + 1)).toNat
     (len ≠ 0 → lo + len ≤ 2 ^ 54 → s.core.jobs.length < 32 → Completes i s fun t =>
       ∃ j : Job, Submits s t d 4 j ∧ j.kind = kind ∧ j.scope = sc ∧ j.lo = lo ∧ j.len = len ∧ j.bar = if bar then some (s.readS b).toNat else none)
     ∧ (2 ^ 54 < lo + len → Completes i s fun t => ScalarEffect s.closeCoat t d 0x02900000 4)
     ∧ (len = 0 → lo ≤ 2 ^ 54 → bar = false → Completes i s fun t => Gives s t d 0 4 ∧ t.core = s.core ∧ t.wg = s.wg ∧ t.pods = s.pods ∧ t.mem = s.mem))

/-- R353, R354, R363, R366: a job that no job ahead of it holds back starts, a copy when its unit takes it; its landings wait for one of 16 slots in the order of their requests; its status lands in its pod's register, with its flags in fsr, once all that it wrote has been performed, and the job leaves the queue. -/
def Obligations.EngineQueue : Prop :=
  ∀ (s : State) (core job : Nat) (j : Job), s.jobOf core job = some j →
    let others := fun (t : State) => t.pod = s.pod ∧ t.pods = s.pods ∧ t.wg = s.wg ∧ t.mem = s.mem
    let becomes := fun (t : State) (k : Job) (m : Msg) => t.jobOf core job = some k ∧ t.inflight = s.inflight ++ [m]
    (j.started = false → (∀ x ∈ (s.coreBy core).jobs.takeWhile (fun x => x.id != job), s.edge x j = false) →
      (j.kind = .flush ∨ j.kind = .inval ∨ j.kind = .disc → Completes (.jobStart core job) s fun t =>
        becomes t { j with started := true } (.memoryWrite core job) ∧ others t)
      ∧ (j.kind = .copy ∨ j.kind = .copym → j.current ≠ none → s.unitFree (unitOf core j.serial) = true →
        (j.toMem = true → Completes (.jobStart core job) s fun t => becomes t { j with started := true } (.memoryWrite core job) ∧ others t)
        ∧ (j.toMem = false → Completes (.jobStart core job) s fun t =>
            becomes t { j with started := true, asked := true } (.landingSlotGrant core ((s.coreBy core).slotQueue.headD job))
            ∧ (t.coreBy core).slotQueue = (s.coreBy core).slotQueue ++ [job] ∧ others t))
      ∧ (j.kind = .copy ∨ j.kind = .copym → s.unitFree (unitOf core j.serial) = false → Completes (.jobStart core job) s fun t => t = s))
    ∧ (j.started = false → (∃ x ∈ (s.coreBy core).jobs.takeWhile (fun x => x.id != job), s.edge x j = true) → Completes (.jobStart core job) s fun t => t = s)
    ∧ (∀ r, (s.coreBy core).slotQueue = job :: r → ((s.coreBy core).jobs.map (·.slots)).sum < 16 → Completes (.landingSlotGrant core job) s fun t =>
        t.jobOf core job = some { j with slots := 1, asked := false } ∧ (t.coreBy core).slotQueue = r
        ∧ t.inflight = s.inflight ++ Msg.landing core job :: (r.take 1).map (Msg.landingSlotGrant core) ∧ others t)
    ∧ ((s.coreBy core).slotQueue.head? ≠ some job ∨ 16 ≤ ((s.coreBy core).jobs.map (·.slots)).sum → Completes (.landingSlotGrant core job) s fun t => t = s)
    ∧ (s.jobWritten core j = false → Completes (.jobStatusLand core job) s fun t => becomes t j (.jobStatusLand core job) ∧ others t)
    ∧ (∀ r acq, r < 64 → s.jobWritten core j = true → j.bar = none → s.pod.live = true → s.pod.pending = [⟨r, job, acq, false⟩] → (s.pod.key, r) ∈ j.regs →
      (∀ p ∈ s.pods, ∀ x ∈ j.regs, x.1 ≠ p.key) →
      (j.fault = none ∨ ∃ c i, j.fault = some (c, i) ∧ c ≠ .poison) → Completes (.jobStatusLand core job) s fun t =>
        t.pod.s = NMap.set s.pod.s r (match j.fault with
          | none => j.flags.setWidth 64
          | some (c, i) => (BitVec.ofNat 32 (0x04000000 + causeCode c * 2 ^ 16 + i * 2 ^ 8)).setWidth 64)
        ∧ t.pod.fsr = s.pod.fsr ||| j.flags.setWidth 10 ∧ t.jobOf core job = none ∧ t.pods = s.pods ∧ t.wg = s.wg ∧ t.mem = s.mem)

/-- R355, R357, R365: a landing writes the next 2 KiB of a copy into the window and fills the full-empty bits of its granules; a memory write of wg scope puts the next 128 bytes into the core's stash. Elements are one-byte and unscaled here. R371 to R374: one step of the cache walker over a range within one leaf: a flush leaves HBM4E with the bytes of memory, an invalidation drops the clean bytes of the L1 and the K-cache lines, a discard drops the core's bytes and goes to the homes, where the range becomes zero. The model's choices in it: log entries 17, 25. -/
def Obligations.CopyAndCacheSteps : Prop :=
  (∀ (s : State) (core job : Nat) (j : Job) (a b : LayEntry) (src dst : List Int) (n : Nat),
     s.Copying core job j a b src dst n →
     let at' := fun (i : Nat) => (b.address (b.coords dst (j.done + i))).1
     let live := fun (i : Nat) => i < n ∧ b.inside (b.coords dst (j.done + i)) = true
     (b.space = 1 → j.slots ≠ 0 → s.wg.objects = [] → (∀ i k, live i → live k → i ≠ k → swz b.perm (at' i) ≠ swz b.perm (at' k)) →
       Completes (.landing core job) s fun t =>
         (∀ i, live i → NMap.get t.wg.scratch (swz b.perm (at' i)) = s.copied a src (j.done + i) ∧ NMap.get t.wg.fe (swz b.perm (at' i) / 16) = 1)
         ∧ (∀ x, (∀ i, live i → swz b.perm (at' i) ≠ x) → NMap.get t.wg.scratch x = NMap.get s.wg.scratch x)
         ∧ (∃ k : Job, t.jobOf core job = some k ∧ j.moved k a n) ∧ SameMemory s t ∧ t.pod = s.pod ∧ t.pods = s.pods)
     ∧ (∀ line, b.space = 0 → j.scope = .wg → (∀ i k, live i → live k → i ≠ k → at' i % 128 ≠ at' k % 128) → lineFar line = false →
       (∀ i, live i → ∃ l : Loc, s.locate s.core.n s.wg.ctx (at' i) = some l ∧ l.key = line * 128 + at' i % 128 ∧ l.tracked = true
         ∧ s.ownHome line ∧ s.stashFits s.core.n [l] = true) →
       Completes (.memoryWrite core job) s fun t =>
         (∀ i, live i → t.core.stashByte line (at' i % 128) = some (s.copied a src (j.done + i)))
         ∧ (∃ k : Job, t.jobOf core job = some k ∧ j.moved k a n) ∧ SameMemory s t ∧ t.pod = s.pod ∧ t.pods = s.pods ∧ t.wg = s.wg))
  ∧
  ((∀ (s : State) (core job : Nat) (j : Job) (l : Loc), s.jobOf core job = some j → j.pub = none → j.wg = s.wg.id → core = s.core.n → j.done = 0 → 0 < j.len → j.len ≤ 65536 →
     s.checkFlat core j.ctx (BitVec.ofNat 64 j.lo) 1 (j.kind == .disc) = .ok l → j.lo % pageBytes l.level + j.len ≤ pageBytes l.level → l.key + j.len ≤ Config.hostBase →
     let hit := fun (x : Nat) => l.key ≤ x ∧ x < l.key + j.len
     let others := fun (t : State) => t.pod = s.pod ∧ t.pods = s.pods ∧ t.wg = s.wg ∧ t.mem = s.mem
     (j.kind = .flush → s.Calm → Completes (.memoryWrite core job) s fun t =>
       (∀ x, hit x → NMap.get t.hbm x = NMap.get s.mem x) ∧ (∀ x, ¬ hit x → NMap.get t.hbm x = NMap.get s.hbm x)
       ∧ Msg.jobStatusLand core job ∈ t.inflight ∧ others t)
     ∧ (j.kind = .inval → s.core.distinctLines → Completes (.memoryWrite core job) s fun t =>
       (∀ line off, off < 128 → (hit (line * 128 + off) ∧ s.core.dirtyAt line off = false → t.core.byteOf line off = none)
         ∧ (¬ hit (line * 128 + off) ∨ s.core.dirtyAt line off = true → t.core.byteOf line off = s.core.byteOf line off))
       ∧ (∀ k ∈ t.core.kcache, ∀ o < 128, ¬ hit (k.1 * 128 + o)) ∧ t.core.stash = s.core.stash
       ∧ Msg.jobStatusLand core job ∈ t.inflight ∧ others t)
     ∧ (j.kind = .disc → j.asked = false → s.core.distinctLines → Completes (.memoryWrite core job) s fun t =>
       (∀ line off, off < 128 → hit (line * 128 + off) → t.core.byteOf line off = none ∧ t.core.stashByte line off = none)
       ∧ Msg.discardArrival (some (core, job)) l.key j.len ∈ t.inflight ∧ others t))
   ∧ ∀ (s : State) (lo len : Nat), s.homes = [] → s.proxies = [] → lo + len ≤ Config.hostBase →
     Completes (.discardArrival lo len) s fun t =>
       (∀ x, NMap.get t.mem x = if lo ≤ x ∧ x < lo + len then 0 else NMap.get s.mem x)
       ∧ (∀ x, NMap.get t.hbm x = if lo ≤ x ∧ x < lo + len then 0 else NMap.get s.hbm x)
       ∧ (∀ e ∈ t.wbQueue, ∀ b ∈ e.2, e.1 * 512 + b.1 < lo ∨ lo + len ≤ e.1 * 512 + b.1)
       ∧ t.pod = s.pod ∧ t.pods = s.pods ∧ t.wg = s.wg ∧ t.core = s.core)

/-- R321 to R324: SATOM on the window, or at a home of this device that has nothing in progress, gives s_r the old value (sign-extended for i32) and leaves the new one; an atomic that waited does the same at its home and sends its reply. R325, R326: ADDST adds the cells of an accumulator into the elements of a box in the window, each rounded once to the element's format, inside the extents of s_b; a line of one that waited does it at its home and sends its flags. -/
def Obligations.AtomicsAndAddst : Prop :=
  ((∀ (s : State) (f : SatomFields), s.Calm → f.op.typeOk f.ty = true →
     let n := f.ty.bits / 8
     let b := (s.readS f.b).toNat % 2 ^ f.ty.bits
     let c := (s.readS f.c).toNat % 2 ^ f.ty.bits
     let e := (s.readS f.a).toNat
     let result := fun (x : Nat) => if f.ty = .i32 then BitVec.ofInt 64 ((x : Int).bmod (2 ^ 32)) else BitVec.ofNat 64 x
     (f.scratch = true → e % n = 0 → e + n ≤ s.wg.grant.scratch → poisoned s.wg.scratchPoison e n = false → s.wg.objects = [] →
       let x := leValue (NMap.bytes s.wg.scratch e n)
       Completes (.satom f) s fun t =>
         AtomicGives f.op f.ty x b c (leValue (NMap.bytes t.wg.scratch e n)) ∧ Gives s t f.r (result x) 8
         ∧ (∀ k, (k < e ∨ e + n ≤ k) → NMap.get t.wg.scratch k = NMap.get s.wg.scratch k) ∧ SameMemory s t ∧ t.pods = s.pods
         ∧ { t.wg with scratch := s.wg.scratch, scratchPoison := s.wg.scratchPoison } = s.wg)
     ∧ (∀ l, f.scratch = false → s.checkFlat s.core.n s.wg.ctx (s.readS f.a) n true = .ok l → s.PlainHome l n →
       let x := leValue (NMap.bytes s.mem l.key n)
       Completes (.satom f) s fun t =>
         AtomicGives f.op f.ty x b c (leValue (NMap.bytes t.mem l.key n)) ∧ Gives s t f.r (result x) 8 ∧ SameMemoryBut l.key n s t ∧ t.wg = s.wg ∧ t.pods = s.pods)
     ∧ (∀ l, f.scratch = false → s.checkFlat s.core.n s.wg.ctx (s.readS f.a) n true = .ok l → l.tracked = false → s.canTrap → Completes (.satom f) s fun t =>
       t.pod.tcause = 0x06 ∧ t.pod.tspc = s.pod.pc ∧ t.pod.taddr = s.readS f.a ∧ t.pod.inHandler = true ∧ t.pod.s = s.pod.s ∧ SameMemory s t))
   ∧ ∀ (s : State) (r : AtomicReq) (i : AtomItem) (l : Loc), s.Calm → r.op.typeOk r.ty = true → r.pod = s.pod.key → r.core = s.core.n → r.items = [i] → i.key = l.key → r.line = l.line →
     s.PlainHome l (r.ty.bits / 8) →
     let n := r.ty.bits / 8
     let x := leValue (NMap.bytes s.mem l.key n)
     Completes (.atomicAtHome r) s fun t =>
       AtomicGives r.op r.ty x (i.b.toNat % 2 ^ r.ty.bits) (i.c.toNat % 2 ^ r.ty.bits) (leValue (NMap.bytes t.mem l.key n))
       ∧ (match r.stream with | .s => t.pod.sTxn.replies | .l => t.pod.lTxn.replies) = [(i.lane, BitVec.ofNat 64 x)]
       ∧ SameMemoryBut l.key n s t ∧ { t.pod with sTxn := s.pod.sTxn, lTxn := s.pod.lTxn } = s.pod ∧ t.pods = s.pods ∧ { t.wg with journal := s.wg.journal } = s.wg)
  ∧
  ((∀ (s : State) (d a b lay : Fin 64) (acc : Fin 256) (rel : Bool) (e : LayEntry) (ty : LType), s.Calm → acc.val < s.wg.grant.accs → lay.val < s.wg.grant.lays →
     s.accBusy acc 1 = false → e.fmt = .ty ty → e.space = 1 → s.accMoveCheck a lay (some (s.readS b)) = .ok e → s.wg.objects = [] →
     let org := s.coordsFrom a e.rank
     let at' := fun (p : Nat × Nat) (i : Nat) => swz e.perm (p.1 + i)
     s.checkPlaces e (e.places org (fun _ => true) false) true true = none →
     s.wg.scratchPoison = [] →
     (∀ x ∈ e.elems org, ∀ y ∈ e.elems org, ∀ p q, x.place = some p → y.place = some q → ∀ i < e.size, ∀ j < e.size, at' p i = at' q j → x.l = y.l ∧ i = j) →
     (∀ x ∈ e.elems org, ∀ p, x.place = some p → ∀ i < e.size, at' p i = at' p 0 + i) →
     Completes (.addst d a b acc lay rel) s fun t =>
       (∀ x ∈ e.elems org, ∀ p, x.place = some p →
         let old := leValue ((List.range e.size).map fun i => NMap.get s.wg.scratch (at' p i))
         let new := leValue ((List.range e.size).map fun i => NMap.get t.wg.scratch (at' p i))
         if x.l / 16 < (s.readS b).toNat % 32 ∧ x.l % 16 < (s.readS b).toNat / 2 ^ 8 % 32 then
           new = ((binFmt ty).deliver .rn false (((binFmt ty).value old).add .rn (fmtF32.value (NMap.get s.wg.acc (acc * 256 + x.l)).toNat)).1).1 % 2 ^ ty.bits
         else new = old)
       ∧ Gives s t d 0 8 ∧ t.wg.acc = s.wg.acc ∧ SameMemory s t ∧ t.pods = s.pods)
   ∧ ∀ (s : State) (r : AddstReq) (i : AddItem) (l : Loc), s.Calm → (r.fmt = .f32 ∨ r.fmt = .f16 ∨ r.fmt = .bf16) → r.pod = s.pod.key → r.core = s.core.n → r.items = [i] → i.key = l.key →
     r.line = l.line → s.PlainHome l (r.fmt.bits / 8) →
     let n := r.fmt.bits / 8
     let y := addElement r.fmt (leValue (NMap.bytes s.mem l.key n)) i.cell.toNat
     Completes (.addstLine r) s fun t =>
       leValue (NMap.bytes t.mem l.key n) = y.1 % 2 ^ r.fmt.bits ∧ t.pod.sTxn.replies = [(0, y.2.setWidth 64)]
       ∧ SameMemoryBut l.key n s t ∧ { t.pod with sTxn := s.pod.sTxn } = s.pod ∧ t.pods = s.pods ∧ { t.wg with journal := s.wg.journal } = s.wg)

/-- R304, R328 to R331: a daub at its home writes its bytes and sends the whole line to each named shelf; through the proxy of its die where the home lies on another; the shelf takes it, or refuses it when it is full; the home gathers what the shelves answer, and the sender counts the answers, which DAUBQ reads and clears. -/
def Obligations.Daubs : Prop :=
  (∀ (s : State) (r : DaubReq) (l : Loc), s.Calm → r.pod = s.pod.key → r.core = s.core.n → r.line = l.line → lineFar l.line = false → (∀ h, s.homeOf l.line = some h → h.Bare) →
    poisoned s.poison (l.line * 128) 128 = false → (r.bytes.map (·.1)).Nodup → (∀ e ∈ r.bytes, e.1 < 128) → Completes (.daubAtHome r) s fun t =>
      (∀ e ∈ r.bytes, NMap.get t.mem (r.line * 128 + e.1) = e.2)
      ∧ (∀ x, (∀ e ∈ r.bytes, x ≠ r.line * 128 + e.1) → NMap.get t.mem x = NMap.get s.mem x)
      ∧ (let h := s.homeD l.line
         let data := NMap.bytes t.mem (r.line * 128) 128
         if dieOf s.core.n = h.die then ∀ c ∈ r.targets, Msg.daubCopy c r.line (h.daubSeq + 1) data r.pod ∈ t.inflight
         else r.targets ≠ [] → Msg.relayedCopy (dieOf s.core.n) r.line (h.daubSeq + 1) data r.pod r.targets ∈ t.inflight)
      ∧ t.pod.lTxn.replies = [(0, 0)] ∧ t.pod.daubOut = r.targets.length ∧ { t.pod with lTxn := s.pod.lTxn, daubOut := s.pod.daubOut } = s.pod ∧ t.pods = s.pods
      ∧ { t.wg with journal := s.wg.journal } = s.wg)
  ∧ (∀ (s : State) (line : Nat) (seq : W32) (data : List Byte) (k : PodKey),
      let sends := fun (t : State) (acc : Bool) =>
        t.inflight = s.inflight ++ [if lineRemote line then Msg.daubAnswer k line acc else .noticeAcknowledge line]
        ∧ (lineRemote line = false → ∃ h : HomeLine, t.homeOf line = some h ∧ h.answers = (s.homeD line).answers ++ [(k, acc)]) ∧ t.pod = s.pod ∧ t.pods = s.pods ∧ t.wg = s.wg ∧ t.mem = s.mem
      ((∀ e ∈ s.core.shelf, e.line ≠ line) → s.core.shelf.length < 64 → Completes (.daubCopy s.core.n line seq data k) s fun t =>
        t.core.shelf = s.core.shelf ++ [⟨line, some (seq, data)⟩] ∧ t.core.l1 = s.core.l1 ∧ sends t true)
      ∧ ((∀ e ∈ s.core.shelf, e.line ≠ line) → 64 ≤ s.core.shelf.length → Completes (.daubCopy s.core.n line seq data k) s fun t =>
        t.core.shelf = s.core.shelf ∧ (s.core.distinctLines → (∀ x, s.core.lineOf line = some x → x.tracked = true) → ∀ off, s.core.dirtyAt line off = false → t.core.byteOf line off = none) ∧ sends t false)
      ∧ (∀ copy, s.core.shelf = [⟨line, copy⟩] → Completes (.daubCopy s.core.n line seq data k) s fun t =>
        t.core.shelf = [⟨line, if copy.all (fun c => c.1.toNat < seq.toNat) then some (seq, data) else copy⟩] ∧ sends t true))
  ∧ (∀ (s : State) (line : Nat) (acc : Bool), s.pod.live = true → Completes (.daubAnswer s.pod.key line acc) s fun t =>
      t.pod.daubOut = s.pod.daubOut - 1
      ∧ t.pod.daubAcc.toNat = (if acc then min 4095 (s.pod.daubAcc.toNat + 1) else s.pod.daubAcc.toNat)
      ∧ t.pod.daubRef.toNat = (if acc then s.pod.daubRef.toNat else min 4095 (s.pod.daubRef.toNat + 1))
      ∧ { t with pod := { t.pod with daubOut := s.pod.daubOut, daubAcc := s.pod.daubAcc, daubRef := s.pod.daubRef } } = s)
  ∧ ∀ (s : State) (d : Fin 64),
      Completes (.daubq d true) s (fun t => ScalarEffect s t d (BitVec.ofNat 64 (64 - s.core.shelf.length)) 4)
      ∧ (s.pod.daubOut = 0 → Completes (.daubq d false) s fun t =>
          t.pod.daubAcc = 0 ∧ t.pod.daubRef = 0
          ∧ ScalarEffect s { t with pod := { t.pod with daubAcc := s.pod.daubAcc, daubRef := s.pod.daubRef } } d (BitVec.ofNat 64 (s.pod.daubAcc.toNat * 2 ^ 12 + s.pod.daubRef.toNat)) 4)
      ∧ (s.pod.daubOut ≠ 0 → Completes (.daubq d false) s fun t => { t with pod := { t.pod with held := s.pod.held } } = s ∧ t.pod.held = .plain)

/-- R338 to R343: REDX sends its 32 words as a contribution, or says what is wrong with its operands; it waits while a contribution of its core to the group is on its way or in the open round; contributions collect in a round, which is delivered when every member's has come or 65,536 cycles after it opened, and is written into the window of its workgroup. -/
def Obligations.Reductions : Prop :=
  (∀ (s : State) (d a b m : Fin 64) (g : Fin 256) (e : Nat), (s.readS a).toNat = e → e % 128 = 0 → e + 128 ≤ s.wg.grant.scratch →
    let x := (s.readS b).toNat
    let hi := (s.readS (m.val + 1)).toNat
    let members : BitVec 72 := BitVec.ofNat 72 ((s.readS m).toNat + hi % 256 * 2 ^ 64)
    let good := x % 2 ^ 20 % 128 = 0 ∧ x / 2 ^ 39 = 0 ∧ x / 2 ^ 20 % 2 ^ 12 = 0 ∧ x / 2 ^ 32 % 2 ^ 7 < 72 ∧ hi < 256 ∧ members.getLsbD (s.core.n % 72) = true ∧ x % 2 ^ 20 + 144 ≤ s.wg.grant.scratch
    let mine := fun (r : Round) => r.die = s.core.n / 72 ∧ r.launch = s.wg.launch ∧ r.group = g.val
    (good → s.pod.coat = none → poisoned s.wg.scratchPoison e 128 = false → (∀ r ∈ s.rounds, mine r → s.core.n ∉ r.sent) →
        s.contributing (s.core.n / 72) s.wg.launch g.val s.core.n = false →
      Completes (.redx d a b m g) s fun t =>
        Gives s t d 0 8 ∧ StandsBut s t ∧ (∃ r ∈ t.rounds, mine r ∧ s.core.n ∈ r.sent)
        ∧ ((∀ r ∈ s.rounds, ¬ mine r) → t.rounds = s.rounds ++ [⟨s.core.n / 72, s.wg.launch, g, s.cycle, [s.core.n], []⟩])
        ∧ t.inflight = s.inflight ++ [.reductionContribution ⟨s.core.n / 72, s.wg.launch, g, s.core.n, members, x / 2 ^ 32 % 2 ^ 7, x % 2 ^ 20,
            (List.range 32).map fun i => BitVec.ofNat 32 (leValue (NMap.bytes s.wg.scratch (e + 4 * i) 4))⟩])
    ∧ (∀ st : W64, (x % 2 ^ 20 % 128 ≠ 0 ∧ st = 0x01780000
          ∨ x % 2 ^ 20 % 128 = 0 ∧ (x / 2 ^ 39 ≠ 0 ∨ x / 2 ^ 20 % 2 ^ 12 ≠ 0 ∨ 72 ≤ x / 2 ^ 32 % 2 ^ 7) ∧ st = 0x02790000
          ∨ x % 2 ^ 20 % 128 = 0 ∧ x / 2 ^ 39 = 0 ∧ x / 2 ^ 20 % 2 ^ 12 = 0 ∧ x / 2 ^ 32 % 2 ^ 7 < 72
            ∧ ((256 ≤ hi ∨ members.getLsbD (s.core.n % 72) = false) ∧ st = 0x027A0000
              ∨ hi < 256 ∧ members.getLsbD (s.core.n % 72) = true ∧ s.wg.grant.scratch < x % 2 ^ 20 + 144 ∧ st = 0x027B0000)) →
      Completes (.redx d a b m g) s fun t => ScalarEffect s t d st 8)
    ∧ (good → s.pod.stopReq = false → (∃ r ∈ s.rounds, mine r ∧ s.core.n ∈ r.sent) ∨ s.contributing (s.core.n / 72) s.wg.launch g.val s.core.n = true →
      Completes (.redx d a b m g) s fun t => Holds s t .cond ∧ t.rounds = s.rounds ∧ t.wg = s.wg ∧ t.core = s.core ∧ t.mem = s.mem))
  ∧ (∀ (s : State) (c : Contribution) (k w : Nat), k < 72 → c.core = c.die * 72 + k → c.members.getLsbD k = true →
      let round : Round := ⟨c.die, c.launch, c.group, s.cycle, [c.core], [c]⟩
      let record := fun (st missing : Nat) => Delivery.mk c.die c.launch c.group (c.die * 72 + c.target) c.offset (roundBytes c.data (st + c.group % 256 * 2 ^ 16 + 1) missing) (some w)
      let others := fun (t : State) => t.pod = s.pod ∧ t.pods = s.pods ∧ t.wg = s.wg ∧ t.core = s.core ∧ t.mem = s.mem
      let missing := c.members.toNat - 2 ^ k
      ((∀ r ∈ s.rounds, Round.is c.die c.launch c.group r = false) →
        (missing ≠ 0 → Completes (.reductionContribution c) s fun t => t.rounds = s.rounds ++ [round] ∧ t.deliveries = s.deliveries ∧ others t)
        ∧ (missing = 0 → s.deliveryWg c.launch (c.die * 72 + c.target) = some w → Completes (.reductionContribution c) s fun t =>
          t.rounds = s.rounds ∧ t.deliveries = s.deliveries ++ [record 0 0] ∧ Msg.reductionDelivery c.die c.launch c.group ∈ t.inflight ∧ others t))
      ∧ (∀ start, s.rounds = [{ round with start := start }] → missing ≠ 0 → s.deliveryWg c.launch (c.die * 72 + c.target) = some w →
        (65536 ≤ (s.cycle - start).toNat → Completes (.roundTimeout c.die c.launch c.group) s fun t =>
          t.rounds = [] ∧ t.deliveries = s.deliveries ++ [record (0x06000000 + missing / 2 ^ 64 * 2 ^ 8) (missing % 2 ^ 64)] ∧ others t)
        ∧ ((s.cycle - start).toNat < 65536 → Completes (.roundTimeout c.die c.launch c.group) s fun t => t = s)))
  ∧ ∀ (s : State) (v : Delivery), s.deliveries = [v] → v.wg = some s.wg.id → s.wg.id ≠ 0 → s.wg.resident = true → s.wg.objects = [] → v.bytes.length = 144 → v.offset % 16 = 0 →
      Completes (.reductionDelivery v.die v.launch v.group) s fun t =>
        t.deliveries = [] ∧ (∀ i < 144, NMap.get t.wg.scratch (v.offset + i) = v.bytes.getD i 0) ∧ (∀ x, (x < v.offset ∨ v.offset + 144 ≤ x) → NMap.get t.wg.scratch x = NMap.get s.wg.scratch x)
        ∧ (∀ i < 9, NMap.get t.wg.fe (v.offset / 16 + i) = 1) ∧ t.pod = s.pod ∧ t.core = s.core ∧ t.mem = s.mem

/-- R443 to R448: XSEND refuses bad operands; a good one of one packet starts a transfer and sends its first bytes to the device of its destination. XWAIT goes on when the counter has reached its value, and waits otherwise. R466: WAITA keeps the line as it stands and waits; at a later visit it answers 1 if the line differs, and 0 if it does not and the cycles of s_b have passed since the first visit; a line of another device is asked for anew after 4,096 cycles. A recheck lets the pod go on. The model's choices in it: log entry 28. -/
def Obligations.TransferAndWaitWords : Prop :=
  ((∀ (s : State) (d a b c : Fin 64),
     let src := (s.readS a).toNat
     let len := (s.readS (a.val + 1)).toNat
     let dst := (s.readS b).toNat
     let x := (s.readS c).toNat
     let aligned := src % 16 = 0 ∧ dst % 16 = 0 ∧ len % 16 = 0 ∧ x % 2 ^ 20 % 8 = 0
     let inside := len ≠ 0 ∧ len ≤ 2 ^ 32 - 16 ∧ src + len ≤ 2 ^ 54 ∧ dst + len ≤ 2 ^ 54
     let target := x / 2 ^ 41 = 0 ∧ x / 2 ^ 20 % 2 ^ 12 = 0 ∧ x / 2 ^ 32 % 2 ^ 9 < 288
     (¬ aligned → Completes (.xsend d a b c) s fun t => ScalarEffect s t d 0x01A00000 8)
     ∧ (aligned → ¬ inside → Completes (.xsend d a b c) s fun t => ScalarEffect s t d 0x02A10000 8)
     ∧ (aligned → inside → ¬ target → Completes (.xsend d a b c) s fun t => ScalarEffect s t d 0x02A20000 8)
     ∧ (∀ l r, aligned → len = 16 → inside → target → s.pod.coat = none → s.pod.pending = [] → (∀ y ∈ s.xfers, y.id ≠ s.nextId) →
         s.checkFlat s.core.n s.wg.ctx (s.readS a) 1 false = .ok l → leafDev l.leaf = s.dev → s.homeIdle l.line = true → s.pathBad s.core.n l 16 = false →
         s.checkFlat s.core.n s.wg.ctx (s.readS b) 1 true = .ok r → leafDev r.leaf ≠ s.dev → leafIncast r.leaf = false →
       Completes (.xsend d a b c) s fun t =>
         (∃ y ∈ t.xfers, y.id = s.nextId ∧ y.pod = s.pod.key ∧ y.reg = d.val ∧ y.src = src ∧ y.dst = dst ∧ y.len = 16 ∧ y.sent = 16)
         ∧ (∃ p : Peer, t.peerBy (leafDev r.leaf) = some p ∧ ∃ q ∈ p.out, q.who = .xsend s.nextId ∧ q.op = .packet ⟨s.dev, ((s.ctxBy s.wg.ctx).map (·.domain)).getD 0,
             [(r.key % 2 ^ 52, r.tracked, (List.range 16).map fun i => if l.tracked then s.mergedByte s.core.n (l.key + i) else s.homeByte (l.key + i))],
             x / 2 ^ 32 % 2 ^ 9, x % 2 ^ 20⟩)
         ∧ t.pod.pending = (if d = 0 then [] else [⟨if s.pod.banked d then d + 64 else d, s.nextId, .wg, false⟩])
         ∧ MovesOn s t 8 ∧ t.pod.s = s.pod.s ∧ t.pods = s.pods ∧ t.wg = s.wg ∧ SameMemory s t))
   ∧ ∀ (s : State) (a b : Fin 64) (e : Nat), s.Calm → (s.readS a).toNat = e → e % 8 = 0 → e + 8 ≤ s.wg.grant.scratch → poisoned s.wg.scratchPoison e 8 = false →
       let count := BitVec.ofNat 64 (leValue (NMap.bytes s.wg.scratch e 8))
       (0 ≤ (count - s.readS b).toInt → Completes (.xwait a b) s fun t => PodMoves s t 4 ∧ t.core.kcache = [] ∧ SameMemory s t)
       ∧ ((count - s.readS b).toInt < 0 → Completes (.xwait a b) s fun t =>
           Holds s t .cond ∧ t.pod.sTxn.phase = 18 ∧ t.pod.sTxn.key = e ∧ t.pod.sTxn.start = s.readS b ∧ t.wg = s.wg ∧ t.core = s.core ∧ t.mem = s.mem)
       ∧ Completes (.xwait a b) { s with pod := { s.pod with sTxn := { s.pod.sTxn with phase := 19 } } } fun t => MovesOn s t 4 ∧ t.core.kcache = [] ∧ t.wg = s.wg ∧ SameMemory s t)
  ∧
  ((∀ (s : State) (d a b : Fin 64) (l : Loc), s.core.shelf = [] → s.core.l1 = [] → s.pod.stopReq = false → s.goesTo (s.readS a) 1 false l →
     let now := s.homeLineData l.line
     let x := s.pod.sTxn
     let apart := fun (t : State) => { t.wg with journal := s.wg.journal } = s.wg ∧ t.pods = s.pods ∧ t.mem = s.mem
     let ends := fun (v : W64) => Completes (.waita d a b) s fun t => Gives s t d v 4 ∧ apart t
     let stays := fun (P : State → Prop) => Completes (.waita d a b) s fun t => t.pod.held = .cond ∧ t.pod.pc = s.pod.pc ∧ t.pod.s = s.pod.s ∧ apart t ∧ P t
     let timedOut := (s.readS b).toNat ≤ (s.cycle - x.start).toNat
     let asks := fun (t : State) (phase : Nat) => t.pod.sTxn.phase = phase ∧ ∃ p : Peer, t.peerBy (lineDev l.line) = some p
       ∧ ∃ q ∈ p.out, q.who = .waita s.pod.key ∧ q.op = .read (l.line % spaceLines)
     (lineRemote l.line = false → s.homeIdle l.line = true → poisoned s.poison (l.line * 128) 128 = false →
       (x = Txn.empty → s.readS b ≠ 0 → stays fun t => t.pod.sTxn.phase = 12 ∧ t.pod.sTxn.snap = now ∧ t.pod.sTxn.start = s.cycle ∧ t.pod.sTxn.last = s.cycle)
       ∧ (x = Txn.empty → s.readS b = 0 → ends 0)
       ∧ (x.phase = 12 → now ≠ x.snap → ends 1)
       ∧ (x.phase = 12 → now = x.snap → 4096 ≤ (s.cycle - x.last).toNat → timedOut → ends 0)
       ∧ (x.phase = 12 → now = x.snap → 4096 ≤ (s.cycle - x.last).toNat → ¬ timedOut → stays fun t => t.pod.sTxn.phase = 12 ∧ t.pod.sTxn.last = s.cycle)
       ∧ (x.phase = 12 → now = x.snap → (s.cycle - x.last).toNat < 4096 → stays fun t => t.pod.sTxn.phase = 12 ∧ t.pod.sTxn.last = x.last))
     ∧ (lineRemote l.line = true →
       (x = Txn.empty → stays (asks · 11))
       ∧ (x.phase = 12 → 4096 ≤ (s.cycle - x.last).toNat → stays (asks · 13))
       ∧ (x.phase = 12 → (s.cycle - x.last).toNat < 4096 → stays fun t => t.pod.sTxn.phase = 12))
     ∧ (x.phase = 14 → timedOut → ends 0)
     ∧ (x.phase = 14 → ¬ timedOut → stays fun t => t.pod.sTxn.phase = 12 ∧ t.pod.sTxn.last = s.cycle)
     ∧ (x.phase = 15 → ends 1))
   ∧ ∀ (s : State) (p : PodKey), Completes (.waitaRecheck p) s fun t => t = { s with turns := s.turns ++ [(p, .s)] })

/-- R451, R452: SET closes the epoch of its group: with no message in it the word completes with 0; an epoch one of whose messages was lost is scraped; otherwise the devices are asked to prepare and the word waits for their answer, which it gives to its register. SCRAPE of an empty epoch completes with its status. R450 to R455: a set of one device: the hawk merges its stores or refuses them, answers the prepare, and commits them as one publication or discards them; the source decides when every device is ready, records its decision, sends commits again, and gives up after 4 ms. The model's choices in it: log entries 32, 72. -/
def Obligations.SetWordsAndMessages : Prop :=
  ((∀ (s : State) (d g : Fin 64), s.Calm → (∀ x ∈ s.groups, ¬ (x.ctx = s.wg.ctx ∧ x.group = g.val)) →
     let closed := fun (t : State) => t.groups = s.groups ++ [⟨s.wg.ctx, g, 1, [], false⟩]
     Completes (.set d g) s (fun t => closed t ∧ Gives s t d 0 4 ∧ t.sets = s.sets ∧ t.wg = s.wg ∧ t.pods = s.pods ∧ t.mem = s.mem)
     ∧ ((∀ o ∈ s.sets, ¬ (o.key.ctx = s.wg.ctx ∧ o.key.group = g.val ∧ o.stage = .preparing)) →
       Completes (.scrape d g) s (fun t => closed t ∧ Gives s t d 0x08010000 4 ∧ t.sets = s.sets ∧ t.wg = s.wg ∧ t.pods = s.pods ∧ t.mem = s.mem)))
   ∧ (∀ (s : State) (d g : Fin 64) (n : Nat) (ep : Half16) (lost : Bool), s.Calm → 0 < n → s.groups = [⟨s.wg.ctx, g, ep, [(s.dev, n)], lost⟩] →
     let k : SetKey := ⟨s.dev, s.wg.ctx, g, ep⟩
     let waits := fun (t : State) => t.groups = [⟨s.wg.ctx, g, ep + 1, [], false⟩] ∧ t.pod.held = .plain ∧ t.pod.sTxn.phase = 3 ∧ t.pod.pc = s.pod.pc ∧ t.pod.s = s.pod.s ∧ t.wg = s.wg ∧ t.mem = s.mem
     (lost = false → Completes (.set d g) s (fun t => waits t ∧ Msg.setPrepare k n ∈ t.inflight
       ∧ t.sets = s.sets ++ [⟨k, [s.dev], [], .preparing, s.cycle, s.cycle, some s.pod.key, false, 0, 0⟩]))
     ∧ (lost = true → Completes (.set d g) s (fun t => waits t ∧ Msg.setScrape k ∈ t.inflight ∧ t.pod.sTxn.replies = [(0, BitVec.ofNat 64 (8 * 2 ^ 24 + 4 * 2 ^ 16 + 1))]))
     ∧ ((∀ o ∈ s.sets, ¬ (o.key.ctx = s.wg.ctx ∧ o.key.group = g.val ∧ o.stage = .preparing)) → Completes (.scrape d g) s (fun t =>
       waits t ∧ Msg.setScrape k ∈ t.inflight)))
   ∧ ∀ (s : State) (d g : Fin 64) (st : W32) (r : List (Nat × W64)), s.pod.queue = [] → s.pod.sTxn.phase = 3 → s.pod.coat = none → s.core.shelf = [] → s.core.l1 = [] →
     (s.pod.sTxn.replies = (0, st.setWidth 64) :: r → Completes (.set d g) s fun t => Gives s t d (st.setWidth 64) 4 ∧ t.wg = s.wg ∧ t.pods = s.pods ∧ t.mem = s.mem)
     ∧ ((∀ o ∈ s.sets, o.who ≠ some s.pod.key) → s.pod.sTxn.start.toNat < 2 ^ 16 → Completes (.scrape d g) s fun t =>
         Gives s t d (0x08010000 + s.pod.sTxn.start) 4 ∧ t.wg = s.wg ∧ t.pods = s.pods ∧ t.core = s.core ∧ t.mem = s.mem))
  ∧
  (∀ (s : State) (k : SetKey), k.src = s.dev →
     let with' := fun (h : HawkSet) (P : State → Prop) (i : Instr) => s.hawk = [h] → h.key = k → Completes i s fun t => SetsOnly s t ∧ t.pod = s.pod ∧ P t
     (∀ (line : Nat) (bs : LineBytes), s.hawk = [] → s.wet = [] → (bs.map (·.1)).Nodup → Completes (.wetStoreMessage k line bs) s fun t =>
       SetsOnly s t ∧ t.pod = s.pod ∧ (∃ h : HawkSet, t.hawk = [h] ∧ h.key = k ∧ h.got = 1 ∧ h.refused = false)
       ∧ ∃ w : WetLine, t.wet = [w] ∧ w.key = k ∧ w.line = line ∧ ∀ e ∈ bs, alookup e.1 w.bytes = some e.2)
     ∧ (∀ (h : HawkSet) (line : Nat) (bs : LineBytes), h.asked = none → Config.hawkLines ≤ s.wet.length → (∀ w ∈ s.wet, ¬ (w.key = k ∧ w.line = line)) →
         with' h (fun t => t.wet = s.wet ∧ t.hawk = [{ h with got := h.got + 1, refused := true }]) (.wetStoreMessage k line bs))
     ∧ (∀ (h : HawkSet) (n : Nat), h.prepared = none →
         (h.refused = false → n ≤ h.got → with' h (fun t => t.hawk = [{ h with asked := some n, prepared := some s.cycle }] ∧ t.inflight = s.inflight ++ [.setReady k s.dev true]) (.setPrepare k n))
         ∧ (h.refused = false → h.got < n → with' h (fun t => t.hawk = [{ h with asked := some n }] ∧ t.inflight = s.inflight) (.setPrepare k n))
         ∧ (h.refused = true → with' h (fun t => t.hawk = [{ h with asked := none }] ∧ t.inflight = s.inflight ++ [.setReady k s.dev false]) (.setPrepare k n)))
     ∧ (∀ (h : HawkSet) (w : WetLine), h.pub = none → s.wet = [w] → w.key = k → lineHost w.line = false →
         with' h (fun t => t.wet = [] ∧ t.hawk = [{ h with pub := some s.nextId }] ∧ t.pubs = s.pubs ++ [⟨s.nextId, 288, [⟨w.line, w.bytes, w.bad, [], .sending⟩]⟩]
           ∧ t.inflight = s.inflight ++ [.pendingBytes s.nextId w.line]) (.setCommit k)
         ∧ (s.sets = [] → with' h (fun t => t.wet = [] ∧ t.hawk = [] ∧ t.pubs = s.pubs ∧ t.inflight = s.inflight) (.setScrape k)))
     ∧ (∀ (h : HawkSet) (since : W64), h.prepared = some since → h.pub = none →
         ((s.cycle - since).toNat < 43200000 → with' h (fun t => t = s) (.decisionQuery k))
         ∧ (43200000 ≤ (s.cycle - since).toNat → with' h (fun t => t.hawk = [{ h with prepared := some s.cycle }] ∧ t.inflight = s.inflight) (.decisionQuery k)))
     ∧ (∀ (o : SetOp), s.sets = [o] → o.key = k → o.devs = [s.dev] → o.who = some s.pod.key → s.pod.live = true →
         let scraped := fun (reason : Nat) (t : State) =>
           t.sets = [{ o with stage := .scraping, who := none, scraper := false, answered := [] }] ∧ t.inflight = s.inflight ++ [.setScrape k]
           ∧ t.pod = { s.pod with sTxn := { s.pod.sTxn with replies := [(0, BitVec.ofNat 64 (8 * 2 ^ 24 + reason * 2 ^ 16 + 1))] } } ∧ SetsOnly s t
         (o.stage = .preparing → Completes (.setReady k s.dev false) s (scraped 3))
         ∧ (o.stage = .preparing → 10800000 ≤ (s.cycle - o.start).toNat → Completes (.prepareTimeout k) s (scraped 2))
         ∧ (o.stage = .preparing → (s.cycle - o.start).toNat < 10800000 → Completes (.prepareTimeout k) s fun t => t = s)
         ∧ (o.stage = .preparing → Completes (.setReady k s.dev true) s fun t =>
             t.sets = [{ o with stage := .committing, answered := [], sent := s.cycle }] ∧ t.inflight = s.inflight ++ [.setCommit k] ∧ t.pod = s.pod ∧ SetsOnly s t
             ∧ ∃ e : LogEntry, e.code = 0x05 ∧ e.ctx = k.ctx ∧ e.detail = [BitVec.ofNat 32 k.group, k.epoch.setWidth 32, BitVec.ofNat 32 k.src, 1]
               ∧ e ∈ t.skepin.log ∧ t.skepin.decisions = s.skepin.decisions ++ [e])
         ∧ (o.stage = .committing → o.answered = [] → 5400000 ≤ (s.cycle - o.sent).toNat → Completes (.commitResend k) s fun t =>
             t.sets = [{ o with sent := s.cycle }] ∧ t.inflight = s.inflight ++ [.setCommit k] ∧ t.pod = s.pod ∧ SetsOnly s t)
         ∧ (o.stage = .committing → (s.cycle - o.sent).toNat < 5400000 → Completes (.commitResend k) s fun t => t = s))
     ∧ (∀ (h : HawkSet) (w : WetLine) (n : Fin 256) (r : Ring) (e : List Byte) (since : W64), s.Command r e → r.n = n.val → n ≠ 0 → num e 3 1 = 0 → num e 16 8 = 0 →
         s.hawk = [h] → h.key = k → h.prepared = some since → h.pub = none → k.group = num e 8 1 → k.src = num e 10 2 → k.epoch.toNat = num e 12 2 → s.wet = [w] → w.key = k → lineHost w.line = false →
         (num e 9 1 = 1 → Completes (.setResolve n) s fun t =>
           t.rings = [r.after] ∧ Took s t r 0 0 0 ∧ t.wet = [] ∧ t.hawk = [{ h with pub := some s.nextId }] ∧ t.inflight = s.inflight ++ [.pendingBytes s.nextId w.line])
         ∧ (num e 9 1 = 2 → s.sets = [] → Completes (.setResolve n) s fun t => t.rings = [r.after] ∧ Took s t r 0 0 0 ∧ t.wet = [] ∧ t.hawk = [] ∧ t.inflight = s.inflight)))

/-! ## Lane words -/

/-- R42, R149 to R154: integer lane words: exact results wrapped or saturated; quotients truncate, and a zero divisor in an active lane traps; carries through a mask; logic, shifts by an n32 amount, counts, reversal and bit fields; compares into a mask. -/
def Obligations.LaneIntegers : Prop :=
  let two := fun (i : LFields → Instr) (row : LRow) (g : LFields → Int → Int → Int) =>
    LaneGives i (fun f => rowSpans row f.ty) (fun s f j => laneInt f.ty f.sat (g f (s.intA f j) (s.intB f j))) quiet
  let bits := fun (i : LFields → Instr) (row : LRow) (g : State → LFields → Nat → Nat) =>
    LaneGives i (fun f => rowSpans row f.ty) (fun s f j => laneBits f.ty (g s f j)) quiet
  two .iadd rowInt2Sat (fun _ a b => a + b) ∧ two .isub rowInt2Sat (fun _ a b => a - b) ∧ two .imul rowInt2Sat (fun _ a b => a * b)
  ∧ two .imin rowInt2 (fun _ a b => min a b) ∧ two .imax rowInt2 (fun _ a b => max a b)
  ∧ two .iabs rowNeg (fun _ a _ => (a.natAbs : Int)) ∧ two .ineg rowNeg (fun _ a _ => -a) ∧ two .imulh rowImulh (fun f a b => a * b / 2 ^ f.ty.bits)
  ∧ LaneGives .imad (fun f => rowSpans rowImad f.ty) (fun s f j => laneInt f.ty f.sat (s.intA f j * s.intB f j + s.intC f j)) quiet
  ∧ (let divides := fun (i : LFields → Instr) (q : State → LFields → Nat → Int) =>
      ∀ (s : State) (f : LFields), (i f).wf = true → s.LaneGoes f (rowSpans rowIdiv f.ty) →
      ((∀ j < 32, (s.active f).getLsbD j = true → s.intB f j ≠ 0) → Completes (i f) s fun t =>
        LaneEffect s t f (rowSpans rowIdiv f.ty).d f.ty.wide 1 (fun j _ => laneInt f.ty f.sat (q s f j)) (fun _ => 0) none)
      ∧ (∀ mask : W32, mask ≠ 0 → (∀ j < 32, mask.getLsbD j = ((s.active f).getLsbD j && decide (s.intB f j = 0))) → s.canTrap → s.pod.sTxn.sent = false →
        TrapsL (i f) s .intDiv0 mask 0)
     divides .idiv (fun s f j => (s.intA f j).tdiv (s.intB f j)) ∧ divides .irem (fun s f j => s.intA f j - s.intB f j * (s.intA f j).tdiv (s.intB f j)))
  ∧ (∀ (s : State) (f : LFields), (Instr.iaddc f).wf = true → s.LaneGoes f (rowSpans rowIaddc f.ty) →
      let c := f.imm.toNat % 16
      let k := fun (j : Nat) => ((s.readK c).getLsbD j).toNat
      (f.imm.toNat / 16 % 2 = 0 → Completes (.iaddc f) s fun t => ∃ y : W32,
        LaneEffect s t f (rowSpans rowIaddc f.ty).d f.ty.wide 1 (fun j _ => BitVec.ofNat 64 ((s.bitsA f j + s.bitsB f j + k j) % 2 ^ f.ty.bits)) (fun _ => 0) (some (c, y))
        ∧ ∀ j < 32, y.getLsbD j = if (s.active f).getLsbD j then decide (2 ^ f.ty.bits ≤ s.bitsA f j + s.bitsB f j + k j) else (s.readK c).getLsbD j)
      ∧ (f.imm.toNat / 16 % 2 = 1 → Completes (.iaddc f) s fun t => ∃ y : W32,
        LaneEffect s t f (rowSpans rowIaddc f.ty).d f.ty.wide 1
          (fun j _ => BitVec.ofNat 64 (((s.bitsA f j : Int) - s.bitsB f j - k j) % 2 ^ f.ty.bits).toNat) (fun _ => 0) (some (c, y))
        ∧ ∀ j < 32, y.getLsbD j = if (s.active f).getLsbD j then decide (s.bitsA f j < s.bitsB f j + k j) else (s.readK c).getLsbD j))
  ∧ bits .and rowInt2 (fun s f j => Nat.land (s.bitsA f j) (s.bitsB f j)) ∧ bits .or rowInt2 (fun s f j => Nat.lor (s.bitsA f j) (s.bitsB f j))
  ∧ bits .xor rowInt2 (fun s f j => Nat.xor (s.bitsA f j) (s.bitsB f j)) ∧ bits .not rowInt1 (fun s f j => 2 ^ f.ty.bits - 1 - s.bitsA f j)
  ∧ bits .shl rowShift (fun s f j => s.bitsA f j * 2 ^ s.amountB f j) ∧ bits .shr rowShift (fun s f j => s.bitsA f j / 2 ^ s.amountB f j)
  ∧ LaneGives .sra (fun f => rowSpans rowShift f.ty) (fun s f j => laneBits f.ty (((s.bitsA f j : Int).bmod (2 ^ f.ty.bits) / 2 ^ s.amountB f j) % 2 ^ f.ty.bits).toNat) quiet
  ∧ bits .rot rowShift (fun s f j => s.bitsA f j * 2 ^ (s.amountB f j % f.ty.bits) + s.bitsA f j / 2 ^ (f.ty.bits - s.amountB f j % f.ty.bits))
  ∧ bits .clz rowInt1 (fun s f j => if s.bitsA f j = 0 then f.ty.bits else f.ty.bits - 1 - Nat.log2 (s.bitsA f j))
  ∧ bits .popc rowInt1 (fun s f j => ((List.range f.ty.bits).map fun i => s.bitsA f j / 2 ^ i % 2).sum)
  ∧ bits .brev rowInt1 (fun s f j => ((List.range f.ty.bits).map fun i => s.bitsA f j / 2 ^ i % 2 * 2 ^ (f.ty.bits - 1 - i)).sum)
  ∧ LaneGives .bfx (fun f => rowSpans rowBf f.ty) (fun s f j =>
      let m := min (s.amountC f j) (f.ty.bits - s.amountB f j)
      let x := (s.srcA f f.ty j).toNat / 2 ^ s.amountB f j % 2 ^ m
      laneInt f.ty false (if m = 0 then 0 else if f.ty.signed then (x : Int).bmod (2 ^ m) else x)) quiet
  ∧ LaneGives .bfi (fun f => rowSpans rowBf f.ty) (fun s f j =>
      let m := min (s.amountC f j) (f.ty.bits - s.amountB f j)
      let p := s.amountB f j
      let old := (s.oldDest f f.ty j).toNat
      if m = 0 then BitVec.ofNat 64 old
      else BitVec.ofNat 64 (old % 2 ^ p + (s.srcA f f.ty j).toNat % 2 ^ m * 2 ^ p + old / 2 ^ (p + m) * 2 ^ (p + m))) quiet
  ∧ LaneTests .icmp (fun f => rowSpans rowIcmp f.ty) (fun s f j =>
      let a := s.intA f j
      let b := s.intB f j
      match f.imm.toNat % 8 with
      | 0 => decide (a = b) | 1 => decide (a ≠ b) | 2 => decide (a < b) | 3 => decide (a ≤ b) | 4 => decide (a > b) | _ => decide (a ≥ b)) quiet

/-- R84 to R88, R155, R172 to R176: what MOV delivers from each class of source; SEL, LIDX, MOVI, SHFL, BCAST and VOTE. -/
def Obligations.LaneMoves : Prop :=
  LaneGives .mov (fun f => rowSpans rowMov f.ty) (fun s f j =>
    let n' := s.block.rep * (f.stride.val + 1)
    let pair := fun (lo hi : W32) => if f.ty.wide then lo.toNat + hi.toNat * 2 ^ 32 else lo.toNat
    laneBits f.ty (match f.a with
      | .v n => pair (s.pod.readV (n + n') j) (s.pod.readV (n + n' + 1) j)
      | .o n => pair (s.pod.readO (n + n') j) (s.pod.readO (n + n' + 1) j)
      | .q n => pair (s.block.q.getD n 0) (s.block.q.getD (n + 1) 0)
      | .b n => if f.ty.wide then (NMap.get s.pod.b (n * 32 + j)).toNat else (NMap.get s.pod.b (n * 32 + j)).toNat % 2 ^ 32
      | .imm24 => if f.ty.isInt then ((f.imm.toInt : Int) % 2 ^ f.ty.bits).toNat else (imm24Bits f.ty f.imm).toNat
      | .imm n => if f.ty.isInt then (n % 2 ^ f.ty.bits).toNat else (smallImm f.ty n).toNat)) quiet
  ∧ LaneGives .lidx (fun f => rowSpans rowLidx f.ty) (fun _ _ j => BitVec.ofNat 64 j) quiet
  ∧ LaneGives .sel (fun f => rowSpans rowSel f.ty) (fun s f j =>
      laneBits f.ty (if (s.readK (f.imm.toNat % 16)).getLsbD j then s.bitsA f j else s.bitsB f j)) quiet
  ∧ (∀ (s : State) (f : LFields) (n : Nat), (Instr.movi f).wf = true → s.LaneGoes f (rowSpans rowMovi f.ty) → f.a = .v n →
      Completes (.movi f) s fun t => LaneEffect s t f (rowSpans rowMovi f.ty).d false 1 (fun j _ =>
        let r := n + s.block.rep * (f.stride.val + 1) + s.amountB f j
        if r < s.wg.grant.regs then (s.pod.readV r j).setWidth 64 else 0) (fun _ => 0) none)
  ∧ LaneGives .shfl (fun f => rowSpans rowShfl f.ty) (fun s f j =>
      let n := s.amountB f j
      let i := match f.imm.toNat % 4 with
        | 0 => n % 32
        | 1 => if n ≤ j then j - n else j
        | 2 => if j + n < 32 then j + n else j
        | _ => Nat.xor j (n % 32)
      laneBits f.ty (s.bitsA f i)) quiet
  ∧ LaneGives .bcast (fun f => rowSpans rowBcast f.ty) (fun s f _ => laneBits f.ty (s.bitsA f (s.amountB f 0 % 32))) quiet
  ∧ LaneGives .vote (fun f => rowSpans rowVote f.ty) (fun s f _ =>
      let on := (List.range 32).filter fun j => (s.active f).getLsbD j
      let x := fun (j : Nat) => s.srcA f f.ty j
      match f.imm.toNat % 4 with
      | 0 => oneIf (∃ j ∈ on, x j ≠ 0)
      | 1 => oneIf (∀ j ∈ on, x j ≠ 0)
      | 2 => oneIf (∀ j ∈ on, ∀ i ∈ on, x i = x j)
      | _ => BitVec.ofNat 64 (on.filter fun j => x j != 0).length) quiet

/-- R56, R61, R156 to R160: binary floating-point lane words: the exact result rounded once in the word's mode, with its flags; minimum and maximum, rounding to an integer, compares and classes. R63 to R66, R163 to R165: CVT between types, PACK of two sources into part of a register, UNPK of one element. The model's choices in it: log entry 77. -/
def Obligations.LaneFloatsAndConversions : Prop :=
  (let num := fun (s : State) (f : LFields) (r : Val × Exc) => binResult f.ty (s.roundB f) r
   LaneComputes .fadd rowF2 (fun s f j => num s f ((s.valA f j).add (s.roundB f) (s.valB f j)))
   ∧ LaneComputes .fsub rowF2 (fun s f j => num s f ((s.valA f j).add (s.roundB f) (s.valB f j).negate))
   ∧ LaneComputes .fmul rowF2 (fun s f j => num s f ((s.valA f j).mul (s.valB f j)))
   ∧ LaneComputes .ffma rowFfma (fun s f j => num s f ((s.valA f j).fma (s.roundB f) (s.valB f j) (s.valC f j)))
   ∧ LaneComputes .fmin rowF2 (fun s f j => extreme f.ty false (s.bitsA f j) (s.bitsB f j))
   ∧ LaneComputes .fmax rowF2 (fun s f j => extreme f.ty true (s.bitsA f j) (s.bitsB f j))
   ∧ LaneComputes .frnd rowF1 (fun s f j => match s.valA f j with
       | .num neg n d => (BitVec.ofNat 64 ((binFmt f.ty).deliver (s.roundB f) false (.num neg (roundNat (s.roundB f) neg n d) 1)).1, 0)
       | v => (BitVec.ofNat 64 ((binFmt f.ty).deliver (s.roundB f) false v).1, sigFlags false [v]))
   ∧ LaneTests .fcmp (fun f => rowSpans rowFcmp f.ty) (fun s f j => (holdsCond (f.imm.toNat % 8) (s.valA f j) (s.valB f j)).1)
       (fun s f j => if (holdsCond (f.imm.toNat % 8) (s.valA f j) (s.valB f j)).2 then 0x01 else 0)
   ∧ LaneComputes .fclass rowFclass (fun s f j =>
       let v := if f.ty = .d64 then (s.decA f j).value else s.valA f j
       let small := if f.ty = .d64 then (match s.decA f j with
           | .num _ c q => decide ((scaled10 c 1 (q + 383)).1 < (scaled10 c 1 (q + 383)).2)
           | _ => false)
         else decide (s.bitsA f j / 2 ^ (binFmt f.ty).f % 2 ^ (binFmt f.ty).e = 0)
       (2 ^ (match v with
         | .inf neg => if neg then 0 else 7
         | .nan sig => if sig then 8 else 9
         | .num neg n _ => if n = 0 then (if neg then 3 else 4) else if small then (if neg then 2 else 5) else if neg then 1 else 6), 0)))
  ∧
  ((∀ (ts : LType), let row := fun (f : LFields) => Spans.mk (wideSpan f.ty.wide) (some (wideSpan ts.wide)) none none
     let src := fun (s : State) (f : LFields) (j : Nat) => (s.srcA f ts j).toNat % 2 ^ ts.bits
     let cvt := fun (ok : LType → Prop) (r : State → LFields → Nat → W64 × Flags) =>
       ∀ (s : State) (f : LFields), (Instr.cvt f).wf = true → LType.ofCode (f.imm.toNat % 16) = some ts → ok f.ty → s.LaneGoes f (row f) →
         s.unraised f (fun j => (r s f j).2) →
         Completes (.cvt f) s fun t => LaneEffect s t f (row f).d f.ty.wide 1 (fun j _ => (r s f j).1) (fun j => (r s f j).2) none
     -- from an integer
     cvt (fun t => t.isInt = true ∧ ts.isInt = true) (fun s f j => (if f.ty = ts then laneBits ts (src s f j) else laneInt f.ty f.sat (typedNat ts (src s f j)), 0))
     ∧ cvt (fun t => t.isBin = true ∧ ts.isInt = true) (fun s f j =>
         let d := (binFmt f.ty).deliver (s.roundB f) f.sat (Val.ofInt (typedNat ts (src s f j)))
         (BitVec.ofNat 64 d.1, d.2.setWidth 10))
     ∧ cvt (fun t => t = .d64 ∧ ts.isInt = true) (fun s f j => decResult (deliverD (s.roundD f) 0 (Val.ofInt (typedNat ts (src s f j)))))
     -- to an integer
     ∧ cvt (fun t => t.isInt = true ∧ ts.isBin = true) (fun s f j =>
         let r := cvtToInt f.ty (s.roundB f) f.sat ((binFmt ts).value (src s f j))
         (laneInt f.ty false r.1, r.2.setWidth 10))
     ∧ cvt (fun t => t.isInt = true ∧ ts = .d64) (fun s f j =>
         let r := cvtToInt f.ty (s.roundB f) f.sat (DVal.decode (src s f j)).value
         (laneInt f.ty false r.1, (r.2.setWidth 10) <<< 5))
     -- between binary formats
     ∧ cvt (fun t => t.isBin = true ∧ ts.isBin = true ∧ t ≠ ts) (fun s f j =>
         let v := (binFmt ts).value (src s f j)
         let d := (binFmt f.ty).deliver (s.roundB f) f.sat v
         (BitVec.ofNat 64 d.1, d.2.setWidth 10 ||| sigFlags false [v]))
     ∧ cvt (fun t => t.isBin = true ∧ t = ts) (fun s f j =>
         let v := (binFmt ts).value (src s f j)
         (BitVec.ofNat 64 (if v.isNan then (binFmt ts).nanBits else src s f j), sigFlags false [v]))
     -- from and to decimal64
     ∧ cvt (fun t => t.isBin = true ∧ ts = .d64) (fun s f j =>
         let v := (DVal.decode (src s f j)).value
         let d := (binFmt f.ty).deliver (s.roundB f) f.sat v
         (BitVec.ofNat 64 d.1, ((d.2.setWidth 10) <<< 5) ||| sigFlags true [v]))
     ∧ cvt (fun t => t = .d64 ∧ ts.isBin = true) (fun s f j =>
         let v := (binFmt ts).value (src s f j)
         let d := decResult (deliverD (s.roundD f) 0 v)
         (d.1, d.2 ||| sigFlags true [v]))
     ∧ cvt (fun t => t = .d64 ∧ ts = .d64) (fun s f j => (BitVec.ofNat 64 (DVal.decode (src s f j)).encode, sigFlags true [(DVal.decode (src s f j)).value])))
   ∧ (∀ (s : State) (f : LFields), (Instr.pack f).wf = true → s.LaneGoes f (rowSpans rowPack f.ty) →
       let fm := f.imm.toNat % 16
       let w := if fm < 4 then 16 else if fm < 8 then 8 else 4
       let lo := 2 * w * (f.imm.toNat / 16)
       let one := fun (x : W64) => packedPart f.ty fm (s.roundB f) f.sat (x.toNat % 2 ^ 32)
       let flags := fun (j : Nat) => (one (s.srcA f f.ty j)).2 ||| (one (s.srcB f f.ty j)).2
       s.unraised f flags → Completes (.pack f) s fun u => LaneEffect s u f 0 false 1 (fun j _ =>
         let old := (s.oldDest f .n32 j).toNat
         BitVec.ofNat 64 (old % 2 ^ lo + ((one (s.srcA f f.ty j)).1 + (one (s.srcB f f.ty j)).1 * 2 ^ w) * 2 ^ lo + old / 2 ^ (lo + 2 * w) * 2 ^ (lo + 2 * w))) flags none)
   ∧ (∀ (s : State) (f : LFields), (Instr.unpk f).wf = true → s.LaneGoes f (rowSpans rowUnpk f.ty) →
       let fm := f.imm.toNat % 16
       let w := if fm < 4 then 16 else if fm < 8 then 8 else 4
       let r := fun (j : Nat) => unpackedPart fm ((s.srcA f f.ty j).toNat / 2 ^ (w * (f.imm.toNat / 16)) % 2 ^ w)
       s.unraised f (fun j => (r j).2) → Completes (.unpk f) s fun u => LaneEffect s u f 0 false 1 (fun j _ => (r j).1) (fun j => (r j).2) none))

/-- R161, R162: the words of the special-function unit, the operands and results that R161's table fixes by rule, and the completion of the results. The model's choices in it: log entries 11, 43. -/
def Obligations.LaneSpecialFunctions : Prop :=
  let gives := fun (i : LFields → Instr) (row : LRow) (op : BinFmt → Rnd → Nat → Val → Val → Nat × Exc) =>
    SfuGives i row (fun s f j => BitVec.ofNat 64 (op (binFmt f.ty) (s.roundB f) (s.srcA f f.ty j).toNat (s.valA f j) (s.valB f j)).1)
      (fun s f j => (op (binFmt f.ty) (s.roundB f) (s.srcA f f.ty j).toNat (s.valA f j) (s.valB f j)).2.setWidth 10)
  gives .rcp rowSfu (fun b m _ a _ => sfuRcp b m a) ∧ gives .rsq rowSfu (fun b m _ a _ => sfuRsq b m a) ∧ gives .sqrt rowSfu64 (fun b m _ a _ => sfuSqrt b m a)
  ∧ gives .div rowDiv (fun b m _ a c => sfuDiv b m a c) ∧ gives .exp2 rowSfu (fun b m x a _ => sfuExp2 b m x a) ∧ gives .log2 rowSfu (fun b m x a _ => sfuLog2 b m x a)
  ∧ gives .sinpi rowSfu (fun b m x a _ => sfuSinpi b m x a) ∧ gives .cospi rowSfu (fun b m x a _ => sfuCospi b m x a)
  ∧ (∀ (b : BinFmt) (m : Rnd) (key : Nat) (g : Bool) (n d : Nat), 0 < d →
      let zero := Val.num g 0 d
      let below := Val.num true (n + 1) d
      let nan := (b.nanBits, excI)
      let inf := fun (g : Bool) => b.infOut g false
      let quiet := fun (x : Nat) => (x, excNone)
      sfuRcp b m zero = (inf g, excZ) ∧ sfuRcp b m (.inf g) = quiet (b.signed g 0)
      ∧ sfuRsq b m zero = quiet (inf g) ∧ sfuRsq b m below = nan ∧ sfuRsq b m (.inf true) = nan ∧ sfuRsq b m (.inf false) = quiet 0
      ∧ sfuSqrt b m zero = quiet (b.signed g 0) ∧ sfuSqrt b m below = nan ∧ sfuSqrt b m (.inf true) = nan ∧ sfuSqrt b m (.inf false) = quiet (inf false)
      ∧ (∀ h, sfuDiv b m (.num h (n + 1) d) zero = (inf (h != g), excZ) ∧ sfuDiv b m (.num h 0 d) zero = nan ∧ sfuDiv b m (.inf h) (.inf g) = nan)
      ∧ sfuExp2 b m key (.inf true) = quiet 0 ∧ sfuExp2 b m key (.inf false) = quiet (inf false) ∧ sfuExp2 b m key zero = b.round m false false 1 1
      ∧ sfuLog2 b m key zero = (inf true, excZ) ∧ sfuLog2 b m key below = nan ∧ sfuLog2 b m key (.inf false) = quiet (inf false) ∧ sfuLog2 b m key (.num false d d) = quiet 0
      ∧ sfuSinpi b m key (.num g (n * d) d) = quiet (b.signed g 0) ∧ sfuSinpi b m key (.inf g) = nan
      ∧ sfuCospi b m key (.num g ((2 * n + 1) * d) (2 * d)) = quiet 0 ∧ sfuCospi b m key (.inf g) = nan
      ∧ ∀ sig, let r := (b.nanBits, if sig then excI else excNone)
        sfuRcp b m (.nan sig) = r ∧ sfuRsq b m (.nan sig) = r ∧ sfuSqrt b m (.nan sig) = r ∧ sfuDiv b m (.nan sig) zero = r ∧ sfuDiv b m zero (.nan sig) = r
        ∧ sfuExp2 b m key (.nan sig) = r ∧ sfuLog2 b m key (.nan sig) = r ∧ sfuSinpi b m key (.nan sig) = r ∧ sfuCospi b m key (.nan sig) = r)
  ∧ ∀ (s : State) (x : SfuOp) (rest : List SfuOp), s.pod.live = true → s.pod.sfu = x :: rest → Completes (.sfuComplete s.pod.key) s fun t =>
      t.pod.sfu = rest ∧ t.pod.fsr = s.pod.fsr ||| x.flags ∧ { t with pod := { t.pod with sfu := s.pod.sfu, v := s.pod.v, o := s.pod.o, fsr := s.pod.fsr } } = s
      ∧ (∀ n, (∀ e ∈ x.vw, e.1 ≠ n) → NMap.get t.pod.v n = NMap.get s.pod.v n) ∧ (∀ n, (∀ e ∈ x.ow, e.1 ≠ n) → NMap.get t.pod.o n = NMap.get s.pod.o n)
      ∧ ((x.vw.map (·.1)).Nodup → ∀ e ∈ x.vw, NMap.get t.pod.v e.1 = e.2) ∧ ((x.ow.map (·.1)).Nodup → ∀ e ∈ x.ow, NMap.get t.pod.o e.1 = e.2)

/-- R166 to R171: decimal64 lane words: exact results rounded once with the preferred exponent, quantizing, scaling, compares, and conversion between the two encodings. -/
def Obligations.LaneDecimals : Prop :=
  let two := fun (i : LFields → Instr) (g : Rnd → DVal → DVal → DVal × Exc) => LaneComputes i rowDec2 (fun s f j => decResult (g (s.roundD f) (s.decA f j) (s.decB f j)))
  let near := fun (m : Rnd) (q : Int) (r : Val × Exc) => ((deliverD m q r.1).1, (deliverD m q r.1).2 ||| r.2)
  two .dadd (fun m a b => near m (min a.exponent b.exponent) (a.value.add m b.value))
  ∧ two .dsub (fun m a b => near m (min a.exponent b.exponent) (a.value.add m b.value.negate))
  ∧ two .dmul (fun m a b => near m (a.exponent + b.exponent) (a.value.mul b.value))
  ∧ two .ddiv (fun m a b => near m (if b.isInf then dQmin else a.exponent - b.exponent) (a.value.div b.value))
  ∧ LaneComputes .dfma rowDfma (fun s f j => decResult (near (s.roundD f) (min ((s.decA f j).exponent + (s.decB f j).exponent) (s.decC f j).exponent)
      ((s.decA f j).value.fma (s.roundD f) (s.decB f j).value (s.decC f j).value)))
  ∧ two .dqua dQuantize
  ∧ LaneComputes .dscb rowDscb (fun s f j => decResult (dScale (s.roundD f) (s.decA f j) ((s.srcB f .i32 j).setWidth 32).toInt))
  ∧ LaneTests .dcmp (fun f => rowSpans rowDcmp f.ty) (fun s f j => (holdsCond (f.imm.toNat % 8) (s.decA f j).value (s.decB f j).value).1)
      (fun s f j => if (holdsCond (f.imm.toNat % 8) (s.decA f j).value (s.decB f j).value).2 then 0x20 else 0)
  ∧ LaneComputes .dcvt rowDcvt (fun s f j =>
      if f.imm.toNat % 2 = 0 then (BitVec.ofNat 64 (s.decA f j).encodeDpd, sigFlags true [(s.decA f j).value])
      else let v := DVal.decodeDpd (s.srcA f .d64 j).toNat
        (BitVec.ofNat 64 v.encode, sigFlags true [v.value]))

/-- R177 to R181: REDP gives every active lane the value of a fixed binary tree over the active lanes, a NaN canonical; the algebra words sum the products that their slot's table names, each component rounded once. The model's choices in it: log entries 42, 44. -/
def Obligations.LaneReductions : Prop :=
  (let leaf := fun (s : State) (f : LFields) (j : Nat) => if (s.active f).getLsbD j then some (laneBits f.ty (s.bitsA f j)) else none
   let comb := fun (s : State) (f : LFields) => redStep f.ty f.sat (s.roundB f) (f.imm.toNat % 8)
   LaneGives .redp (fun f => rowSpans rowRedp f.ty) (fun s f _ =>
       let y := (redNode (comb s f) (leaf s f) 5 0).getD 0
       if f.ty.isInt = false ∧ ((binFmt f.ty).value y.toNat).isNan = true then BitVec.ofNat 64 (binFmt f.ty).nanBits else y)
     (fun s f j => (List.range 5).foldl (fun e l => e ||| redFlags (comb s f) (leaf s f) l j) 0))
  ∧ (let span := fun (f : LFields) => 2 ^ (f.imm.toNat / 2 ^ 5 % 4) * (if f.ty.wide then 2 else 1) - 1
     let d := fun (f : LFields) => 2 ^ (f.imm.toNat / 2 ^ 5 % 4)
     let bit := fun (f : LFields) (i : Nat) => decide (f.imm.toNat / 2 ^ i % 2 = 1)
     let prods := fun (s : State) (f : LFields) (g : AlgTable) (j k : Nat) =>
       let a := fun (i : Nat) => conjIf (bit f 3) g i (s.comp f f.a j i)
       let b := fun (i : Nat) => conjIf (bit f 4) g i (s.comp f f.b j i)
       if bit f 2 then tableProducts g (d f) k b a else tableProducts g (d f) k a b
     AlgGives .amul (fun f => ⟨span f, some (span f), some (span f), none⟩) d (fun s f g j k => algSum f.ty (s.roundB f) (prods s f g j k))
     ∧ AlgGives .afma (fun f => ⟨span f, some (span f), some (span f), some (span f)⟩) d (fun s f g j k =>
         algSum f.ty (s.roundB f) (prods s f g j k ++ [(s.comp f f.c j k, excOf [s.comp f f.c j k])]))
     ∧ AlgGives .aconj (fun f => ⟨span f, some (span f), none, none⟩) d (fun s f g j k =>
         (BitVec.ofNat 64 ((binFmt f.ty).deliver .rn false (conjIf true g k (s.comp f f.a j k))).1, sigFlags false [s.comp f f.a j k]))
     ∧ AlgGives .anorm (fun f => ⟨wideSpan f.ty.wide, some (span f), none, none⟩) (fun _ => 1) (fun s f g j _ =>
         algSum f.ty (s.roundB f) (tableProducts g (d f) 0 (fun i => s.comp f f.a j i) (fun i => conjIf true g i (s.comp f f.a j i)))))

/-! ## Lane memory -/

/-- R182, R184 to R186: LDS and STS reach the window lane by lane, the highest lane winning a shared byte; with the full-empty bits LDS waits for full granules and may empty them, STS fills them; the lanes that fail a check are in tmask, and the lowest one's offset in taddr. R182 to R185: LD through the L1, which one lane's miss fills, and LDK through the K-cache deliver each lane's bytes; ST performs in the core, and ST.rel of dev or sys publishes its bytes and goes on when that is complete; misaligned lanes trap. The model's choices in it: log entry 46. -/
def Obligations.LaneLoadsAndStores : Prop :=
  (∀ (s : State) (f : LFields), s.pod.lTxn = Txn.empty →
     let n := f.ty.bits / 8
     let e := s.laneOffset f
     let on := fun (j : Nat) => (s.active f).getLsbD j
     let fe := f.imm.getLsbD 19
     let touched := fun (g : Nat) => (List.range 32).any fun j => on j && decide (e j / 16 = g)
     let good := ∀ j < 32, on j = true → e j % n = 0 ∧ e j + n ≤ s.wg.grant.scratch
     ((Instr.lds f).wf = true → s.LaneGoes f (rowSpans rowLoadS f.ty) → good →
       (∀ j < 32, on j = true → poisoned s.wg.scratchPoison (e j) n = false) →
       ((fe = true → ∀ j < 32, on j = true → NMap.get s.wg.fe (e j / 16) ≠ 0) → Completes (.lds f) s fun t =>
         LaneEffect s { t with wg := { t.wg with fe := s.wg.fe } } f (rowSpans rowLoadS f.ty).d f.ty.wide 1
           (fun j _ => laneBits f.ty (leValue (NMap.bytes s.wg.scratch (e j) n))) (fun _ => 0) none
         ∧ ∀ g, NMap.get t.wg.fe g = if fe && f.imm.getLsbD 18 && touched g then 0 else NMap.get s.wg.fe g)
       ∧ (fe = true → (∃ j < 32, on j = true ∧ NMap.get s.wg.fe (e j / 16) = 0) → Completes (.lds f) s fun t =>
         t.pod.lHeld = true ∧ t.pod.lFe = true ∧ { t with pod := { t.pod with lHeld := s.pod.lHeld, lFe := s.pod.lFe } } = s))
     ∧ ((Instr.sts f).wf = true → s.LaneGoes f (rowSpans rowStoreS f.ty) → good → s.wg.objects = [] → Completes (.sts f) s fun t =>
         LaneSteps s { t with wg := { t.wg with scratch := s.wg.scratch, scratchPoison := s.wg.scratchPoison, fe := s.wg.fe } } f
         ∧ (∀ x, NMap.get t.wg.scratch x = match ((List.range 32).filter fun j => on j && decide (e j ≤ x ∧ x < e j + n)).getLast? with
             | some j => wordByte (s.srcC f f.ty j) (x - e j)
             | none => NMap.get s.wg.scratch x)
         ∧ ∀ g, NMap.get t.wg.fe g = if fe && touched g then 1 else NMap.get s.wg.fe g)
     ∧ (∀ (mask : W32) (cause : Cause) (j : Nat), s.canTrap → s.pod.sTxn.sent = false →
         ((∀ i < 32, mask.getLsbD i = (on i && decide (e i % n ≠ 0))) ∧ cause = .misalign
           ∨ (∀ i < 32, on i = true → e i % n = 0) ∧ (∀ i < 32, mask.getLsbD i = (on i && decide (s.wg.grant.scratch < e i + n))) ∧ cause = .xlateAbsent) →
         j < 32 → mask.getLsbD j = true → (∀ i < j, mask.getLsbD i = false) →
         ((Instr.lds f).wf = true → s.LaneGoes f (rowSpans rowLoadS f.ty) → TrapsL (.lds f) s cause mask (BitVec.ofNat 64 (e j)))
         ∧ ((Instr.sts f).wf = true → s.LaneGoes f (rowSpans rowStoreS f.ty) → TrapsL (.sts f) s cause mask (BitVec.ofNat 64 (e j)))))
  ∧
  (∀ (s : State) (f : LFields), s.pod.lTxn = Txn.empty →
     let n := f.ty.bits / 8
     let e := s.laneFlat f
     let on := fun (j : Nat) => (s.active f).getLsbD j
     let place := fun (j : Nat) => s.checkFlat s.core.n s.wg.ctx (e j) n false
     let stands := fun (t : State) => t.pods = s.pods ∧ t.wgs = s.wgs ∧ SameMemory s t
     (∀ loc : Nat → Loc, (∀ j < 32, on j = true → place j = .ok (loc j) ∧ (loc j).key % 128 + n ≤ 128 ∧ s.CleanLine (loc j)) →
       ((Instr.ld f).wf = true → s.LaneGoes f (rowSpans rowLoad f.ty) → (f.imm.getLsbD 22 = true → s.core.shelf = []) →
         (∀ j < 32, on j = true → s.core.allValid (loc j).line ((loc j).key % 128) n = true ∧ poisoned s.core.l1Poison (loc j).key n = false) →
         Completes (.ld f) s fun t =>
           LaneEffect s (s.ownOf t) f (rowSpans rowLoad f.ty).d f.ty.wide 1
             (fun j _ => laneBits f.ty (leValue ((List.range n).map fun i => s.ownView ((loc j).key + i)))) (fun _ => 0) none ∧ stands t)
       ∧ (∀ j, (Instr.ld f).wf = true → s.LaneGoes f (rowSpans rowLoad f.ty) → (f.imm.getLsbD 22 = true → s.core.shelf = []) → s.oneLane f j →
           s.readyLine (loc j) n → s.unmarked (loc j) n → Completes (.ld f) s fun t =>
             LaneEffect s (s.ownOf t) f (rowSpans rowLoad f.ty).d f.ty.wide 1
               (fun _ _ => laneBits f.ty (leValue ((List.range n).map fun i => s.ownView ((loc j).key + i)))) (fun _ => 0) none ∧ stands t)
       ∧ ∀ k : Nat → List Byte, (Instr.ldk f).wf = true → s.LaneGoes f (rowSpans rowLoad f.ty) →
         (∀ j < 32, on j = true → alookup (loc j).line s.core.kcache = some (k j) ∧ (k j).length = 128) →
         Completes (.ldk f) s fun t =>
           LaneEffect s (s.ownOf t) f (rowSpans rowLoad f.ty).d f.ty.wide 1
             (fun j _ => laneBits f.ty (leValue ((List.range n).map fun i => (k j).getD ((loc j).key % 128 + i) 0))) (fun _ => 0) none ∧ stands t)
     ∧ (∀ j l, (Instr.st f).wf = true → s.LaneGoes f (rowSpans rowStore f.ty) → s.oneLane f j →
         s.checkFlat s.core.n s.wg.ctx (e j) n true = .ok l → l.key % 128 + n ≤ 128 → s.CleanLine l → s.core.l1.length < Config.l1Ways →
         let scope := f.imm.toNat / 2 ^ 20 % 4
         let performed := fun (t : State) => stands t
           ∧ (∀ i < n, t.core.byteOf l.line (l.key % 128 + i) = some (wordByte (s.srcC f f.ty j) i) ∧ t.core.dirtyAt l.line (l.key % 128 + i) = true)
           ∧ ∀ line off, (line ≠ l.line ∨ off < l.key % 128 ∨ l.key % 128 + n ≤ off) → t.core.byteOf line off = s.core.byteOf line off
         (scope < 2 → Completes (.st f) s fun t => LaneSteps s (s.ownOf t) f ∧ performed t)
         ∧ (2 ≤ scope → l.tracked = true → lineFar l.line = false → s.core.dirtyLines = [] → (∀ p ∈ s.pubs, p.core ≠ s.core.n) → s.pod.daubOut = 0 → (scope = 3 → s.farAcked s.core.n = true) →
           Completes (.st f) s fun t => performed t ∧ t.pod.lHeld = true ∧ t.pod.lTxn.phase = 3 ∧ { t.pod with lHeld := s.pod.lHeld, lTxn := s.pod.lTxn } = s.pod
             ∧ ∃ p ∈ t.pubs, t.pod.lTxn.pub = some p.id ∧ p.core = s.core.n ∧ p.parts.map (·.line) = [l.line]))
     ∧ (∀ (mask : W32) (j : Nat), s.canTrap → s.pod.sTxn.sent = false →
         (∀ i < 32, on i = true → (e i).toNat < 2 ^ 54 ∧ s.walkBusy s.core.n s.wg.ctx (e i).toNat = false) →
         (∀ i < 32, mask.getLsbD i = (on i && decide ((e i).toNat % n ≠ 0))) → j < 32 → mask.getLsbD j = true → (∀ i < j, mask.getLsbD i = false) →
         ((Instr.ld f).wf = true → s.LaneGoes f (rowSpans rowLoad f.ty) → TrapsL (.ld f) s .misalign mask (e j) ∧ TrapsL (.ldk f) s .misalign mask (e j))
         ∧ ((Instr.st f).wf = true → s.LaneGoes f (rowSpans rowStore f.ty) → TrapsL (.st f) s .misalign mask (e j))))
  ∧
  (∀ (s : State) (f : LFields) (j : Nat) (x : W64) (l : Loc), (Instr.st f).wf = true → s.LaneGoes f (rowSpans rowStore f.ty) → 2 ≤ f.imm.toNat / 2 ^ 20 % 4 → s.oneLane f j →
     s.pod.lTxn.phase = 3 → s.pod.lTxn.replies = [(j, x)] → s.pod.lTxn.locs = [(s.laneFlat f j, l)] → (∀ p, s.pod.lTxn.pub = some p → s.pubDone s.core.n p = true) →
     (f.imm.toNat / 2 ^ 20 % 4 = 3 → s.farAcked s.core.n = true) →
     Completes (.st f) s fun t => LaneSteps s (s.ownOf t) f ∧ SameMemory s t ∧ t.pods = s.pods ∧ t.wgs = s.wgs)

/-- R321, R322, R324, R327, R328, R449 to R451: ATOM on the window in every active lane and on memory in one, in every order and scope; DAUB of one lane to the cores that it names in each of its modes; WST of one lane to a group. A release has nothing to publish or to wait for, an acquire finds an empty shelf. The model's choices in it: log entry 72. -/
def Obligations.LaneAtomics : Prop :=
  ∀ (s : State) (f : LFields), s.pod.lTxn = Txn.empty → s.pod.live = true → s.pod.coat = none →
    let order := f.imm.toNat / 2 ^ 22
    (2 ≤ order → s.core.dirtyLines = [] ∧ (∀ p ∈ s.pubs, p.core ≠ s.core.n) ∧ s.pod.daubOut = 0 ∧ (f.imm.toNat / 2 ^ 20 % 4 = 3 → s.farAcked s.core.n = true)) →
    (order % 2 = 1 → s.core.shelf = []) →
    let n := f.ty.bits / 8
    let on := fun (j : Nat) => (s.active f).getLsbD j
    let free := s.core.l1 = [] ∧ s.core.stash = [] ∧ s.core.shelf = [] ∧ s.core.fills = [] ∧ s.proxies = [] ∧ s.guests = [] ∧ ∀ p ∈ s.pubs, p.core ≠ s.core.n
    let ends := fun (t : State) (x : Nat → Nat) =>
      if f.dest = .none then LaneSteps s t f
      else LaneEffect s t f (wideSpan f.ty.wide) f.ty.wide 1 (fun j _ => BitVec.ofNat 64 (x j)) (fun _ => 0) none
    (∀ op, AtomOp.ofCode (f.imm.toNat / 2 ^ 15 % 2 ^ 4) = some op → (Instr.atom f).wf = true → s.LaneGoes f (atomSpans f) →
      let b := fun (j : Nat) => (s.srcB f f.ty j).toNat % 2 ^ f.ty.bits
      let c := fun (j : Nat) => (s.srcC f f.ty j).toNat % 2 ^ f.ty.bits
      (f.imm.getLsbD 19 = true →
        let e := fun (j : Nat) => (s.srcA f .n32 j).toNat % 2 ^ 32
        let x := fun (j : Nat) => leValue (NMap.bytes s.wg.scratch (e j) n)
        (∀ j < 32, on j = true → e j % n = 0 ∧ e j + n ≤ s.wg.grant.scratch ∧ poisoned s.wg.scratchPoison (e j) n = false) → s.wg.objects = [] →
        (∀ i < 32, ∀ j < 32, on i = true → on j = true → e i = e j → i = j) →
        Completes (.atom f) s fun t =>
          (let t' : State := { t with wg := { t.wg with scratch := s.wg.scratch, scratchPoison := s.wg.scratchPoison } }
           ends (if order % 2 = 1 then s.ownOf t' else t') x) ∧ SameMemory s t ∧ t.pods = s.pods
          ∧ (∀ j < 32, on j = true → AtomicGives op f.ty (x j) (b j) (c j) (leValue (NMap.bytes t.wg.scratch (e j) n)))
          ∧ ∀ y, (∀ j < 32, on j = true → y < e j ∨ e j + n ≤ y) → NMap.get t.wg.scratch y = NMap.get s.wg.scratch y)
      ∧ (∀ j l, f.imm.getLsbD 19 = false → s.oneLane f j → s.checkFlat s.core.n s.wg.ctx (s.srcA f .n64 j) n true = .ok l → s.PlainHome l n → free →
        let x := leValue (NMap.bytes s.mem l.key n)
        Completes (.atom f) s fun t =>
          ends (s.ownOf t) (fun _ => x) ∧ AtomicGives op f.ty x (b j) (c j) (leValue (NMap.bytes t.mem l.key n)) ∧ SameMemoryBut l.key n s t ∧ t.pods = s.pods))
    ∧ (∀ j l, (Instr.daub f).wf = true → s.LaneGoes f (daubSpans f) → s.oneLane f j →
        s.checkFlat s.core.n s.wg.ctx (BitVec.ofInt 64 ((s.srcA f .n64 j).toInt + (f.imm.setWidth 16 : BitVec 16).toInt)) n true = .ok l → s.PlainHome l n → free →
        poisoned s.poison (l.line * 128) 128 = false →
        let b := (s.srcB f .n32 0).toNat % 2 ^ 32
        let named : List Nat := match f.imm.toNat / 2 ^ 18 % 4 with
          | 0 => (List.range 72).filter (· = b)
          | 1 => (List.range 72).filter (· / 4 = b)
          | _ => (List.range 72).filter fun c => decide (8 * (f.imm.toNat / 2 ^ 17 % 2) ≤ c) && (s.srcB f .n64 0).getLsbD (c - 8 * (f.imm.toNat / 2 ^ 17 % 2))
        Completes (.daub f) s fun t =>
          LaneSteps s (s.ownOf { t with pod := { t.pod with daubOut := s.pod.daubOut } }) f ∧ t.pod.daubOut = s.pod.daubOut + named.length
          ∧ NMap.bytes t.mem l.key n = storedBytes (s.srcC f f.ty j) n ∧ SameMemoryBut l.key n s t ∧ t.pods = s.pods
          ∧ (let h := (s.touchHome l).homeD l.line
             let data := NMap.bytes t.mem (l.line * 128) 128
             let cores := named.map (s.core.n / 72 * 72 + ·)
             if s.core.n / 72 = h.die then ∀ c ∈ cores, Msg.daubCopy c l.line (h.daubSeq + 1) data s.pod.key ∈ t.inflight
             else cores ≠ [] → Msg.relayedCopy (s.core.n / 72) l.line (h.daubSeq + 1) data s.pod.key cores ∈ t.inflight))
    ∧ (∀ j l, (Instr.wst f).wf = true → s.LaneGoes f (rowSpans rowStore f.ty) → s.oneLane f j →
        s.checkFlat s.core.n s.wg.ctx (s.laneFlat f j) n true = .ok l → l.tracked = true → lineFar l.line = false → l.key % 128 + n ≤ 128 →
        let g := f.imm.toNat / 2 ^ 16 % 2 ^ 6
        let x := s.groupOf s.wg.ctx g
        let line : LineBytes := ((List.range n).map fun i => (l.key % 128 + i)).zip (storedBytes (s.srcC f f.ty j) n)
        Completes (.wst f) s fun t =>
          LaneSteps s (s.ownOf t) f ∧ t.mem = s.mem ∧ t.pods = s.pods ∧ t.inflight = s.inflight ++ [.wetStoreMessage ⟨s.dev, s.wg.ctx, g, x.epoch⟩ l.line line]
          ∧ (t.groupOf s.wg.ctx g).epoch = x.epoch
          ∧ (∀ d, (alookup d (t.groupOf s.wg.ctx g).counts).getD 0 = (alookup d x.counts).getD 0 + if d = s.dev then 1 else 0))

/-- R24, R91 to R96, R187: LEND ends its block, LNOP only goes on, and a paired word reads both halves before either writes, the second half's result entering the latches after the first's. -/
def Obligations.LaneStream : Prop :=
  (∀ (s : State) (h : Bool), s.pod.sfu = [] → Completes (.lend h) s fun t =>
    t.pod.queue = s.pod.queue.tail ∧ t.pod.lHeld = false ∧ t.pod.lFe = false ∧ t.pod.lTxn = Txn.empty
    ∧ { t with pod := { t.pod with queue := s.pod.queue, lHeld := s.pod.lHeld, lFe := s.pod.lFe, lTxn := s.pod.lTxn } } = s)
  ∧ (∀ (s : State) (h neg : Bool) (k : Fin 16), s.pod.queue ≠ [] → Completes (.lnop h neg k) s fun t =>
    t.pod.queue = s.afterRep h 0 0 ∧ t.pod.lHeld = false ∧ t.pod.lFe = false ∧ t.pod.lTxn = Txn.empty
    ∧ { t with pod := { t.pod with queue := s.pod.queue, lHeld := s.pod.lHeld, lFe := s.pod.lFe, lTxn := s.pod.lTxn } } = s)
  ∧ ∀ (s : State) (h : Bool) (x y : Half), (Instr.pairedWord h x y).wf = true → s.pod.queue ≠ [] → s.pod.sfu = [] →
    (∀ n ∈ x.vReads ++ y.vReads ++ x.vDests ++ y.vDests, s.granted n = true) → s.block.rep = 0 →
    ((latched x.a || latched x.b || latched y.a || latched y.b) = true → 1 ≤ s.block.hRun ∧ s.block.hRun ≤ 8) →
    let on := fun (z : Half) (j : Nat) => ((s.readK z.k.val).getLsbD j != z.neg) && s.pod.liveMask.getLsbD j
    let flags := fun (j : Nat) => (if on x j then (s.pairGives x j).2 else 0) ||| (if on y j then (s.pairGives y j).2 else 0)
    (∀ j < 32, s.pod.ten &&& flags j = 0) → Completes (.pairedWord h x y) s fun t =>
      (∀ n j, j < 32 → t.pod.readV n j =
        (let half := fun (z : Half) (old : W32) => if on z j then laneWord (pairV z) z.ty.wide 1 (fun _ => (s.pairGives z j).1) n old else old
         half y (half x (s.pod.readV n j))))
      ∧ (∀ n j, j < 32 → t.pod.readO n j =
        (let half := fun (z : Half) (old : W32) => if on z j then laneWord (pairO z) z.ty.wide 1 (fun _ => (s.pairGives z j).1) n old else old
         half y (half x (s.pod.readO n j))))
      ∧ (∀ j < 32, NMap.get t.pod.b j = (if on y j then (s.pairGives y j).1 else 0) ∧ NMap.get t.pod.b (32 + j) = (if on x j then (s.pairGives x j).1 else 0)
          ∧ NMap.get t.pod.b (64 + j) = NMap.get s.pod.b j ∧ NMap.get t.pod.b (96 + j) = NMap.get s.pod.b (32 + j))
      ∧ (∀ i < 10, t.pod.fsr.getLsbD i = (s.pod.fsr.getLsbD i || (List.range 32).any fun j => (flags j).getLsbD i))
      ∧ t.pod.queue = s.afterRep h 0 0 ∧ t.pod.lHeld = false ∧ t.pod.lFe = false ∧ t.pod.lTxn = Txn.empty
      ∧ (t.pod.coat = if (x.vDests ++ y.vDests).any s.pod.liveInV then none else s.pod.coat)
      ∧ { t with
          pod := { t.pod with v := s.pod.v, bankV := s.pod.bankV, o := s.pod.o, b := s.pod.b, fsr := s.pod.fsr, queue := s.pod.queue, lHeld := s.pod.lHeld,
                              lFe := s.pod.lFe, lTxn := s.pod.lTxn, coat := s.pod.coat }
          wg := { t.wg with journal := s.wg.journal } } = s

/-! ## Messages of homes, cores and controllers -/

/-- R301, R304, R346, R348, R349: the steps of a publication: a home takes bytes as pending and sends notices, a shelf takes a notice, the last acknowledgement reports, the core commits, the home merges the bytes in one step, and the core marks them clean. R274 to R277, R280, R285, R346, R349: fills, evictions of tracked and of untracked lines, the invalidation of a guest copy, and a write-back to HBM4E. The model's choices in it: log entries 7, 9, 10, 84. -/
def Obligations.PublicationsAndFills : Prop :=
  ((∀ (s : State) (p : Publication) (q : PubPart) (h : HomeLine), s.OneLine p q h →
     let serves : List Msg := if h.waiting = [] then [] else [.homeServe q.line]
     let free := h.dir = .home ∨ h.dir = .priv ∨ ∃ d, h.dir = .owned d
     let diesOf' := fun (ds : List Nat) => ∀ d, d ∈ ds ↔ d ≠ h.die ∧ ∃ c ∈ h.after, c / 18 = d
     (q.stage = .sending → h.op = .idle → h.waiting = [] → h.dir = .home → p.core / 72 = h.die → p.core < 288 → Completes (.pendingBytes p.id q.line) s fun t =>
       let ms := h.messages [p.core]
       LineStep s t { h with op := .pending p.id, spare := [p.core], acks := ms.length + 1, after := [p.core / 4], pend := q.bytes }
         [{ p with parts := [{ q with stage := .pending }] }] (ms ++ [.noticeAcknowledge q.line]) ∧ t.core = s.core ∧ SameMemory s t)
     ∧ (h.op ≠ .idle ∨ h.waiting ≠ [] → q.stage = .sending → Completes (.pendingBytes p.id q.line) s fun t =>
       LineStep s t { h with waiting := h.waiting ++ [.pendingBytes p.id q.line] } s.pubs [] ∧ t.core = s.core ∧ SameMemory s t)
     ∧ (1 < h.acks → Completes (.noticeAcknowledge q.line) s fun t => LineStep s t { h with acks := h.acks - 1 } s.pubs [] ∧ t.core = s.core ∧ SameMemory s t)
     ∧ (h.acks = 1 → h.op = .pending p.id → Completes (.noticeAcknowledge q.line) s fun t =>
       LineStep s t { h with acks := 0, op := .reported p.id } s.pubs [.homeReport p.id q.line] ∧ t.core = s.core ∧ SameMemory s t)
     ∧ (h.acks = 1 → h.op = .notifying → free → Completes (.noticeAcknowledge q.line) s fun t => ∃ ds, diesOf' ds
       ∧ LineStep s t { h with acks := 0, op := .idle, spare := [], answers := [], clusters := h.after, guests := [], dies := ds } s.pubs
           ((h.answers.map fun a => Msg.daubAnswer a.1 q.line a.2) ++ serves) ∧ t.core = s.core ∧ SameMemory s t)
     ∧ (q.stage = .pending → Completes (.homeReport p.id q.line) s fun t =>
       LineStep s t h [{ p with parts := [{ q with stage := .committing }] }] [.commit p.id q.line] ∧ { t.core with windows := s.core.windows } = s.core ∧ SameMemory s t)
     ∧ (h.op = .reported p.id → free → (h.pend.map (·.1)).Nodup → (∀ e ∈ h.pend, e.1 < 128) → Completes (.commit p.id q.line) s fun t =>
       (∀ e ∈ h.pend, NMap.get t.mem (q.line * 128 + e.1) = e.2) ∧ (∀ x, (∀ e ∈ h.pend, x ≠ q.line * 128 + e.1) → NMap.get t.mem x = NMap.get s.mem x)
       ∧ (∃ ds, diesOf' ds ∧ t.homes = [{ h with op := .idle, spare := [], pend := [], clusters := h.after, guests := [], dies := ds }])
       ∧ t.inflight = s.inflight ++ .commitConfirm p.id q.line :: serves ∧ t.pubs = s.pubs ∧ Aside s t)
     ∧ (q.stage = .committing → p.core = s.core.n → s.core.n < 288 → s.hawk = [] → (s.core.stash.map (·.line)).Nodup → Completes (.commitConfirm p.id q.line) s fun t =>
       LineStep s t h [] [] ∧ SameMemory s t ∧ (∀ line off, t.core.byteOf line off = s.core.byteOf line off)
       ∧ (∀ o ∈ q.clean, t.core.dirtyAt q.line o = false ∧ t.core.stashByte q.line o = none)
       ∧ ∀ line off, line ≠ q.line ∨ off ∉ q.clean → t.core.dirtyAt line off = s.core.dirtyAt line off ∧ t.core.stashByte line off = s.core.stashByte line off))
   ∧ ∀ (s : State) (line : Nat),
     let ack := fun (t : State) => t.inflight = s.inflight ++ [.noticeAcknowledge line] ∧ Aside s t ∧ SameMemory s t ∧ t.cores = s.cores
       ∧ t.core.fills = s.core.fills.map fun f => { f with overtaken := f.overtaken || decide (f.line = line) }
     (∀ copy, s.core.shelf = [⟨line, copy⟩] → Completes (.notice s.core.n line) s fun t => t.core.shelf = [⟨line, none⟩] ∧ t.core.l1 = s.core.l1 ∧ ack t)
     ∧ ((∀ e ∈ s.core.shelf, e.line ≠ line) → s.core.shelf.length < 64 → Completes (.notice s.core.n line) s fun t =>
       t.core.shelf = s.core.shelf ++ [⟨line, none⟩] ∧ t.core.l1 = s.core.l1 ∧ ack t)
     ∧ ((∀ e ∈ s.core.shelf, e.line ≠ line) → 64 ≤ s.core.shelf.length → s.core.distinctLines → (∀ x, s.core.lineOf line = some x → x.tracked = true) → Completes (.notice s.core.n line) s fun t =>
       t.core.shelf = s.core.shelf ∧ ack t
       ∧ (∀ off, t.core.byteOf line off = if s.core.dirtyAt line off then s.core.byteOf line off else none)
       ∧ ∀ other off, other ≠ line → t.core.byteOf other off = s.core.byteOf other off))
  ∧
  ((∀ (s : State) (line : Nat) (b : Bool), lineFar line = false →
     (∀ f, s.homeIdle line = true → (s.homeD line).dir = .home → (∀ p ∈ s.proxies, p.line ≠ line) → (∀ g ∈ s.guests, g.line ≠ line) →
         poisoned s.poison (line * 128) 128 = false → s.core.fills = [f] → f.line = line → f.tracked = true → f.served = none →
       Completes (.fill ⟨s.core.n, line, b⟩) s fun t =>
         (∃ mark, t.inflight = s.inflight ++ [.fillReply s.core.n line (s.homeLineData line) mark])
         ∧ (∃ h : HomeLine, t.homeOf line = some h ∧ s.core.n / 4 ∈ h.clusters) ∧ Aside s t ∧ t.core = s.core ∧ SameMemory s t)
     ∧ (∀ h, s.homeOf line = some h → h.op ≠ .idle ∨ h.waiting ≠ [] → (∀ p ∈ s.proxies, p.line ≠ line) → Completes (.fill ⟨s.core.n, line, b⟩) s fun t =>
         t.homeOf line = some { h with waiting := h.waiting ++ [.fill ⟨s.core.n, line, b⟩] } ∧ t.inflight = s.inflight ∧ Aside s t ∧ t.core = s.core ∧ SameMemory s t)
     ∧ (∀ (data : List Byte) (f : FillState) (mark : Bool), data.length = 128 → s.core.fills = [f] → f.line = line → f.served = none →
         (f.overtaken = false → s.core.l1.length < Config.l1Ways → (∀ x, s.core.lineOf line = some x → x.tracked = f.tracked) → Completes (.fillReply s.core.n line data mark) s fun t =>
           (∀ off < 128, t.core.byteOf line off = some ((s.core.byteOf line off).getD ((if f.tracked then s.core.stashByte line off else none).getD (data.getD off 0))))
           ∧ (∀ other off, other ≠ line → t.core.byteOf other off = s.core.byteOf other off) ∧ (∀ other off, t.core.dirtyAt other off = s.core.dirtyAt other off)
           ∧ t.core.fills = [] ∧ Aside s t ∧ SameMemory s t)
         ∧ (f.overtaken = true → Completes (.fillReply s.core.n line data mark) s fun t =>
           t.core.fills = (if f.waiters = [] then [] else [{ f with served := some data }]) ∧ t.core.l1 = s.core.l1 ∧ Aside s t ∧ SameMemory s t))
     ∧ (∀ l, s.core.l1 = [l] → l.line = line → (l.bytes.map (·.1)).Nodup → (∀ e ∈ l.bytes, e.1 < 128) →
         (l.tracked = true → s.core.stash = [] → s.cores = [] → Completes (.evictionBytes s.core.n line) s fun t =>
           t.core.l1 = [] ∧ Aside s t ∧ SameMemory s t
           ∧ ∀ off, t.core.stashByte line off = if l.isDirty off then s.core.byteOf line off else none)
         ∧ (l.tracked = false → s.homeIdle line = true → (s.homeD line).dir = .home → s.proxies = [] → Completes (.untrackedWriteBack s.core.n line) s fun t =>
           t.core.l1 = [] ∧ t.core.stash = s.core.stash ∧ Aside s t
           ∧ (∀ off < 128, NMap.get t.mem (line * 128 + off) = if l.isDirty off then (s.core.byteOf line off).getD (NMap.get s.mem (line * 128 + off)) else NMap.get s.mem (line * 128 + off))
           ∧ ∀ a, a < line * 128 ∨ line * 128 + 128 ≤ a → NMap.get t.mem a = NMap.get s.mem a)))
   ∧ (∀ (s : State) (g : Guest) (h : HomeLine), s.guests = [g] → s.homes = [h] → h.line = g.line → Completes (.guestInvalidation g.sector g.line) s fun t =>
       let cs := coresOf g.clusters h.spare
       t.guests = [] ∧ t.homes = [{ h with acks := h.acks + cs.length, guests := h.guests.filter (· != g.sector) }]
       ∧ t.inflight = s.inflight ++ (cs.map fun c => Msg.notice c g.line) ++ [.noticeAcknowledge g.line] ∧ Aside s t ∧ t.core = s.core ∧ SameMemory s t)
   ∧ ∀ (s : State) (block : Nat),
       ((∀ e ∈ s.wbQueue, e.1 ≠ block) → block * 512 < Config.hostBase → Completes (.hbmWriteBack block) s fun t =>
         t.wbQueue = s.wbQueue ++ [(block, (List.range 512).map fun i => (i, s.homeByte (block * 512 + i)))] ∧ t.hbm = s.hbm ∧ t.hmeta = s.hmeta ∧ t.mem = s.mem
         ∧ Aside s t)
       ∧ (∀ bs : LineBytes, s.wbQueue = [(block, bs)] → (bs.map (·.1)).Nodup → (∀ e ∈ bs, e.1 < 512) → Completes (.hbmWriteBack block) s fun t =>
         t.wbQueue = [] ∧ (∀ e ∈ bs, NMap.get t.hbm (block * 512 + e.1) = e.2)
         ∧ (∀ a, (∀ e ∈ bs, a ≠ block * 512 + e.1) → NMap.get t.hbm a = NMap.get s.hbm a)
         ∧ (∀ c, c ≠ block → NMap.get t.hmeta c = NMap.get s.hmeta c)
         ∧ ((∀ i < 512, NMap.get t.hbm (block * 512 + i) = 0) → NMap.get t.hmeta block = codeKey 3)
         ∧ ((∃ i < 512, NMap.get t.hbm (block * 512 + i) ≠ 0) → NMap.get t.hmeta block ≠ codeKey 3 ∧ (s.blockCmp block = false → NMap.get t.hmeta block = codeKey 0)) ∧ t.mem = s.mem ∧ Aside s t))

/-- R413 to R422: ownership of a line moves to the die that publishes it, write-backs and merges return it, and a proxy relays notices; through all of them every committed byte reads as before. -/
def Obligations.CrossDieMessages : Prop :=
  (∀ (s : State) (p : Publication) (q : PubPart) (h : HomeLine) (d : Nat), s.OneLine p q h → q.stage = .sending → d = p.core / 72 → p.core < 288 →
    (h.op = .idle → h.waiting = [] → h.dir = .home → d ≠ h.die → (∀ x ∈ h.dies, x = d) → (∀ c ∈ h.clusters, c / 18 = d) → h.guests = [] → Completes (.pendingBytes p.id q.line) s fun t =>
      LineStep s t { h with op := .pending p.id, dir := .owned d, dies := [d] } s.pubs [.ownershipGrant d q.line p.id] ∧ SameMemory s t)
    ∧ (h.dir = .owned d → h.clusters = [] → h.dies = [d] → h.guests = [] → d ≠ h.die → Completes (.ownershipGrant d q.line p.id) s fun t =>
      t.proxies = [⟨q.line, d, .owned, (List.range 128).map fun o => (o, s.homeByte (q.line * 128 + o)), []⟩]
      ∧ LineStep s t { h with op := .pending p.id, spare := [p.core], acks := 2, after := [p.core / 4], pend := q.bytes }
          [{ p with parts := [{ q with stage := .pending }] }] [.relayedNotice d q.line, .noticeAcknowledge q.line] ∧ SameMemory s t))
  ∧ (∀ (s : State) (x : Proxy) (h : HomeLine), s.proxies = [x] → s.homes = [h] → x.line = h.line →
      (x.bytes.map (·.1)).Nodup → (∀ e ∈ x.bytes, e.1 < 128) →
      let same := fun (t : State) => Aside s t ∧ t.core = s.core ∧ SameMemory s t
      let serves : List Msg := if h.waiting = [] then [] else [.homeServe x.line]
      (x.kind = .owned ∨ x.kind = .priv →
        (h.op = .idle → h.waiting = [] → h.dir = .home ∨ h.dir = .priv ∨ (∃ d, h.dir = .owned d) → Completes (.ownerWriteBack x.die x.line) s fun t =>
          let bs := if x.kind = .owned then x.bytes.filter fun e => e.2 != NMap.get s.mem (x.line * 128 + e.1) else x.bytes
          t.proxies = [{ x with kind := .hold, bytes := bs }] ∧ t.homes = [{ h with dir := .wbWait x.die }]
          ∧ t.inflight = s.inflight ++ [.ownerBytes x.die x.line bs] ∧ same t)
        ∧ Completes (.recall x.die x.line) s (fun t => t = { s with inflight := s.inflight ++ [.recalledPart x.die x.line x.bytes] })
        ∧ (h.op = .idle → h.parts ≤ 1 → Completes (.recalledPart x.die x.line x.bytes) s fun t =>
          t.proxies = [] ∧ t.homes = [{ h with parts := 0, dir := .home, masks := [] }] ∧ t.inflight = s.inflight ++ serves ∧ same t)
        ∧ (1 < h.parts → Completes (.recalledPart x.die x.line x.bytes) s fun t =>
          t.proxies = [] ∧ t.homes = [{ h with parts := h.parts - 1 }] ∧ t.inflight = s.inflight ∧ same t))
      ∧ (x.kind = .hold → h.op = .idle → ∃ t, execOwnerBytes x.die x.line x.bytes s = .next t ∧ t.proxies = [{ x with bytes := [] }]
          ∧ t.homes = [{ h with dir := .home, masks := [] }] ∧ t.inflight = s.inflight ++ .writeBackAck x.die x.line :: serves ∧ same t)
      ∧ (x.kind = .hold → (∀ e ∈ x.bytes, NMap.get s.mem (x.line * 128 + e.1) = e.2) → Completes (.writeBackAck x.die x.line) s fun t => t.proxies = [] ∧ t.homes = s.homes ∧ t.inflight = s.inflight ++ x.waiting ∧ same t)
      ∧ (x.kind = .copy → Completes (.relayedNotice x.die x.line) s fun t =>
          let cs := coresOf (h.clusters.filter fun c => c / 18 == x.die) h.spare
          t.proxies = [] ∧ t.homes = [{ h with acks := h.acks + cs.length }]
          ∧ t.inflight = s.inflight ++ (cs.map fun c => Msg.notice c x.line) ++ [.noticeAcknowledge x.line] ∧ same t))
  ∧ ∀ (s : State) (r : FillReq) (h : HomeLine), s.homes = [h] → h.line = r.line → h.op = .idle → h.waiting = [] → (∀ p ∈ s.proxies, p.line = r.line → p.kind = .owned) →
      (∀ d, h.dir = .owned d → d ≠ r.core / 72 → Completes (.fill r) s fun t => t = { s with inflight := s.inflight ++ [.forwardedFill r] })
      ∧ (∀ d f, h.dir = .owned d → r.core = s.core.n → s.core.fills = [f] → f.line = r.line → f.tracked = true → f.served = none → lineFar r.line = false →
          (∀ g ∈ s.guests, g.line ≠ r.line) → poisoned s.poison (r.line * 128) 128 = false → Completes (.forwardedFill r) s fun t =>
        (∃ mark, t.inflight = s.inflight ++ [.fillReply r.core r.line (s.homeLineData r.line) mark])
        ∧ Aside s t ∧ t.core = s.core ∧ SameMemory s t)

/-! ## The front end -/

/-- R461 to R463, R485: a doorbell sets the tail and starts the command of the head entry, or stops the ring where the tail is too far ahead, the entry's sequence tag differs, or the entry is not well formed; it wakes an idle device. R463: the registers of ring 0: base and head are taken while the ring is disabled and read back without their reserved bits; enabling with a size in range makes ring 0, disabling drops it but for an entry that it is taking. R6, R475: a write to BAR0 reaches the register at its offset, the mailbox window keeps its bytes, and a write to MB_CMD starts its command. The model's choices in it: log entries 15, 86. -/
def Obligations.DoorbellsAndRegisters : Prop :=
  (∀ (s : State) (n : Fin 256) (r : Ring) (tail : W32) (e : List Byte), s.rings = [r] → r.n = n.val → r.conf = true → r.state = 0 → r.busy = false → r.waiting = none →
     s.homes = [] → s.proxies = [] → e = (List.range 64).map (fun i => NMap.get s.mem (r.base + 64 * (r.head.toNat % 2 ^ r.k) + i)) →
     let stops := fun (st : Nat) => Completes (.doorbell n tail) s fun t =>
       t.rings = [{ r with tail := tail, state := st }] ∧ NMap.bytes t.mem r.headAddr 8 = headBytes r.head st ∧ t.inflight = s.inflight ∧ Aside s t
       ∧ ∃ x ∈ t.skepin.log, x.code = 0x08 ∧ x.detail = [n.val, st, r.head.toNat].map (BitVec.ofNat 32)
     let size := (tail - r.head).toNat
     let tagged := num e 0 2 = (r.q.toNat + r.head.toNat) % 2 ^ 16
     (size = 0 → Completes (.doorbell n tail) s fun t =>
       t.rings = [{ r with tail := tail }] ∧ t.inflight = s.inflight ∧ Aside s t ∧ t.mem = s.mem ∧ t.skepin.pwr = if s.skepin.pwr = .idle then .p0 else s.skepin.pwr)
     ∧ (2 ^ r.k < size → stops 3)
     ∧ (size ≠ 0 → size ≤ 2 ^ r.k → ¬ tagged → stops 1)
     ∧ (size ≠ 0 → size ≤ 2 ^ r.k → tagged → entryOk n e = false → stops 2)
     ∧ (∀ m, size ≠ 0 → size ≤ 2 ^ r.k → tagged → entryOk n e = true → commandOf n (num e 2 1) = some m → Completes (.doorbell n tail) s fun t =>
       t.rings = [{ r with tail := tail, busy := true, entry := e }] ∧ t.inflight = s.inflight ++ [m] ∧ Aside s t ∧ t.mem = s.mem))
  ∧
  (∀ (s : State) (x : W64) (c : W32),
     (s.adm.en = false →
       Completes (.admBaseWrite x) s (fun t => t = { s with adm := { s.adm with base := BitVec.ofNat 64 (x.toNat % 2 ^ 52 / 2 ^ 12 * 2 ^ 12) } })
       ∧ Completes (.admHeadWrite x) s (fun t => t = { s with adm := { s.adm with head := BitVec.ofNat 64 (x.toNat % 2 ^ 52 / 2 ^ 3 * 2 ^ 3) } })
       ∧ Completes (.admCfgWrite c) s fun t =>
           t.adm.base = s.adm.base ∧ t.adm.head = s.adm.head ∧ t.adm.k.toNat = c.toNat / 2 ^ 16 % 2 ^ 5 ∧ t.adm.q.toNat = c.toNat % 2 ^ 16
           ∧ (let on := c.getLsbD 31 = true ∧ 3 ≤ c.toNat / 2 ^ 16 % 2 ^ 5 ∧ c.toNat / 2 ^ 16 % 2 ^ 5 ≤ 16
              let ending := ∃ r ∈ s.rings, r.n = 0 ∧ r.conf = false
              (on → t.adm.en = true ∧ (ending → t.rings = s.rings) ∧ (¬ ending → ∃ r ∈ t.rings, r.n = 0 ∧ r.conf = true ∧ r.base = s.adm.base.toNat ∧ r.headAddr = s.adm.head.toNat ∧ r.k = c.toNat / 2 ^ 16 % 2 ^ 5
                ∧ r.q.toNat = c.toNat % 2 ^ 16 ∧ r.tail = 0 ∧ r.head = 0 ∧ r.state = 0 ∧ r.busy = false))
              ∧ (¬ on → t.adm.en = false ∧ t.rings = s.rings))
           ∧ { t with adm := s.adm, rings := s.rings } = s)
     ∧ (s.adm.en = true →
       Completes (.admBaseWrite x) s (fun t => t = s) ∧ Completes (.admHeadWrite x) s (fun t => t = s)
       ∧ (c.getLsbD 31 = true → Completes (.admCfgWrite c) s fun t => t = s)
       ∧ (c.getLsbD 31 = false → Completes (.admCfgWrite c) s fun t =>
           { t with adm := s.adm, rings := s.rings } = s ∧ t.adm = { s.adm with en := false }
           ∧ ∀ r, r ∈ t.rings ↔ r.n ≠ 0 ∧ r ∈ s.rings ∨ r.n = 0 ∧ ∃ r0 ∈ s.rings, r0.busy = true ∧ r0.waiting = none ∧ r = { r0 with conf := false }))
     ∧ ∀ o : BitVec 20,
         (o ≠ 0x800 ∧ o ≠ 0x808 ∧ o ≠ 0x810 ∧ o ≠ 0x80000 ∧ ¬ (0x1000 ≤ o.toNat ∧ o.toNat < 0x1800 ∧ o.toNat % 8 = 0) → Completes (.registerWrite o x) s fun t =>
           { t with skepin := { t.skepin with window := s.skepin.window } } = s
           ∧ ∀ i, NMap.get t.skepin.window i = if i < 2 ^ 12 ∧ o.toNat ≤ 0x81000 + i ∧ 0x81000 + i < o.toNat + 8 then wordByte x (0x81000 + i - o.toNat)
               else NMap.get s.skepin.window i)
         ∧ (o = 0x80000 → x.getLsbD 31 = false → Completes (.registerWrite o x) s fun t =>
             t.skepin.op.toNat = x.toNat % 2 ^ 8 ∧ t.skepin.arg.toNat = x.toNat / 2 ^ 8 % 2 ^ 8 ∧ { t with skepin := { t.skepin with op := s.skepin.op, arg := s.skepin.arg } } = s)
         ∧ (o = 0x80000 → x.getLsbD 31 = true →
             let arg : Byte := BitVec.ofNat 8 (x.toNat / 2 ^ 8)
             let as' := fun (i : Instr) => exec (.registerWrite o x) s = exec i s
             (x.toNat % 2 ^ 8 = 2 → as' (.eventLog arg)) ∧ (x.toNat % 2 ^ 8 = 3 → as' (.imageChunk arg)) ∧ (x.toNat % 2 ^ 8 = 5 → as' (.powerRequest arg))
             ∧ (x.toNat % 2 ^ 8 = 7 → as' (.debugState arg)) ∧ (x.toNat % 2 ^ 8 = 8 → as' .warmResetCommand))
         ∧ (o = 0x800 → exec (.registerWrite o x) s = exec (.admBaseWrite x) s) ∧ (o = 0x808 → exec (.registerWrite o x) s = exec (.admHeadWrite x) s)
         ∧ (o = 0x810 → exec (.registerWrite o x) s = exec (.admCfgWrite (BitVec.ofNat 32 x.toNat)) s)
         ∧ ∀ n : Fin 256, o.toNat = 0x1000 + 8 * n.val → exec (.registerWrite o x) s = exec (.doorbell n (BitVec.ofNat 32 x.toNat)) s)

/-- R219, R220, R222, R294, R461, R464, R465: the ring commands Job end, Wait, Cancel, Translation invalidate and Descriptor invalidate, and on ring 0 Context create, Context end, Ring configure and Domain. The model's choices in it: log entries 15, 93, 94. -/
def Obligations.RingCommands : Prop :=
  (∀ (s : State) (n : Fin 256) (r : Ring) (e : List Byte), s.Command r e → r.n = n.val → n ≠ 0 →
    let took := fun (t : State) => t.rings = [r.after] ∧ Took s t r 0 0 0
    let released := s.hostPending = 0 ∧ s.pubs = [] ∧ s.peers = []
    (∀ j, s.jobs = [j] → j.ctx = r.ctx → j.id.toNat = num e 4 4 → j.isOpen = true → j.ended = false → num e 8 8 = 0 → num e 3 1 = 0 → s.ctxs = [] →
      (j.counted = j.members → released → Completes (.jobEnd n) s fun t => took t ∧ t.jobs = [{ j with isOpen := false, record := 0, ring := r.n, msix := false, ended := true }] ∧ t.records = s.records)
      ∧ (j.counted = j.members → s.hostPending ≠ 0 → Completes (.jobEnd n) s fun t => took t ∧ t.jobs = [{ j with isOpen := false, record := 0, ring := r.n, msix := false, ended := true }]
          ∧ ∃ x : CompletionRecord, t.records = s.records ++ [x] ∧ x.ctx = r.ctx ∧ x.ring = r.n ∧ x.host = s.hostPending ∧ x.pubs = s.pubs.map (·.id))
      ∧ (j.counted < j.members → Completes (.jobEnd n) s fun t => took t ∧ t.jobs = [{ j with isOpen := false, record := 0, ring := r.n, msix := false }]))
    ∧ (∀ l, s.launches = [l] → l.ctx = r.ctx → l.record = 0 → l.done = false → l.ending = false → l.pipeline = none → l.wetGroups = [] → l.msix = false → s.jobs = [] → s.allWgs = [] → s.xfers = [] →
        s.endings = [] → (∀ c ∈ s.allCores, c.jobs = [] ∧ c.slotQueue = []) → (∀ c, Msg.reductionContribution c ∈ s.inflight → c.launch ≠ l.id) → num e 16 8 = 0 →
      (num e 8 1 = 0 → released → Completes (.cancelCommand n) s fun t =>
        took { t with core := s.core, cores := s.cores } ∧ t.launches = [{ l with ending := true, done := true }] ∧ t.endings = [] ∧ t.inflight = s.inflight ++ [.placementDecision])
      ∧ (num e 8 1 = 2 → Completes (.cancelCommand n) s fun t => took t ∧ t.launches = [l] ∧ t.inflight = s.inflight)
      ∧ (2 < num e 8 1 → num e 3 1 = 0 → Completes (.cancelCommand n) s fun t => took t ∧ t.launches = [l] ∧ t.inflight = s.inflight))
    ∧ (num e 3 1 = 0 → num e 24 8 = 0 → Completes (.translationInvalidate n) s fun t =>
        let hits := fun (x : TlbEntry) => x.ctx = r.ctx ∧ x.page * pageBytes x.level < num e 8 8 + num e 16 8 ∧ num e 8 8 < (x.page + 1) * pageBytes x.level
        took { t with core := s.core, cores := s.cores } ∧ (∀ x, x ∈ t.core.tlb ↔ x ∈ s.core.tlb ∧ ¬ hits x) ∧ (∀ x, x ∈ t.clusterTlb ↔ x ∈ s.clusterTlb ∧ ¬ hits x.2)
        ∧ { t.core with tlb := s.core.tlb } = s.core ∧ t.cores.length = s.cores.length)
    ∧ (num e 3 1 = 0 → num e 16 8 = 0 → Completes (.descriptorInvalidate n) s fun t =>
        took t ∧ ∀ x, x ∈ t.descCache ↔ x ∈ s.descCache ∧ ¬ (x.1 = r.ctx ∧ x.2.1 = num e 8 8))
    ∧ (∀ b : List Byte, (s.takeEntry r.n).readVirtual r.ctx (num e 8 8) 8 = .ok b →
        let holds := 0 ≤ (BitVec.ofNat 64 (leValue b) - BitVec.ofNat 64 (num e 16 8)).toInt
        let condition := some (num e 8 8, BitVec.ofNat 64 (num e 16 8), s.cycle)
        (holds → num e 3 1 = 0 → Completes (.wait n) s fun t => t.rings = [{ r.after with msixPending := false }] ∧ Took s t r 0 0 0)
        ∧ (¬ holds → Completes (.wait n) s fun t =>
          t.rings = [{ r.after with busy := true, waiting := condition, msixPending := decide (num e 3 1 = 1) }] ∧ Took s t r 0 0 0)))
  ∧ (∀ (s : State) (n : Fin 256) (r : Ring) (a : Nat) (v since : W64) (b : List Byte), s.rings = [r] → r.n = n.val → r.waiting = some (a, v, since) → r.msixPending = false →
      r.head = r.tail → r.conf = true → s.waitBusy n r.ctx a = false → (n ≠ 0 ∧ s.readVirtual r.ctx a 8 = .ok b ∨ n = 0 ∧ poisoned s.poison a 8 = false ∧ b = s.homeBytes a 8) →
      let holds := 0 ≤ (BitVec.ofNat 64 (leValue b) - v).toInt
      Completes (.waitRecheck n) s fun t =>
        t = { s with rings := [if holds then { r with waiting := none, busy := false } else { r with waiting := some (a, v, s.cycle) }] })
  ∧ (∀ (s : State) (r : Ring) (e : List Byte), s.Command r e → r.n = 0 →
    let stops := fun (t : State) => t.rings = [{ r with state := 2, busy := false }] ∧ NMap.bytes t.mem r.headAddr 8 = headBytes r.head 2 ∧ Aside s t ∧ t.dev = s.dev
    let rec8 := num e 16 8
    (poisoned (s.takeEntry 0).poison (num e 8 8) 8 = false →
        let holds := 0 ≤ (BitVec.ofNat 64 (leValue ((s.takeEntry 0).homeBytes (num e 8 8) 8)) - BitVec.ofNat 64 (num e 16 8)).toInt
        (holds → num e 3 1 = 0 → Completes (.wait 0) s fun t => t.rings = [{ r.after with msixPending := false }] ∧ Took s t r 0 0 0)
        ∧ (¬ holds → Completes (.wait 0) s fun t =>
          t.rings = [{ r.after with busy := true, waiting := some (num e 8 8, BitVec.ofNat 64 (num e 16 8), s.cycle), msixPending := decide (num e 3 1 = 1) }] ∧ Took s t r 0 0 0))
    ∧ (num e 8 1 ≤ 63 → r.clear (num e 32 8) → num e 3 1 = 0 → Completes .contextCreate s fun t =>
      t.rings = [r.after] ∧ Took s t r (num e 32 8) 0 0
      ∧ t.ctxs = s.ctxs.filter (fun c => c.n != num e 8 1) ++ [⟨num e 8 1, num e 10 2, num e 16 8, num e 24 8, none⟩])
    ∧ (63 < num e 8 1 → r.clear (num e 32 8) → num e 3 1 = 0 → Completes .contextCreate s fun t =>
      t.rings = [r.after] ∧ Took s t r (num e 32 8) 0x02B00008 0 ∧ t.ctxs = s.ctxs)
    ∧ (num e 8 1 ≤ 63 → r.clear rec8 → num e 3 1 = 0 → (∀ j ∈ s.jobs, j.ctx = num e 8 1 → j.ended = true) → (∀ x ∈ s.records, x.ctx ≠ num e 8 1) → Completes .contextEnd s fun t =>
      t.rings = [r.after] ∧ Took s t r rec8 0 0 ∧ t.ctxs = s.ctxs.filter (fun c => c.n != num e 8 1))
    ∧ (∀ j c, num e 8 1 ≤ 63 → num e 3 1 = 0 → s.jobs = [j] → j.ctx = num e 8 1 → j.ended = false → s.ctxs = [c] → c.n = num e 8 1 → Completes .contextEnd s fun t =>
      t.rings = [{ r with head := r.head + 1, waitLogged := false }] ∧ Took s t r 0 0 0 ∧ t.ctxs = [{ c with ending := some (rec8, 0, false) }])
    ∧ (let n := num e 8 1
       let inRange := n ≠ 0 ∧ num e 9 1 ≤ 63 ∧ num e 10 1 ≤ 3 ∧ 3 ≤ num e 11 1 ∧ num e 11 1 ≤ 16
       (inRange → Completes .ringConfigure s fun t =>
         t.rings = [r.after, ⟨n, true, rec8, num e 24 8, num e 11 1, BitVec.ofNat 16 (num e 12 2), num e 10 1, num e 9 1, 0, 0, 0, false, [], none, false, false⟩] ∧ Took s t r 0 0 0)
       ∧ (¬ inRange → Completes .ringConfigure s fun t => stops t))
    ∧ (num e 8 2 ≤ 511 → s.ctxs = [] → s.peers = [] → Completes .domain s fun t =>
      t.rings = [r.after] ∧ Took s t r 0 0 0 ∧ t.dev = num e 8 2 ∧ t.hasDev = true ∧ t.dispenser = rec8)
    ∧ (511 < num e 8 2 ∨ (s.ctxs ≠ [] ∧ (s.hasDev = false ∨ s.dev ≠ num e 8 2)) → Completes .domain s fun t => stops t))

/-- R223 to R225, R235, R236: Launch reads its descriptor and makes a launch whose units the placement decisions start, or is refused; Pipeline makes the launches of its stages and a waiting pipeline, or is refused. The model's choices in it: log entry 73. -/
def Obligations.LaunchCommands : Prop :=
  ∀ (s : State) (n : Fin 256) (r : Ring) (e : List Byte), s.Command r e → r.n = n.val → n ≠ 0 → s.jobs = [] → num e 3 1 = 0 →
    let taken := { r with head := r.head + 1, waitLogged := false }
    let job := fun (counted : Nat) => HostJob.mk s.nextId r.ctx (BitVec.ofNat 32 (num e 4 4)) true 0 r.n false 1 counted false false none
    let s1 := s.takeEntry r.n
    let released := s.hostPending = 0 ∧ s.pubs = [] ∧ s.peers = []
    (num e 8 8 % 128 ≠ 0 → num e 40 8 = 0 → released → Completes (.launch n) s fun t =>
      t.rings = [r.after] ∧ Took s t r 0 0 0 ∧ t.launches = s.launches ∧ t.jobs = [job 1] ∧ t.inflight = s.inflight)
    ∧ (∀ b : List Byte, num e 8 8 % 128 = 0 → s1.readVirtual r.ctx (num e 8 8) 128 = .ok b → (∀ x ∈ s.descCache, ¬ (x.1 = r.ctx ∧ x.2.1 = num e 8 8)) →
      let grid := (num e 24 4, num e 28 4, num e 32 4)
      let mask := num e 36 1 % 2 ^ 4
      (∀ bad, descCheck b (parseDesc b) grid = some bad → num e 40 8 = 0 → released → Completes (.launch n) s fun t =>
        t.rings = [r.after] ∧ Took s t r 0 0 0 ∧ t.launches = s.launches ∧ t.jobs = [job 1] ∧ t.inflight = s.inflight)
      ∧ (descCheck b (parseDesc b) grid = none → num e 36 1 / 2 ^ 4 % 2 = 0 → Completes (.launch n) s fun t =>
        t.rings = [taken] ∧ Took s t r 0 0 0 ∧ t.jobs = [job 0] ∧ t.inflight = s.inflight ++ [.placementDecision]
        ∧ ∃ l : Launch, t.launches = s.launches ++ [l] ∧ l.id = s.nextLaunch ∧ t.nextLaunch = (s.nextLaunch + 1) % 2 ^ 32
          ∧ l.ctx = r.ctx ∧ l.ring = r.n ∧ l.job = s.nextId ∧ l.cls = max (num b 40 8 % 4) r.cls ∧ l.args.toNat = num e 16 8 % 2 ^ 64
          ∧ (l.gx, l.gy, l.gz) = grid ∧ l.dies = (List.range 4).filter (fun d => mask = 0 ∨ mask / 2 ^ d % 2 = 1) ∧ l.whole = false ∧ l.next = 0 ∧ l.count = 0
          ∧ l.record = num e 40 8 ∧ l.pipeline = none ∧ l.done = false
          ∧ l.d.entry = BitVec.ofNat 64 (num b 0 8) ∧ l.d.lbase = BitVec.ofNat 64 (num b 8 8) ∧ l.d.handler = BitVec.ofNat 64 (num b 16 8)
          ∧ (let g := num b 32 8
             l.d.grant = ⟨g % 2 ^ 5, g / 2 ^ 5 % 2 ^ 6 * 8, g / 2 ^ 11 % 2 ^ 10 * 1024, g / 2 ^ 21 % 2 ^ 6, g / 2 ^ 27 % 2 ^ 9, g / 2 ^ 36 % 2 ^ 7, g / 2 ^ 43 % 2 ^ 3⟩)
          ∧ l.d.brnd.toNat = num b 40 8 / 2 ^ 2 % 2 ^ 3 ∧ l.d.drnd.toNat = num b 40 8 / 2 ^ 5 % 2 ^ 3 ∧ l.d.ten.toNat = num b 40 8 / 2 ^ 8 % 2 ^ 10))
    ∧ (∀ (h body : List Byte) (ds : List Desc), s1.readVirtual r.ctx (num e 8 8) 64 = .ok h → num e 8 8 % 128 = 0 → num h 1 1 ≤ 8 → num h 2 1 ≤ 16 →
      s1.readVirtual r.ctx (num e 8 8 + 64) (64 * num h 1 1 + 32 * num h 2 1) = .ok body → num e 17 1 = 0 → num e 33 1 = 0 → num e 49 1 = 0 →
      let stages := (List.range (num h 1 1)).map fun i => parseStage ((body.drop (64 * i)).take 64)
      let pipes := (List.range (num h 2 1)).map fun i => parsePipe ((body.drop (64 * num h 1 1 + 32 * i)).take 32)
      (∀ bad, planCheck (num e 8 8) h stages pipes = some bad → num h 8 8 = 0 → released → Completes (.pipeline n) s fun t =>
        t.rings = [r.after] ∧ Took s t r 0 0 0 ∧ t.launches = s.launches ∧ t.pipelines = s.pipelines ∧ t.jobs = [job 1] ∧ t.inflight = s.inflight)
      ∧ (planCheck (num e 8 8) h stages pipes = none → (∃ s2, s1.stageDescs r.ctx (withIndex stages) = (.ok ds, s2)) → ds.length = num h 1 1 →
        (∀ i < num h 1 1, fitsWith (List.replicate (((stages.map (·.wpc)).getD i 1) - 1) (ds.getD i Desc.zero).grant) (ds.getD i Desc.zero).grant = true) →
        Completes (.pipeline n) s fun t =>
          t.rings = [taken] ∧ Took s t r 0 0 0 ∧ t.jobs = [job 0] ∧ t.inflight = s.inflight ++ [.placementDecision]
          ∧ (∃ p : Pipeline, t.pipelines = s.pipelines ++ [p] ∧ p.ctx = r.ctx ∧ p.job = s.nextId ∧ p.state = .waiting ∧ p.cls = max (num h 3 1 % 4) r.cls
              ∧ p.balancer = decide (num h 4 4 % 2 = 1) ∧ p.pipes = pipes.map (·.1) ∧ p.stages.map (·.launch) = (List.range (num h 1 1)).map (fun i => (s.nextLaunch + i) % 2 ^ 32)
              ∧ p.stages.map (·.min) = stages.map (·.min) ∧ p.stages.map (·.max) = stages.map (·.max))
          ∧ ∃ ls : List Launch, t.launches = s.launches ++ ls ∧ ls.map (·.d) = ds ∧ ∀ l ∈ ls, l.ctx = r.ctx ∧ l.job = s.nextId ∧ l.done = false ∧ l.pipeline.isSome = true))

/-- R9, R17, R226 to R231, R392 to R395: a placement decision starts the next workgroup of a launch with its pods on a core that it fits, or does nothing; a save puts the journal back and waits for the core's publications, then keeps of a pod what its coat names, writes the save area and no other memory, and frees the core. The model's choices in it: log entries 12, 16, 21, 92. -/
def Obligations.PlacementAndPreemption : Prop :=
  (∀ s : State, s.launches = [] → s.pipelines = [] → Completes .placementDecision s fun t => t = s)
  ∧ (∀ (s : State) (l : Launch) (d : Nat), s.launches = [l] → s.pipelines = [] → s.rings = [] → s.allWgs = [] → s.allPods = [] → s.core.ctx = none → s.cores = [] → s.seedPods = [] →
      l.pipeline = none → l.whole = false → l.done = false → l.ending = false → l.cls < 4 → l.ring < 256 → l.next < l.gx * l.gy * l.gz → fitsWith [] l.d.grant = true →
      l.dies ≠ [] → d = l.dies.getD (l.next % l.dies.length) 0 → Completes .placementDecision s fun t =>
        t.launches = [{ l with next := l.next + 1 }] ∧ t.inflight = s.inflight ++ [.placementDecision] ∧ t.nextId = s.nextId + 1 ∧ SameMemory s t
        ∧ (∃ w : Wg, t.wgs = s.wgs ++ [w] ∧ w.id = s.nextId ∧ w.core = 72 * d ∧ w.resident = true ∧ w.launch = l.id ∧ w.ctx = l.ctx ∧ w.grant = l.d.grant
            ∧ w.x = BitVec.ofNat 32 (l.next % l.gx) ∧ w.y = BitVec.ofNat 32 (l.next / l.gx % l.gy) ∧ w.z = BitVec.ofNat 32 (l.next / (l.gx * l.gy))
            ∧ (∀ i, NMap.get w.scratch i = 0 ∧ NMap.get w.fe i = 0 ∧ NMap.get w.tile i = 0 ∧ NMap.get w.acc i = 0))
        ∧ t.pods.length = s.pods.length + l.d.grant.pods
        ∧ (∀ i < l.d.grant.pods, ∃ p ∈ t.pods, p.key = ⟨s.nextId, i⟩ ∧ p.live = true ∧ p.pc = l.d.entry ∧ p.liveMask = BitVec.allOnes 32 ∧ p.ten = l.d.ten ∧ p.brnd = l.d.brnd
            ∧ p.drnd = l.d.drnd ∧ p.fsr = 0 ∧ p.inHandler = false ∧ (∀ n, NMap.get p.s n = if n = 1 then l.args else 0) ∧ (∀ n, NMap.get p.v n = 0 ∧ NMap.get p.k n = 0)
            ∧ ∃ c : Coat, p.coat = some c ∧ c.entry = l.d.entry)
        ∧ (t.coreBy (72 * d)).ctx = some l.ctx)
  ∧ (∀ (s : State) (c : Coat) (e : JEntry), s.pods = [] → s.wgs = [] → s.cores = [] → s.homes = [] → s.pipelines = [] → s.wg.id ≠ 0 → s.pod.live = true → s.pod.key.wg = s.wg.id → s.wg.core = s.core.n →
      s.wg.resident = true → s.wg.stopReq = true → s.pod.coat = some c → s.pod.exited = false → s.pod.halted = false → s.pod.dying = false →
      s.pod.sTxn.outstanding = 0 → s.pod.lTxn.outstanding = 0 → s.core.steps = [] → s.core.jobs = [] → s.core.slotQueue = [] → s.core.dirtyLines = [] → s.wg.journal = [e] →
      (∀ q, s.pubs = [q] → q.core = s.core.n → s.wg.saving = false → Completes (.preemptSave s.wg.id) s fun t =>
        t.pod = s.pod ∧ t.core = s.core ∧ t.inflight = s.inflight ∧ t.pubs = s.pubs ∧ SameMemory s t
        ∧ t.wg.saving = true ∧ t.wg.savePub = some q.id ∧ t.wg.resident = true ∧ t.wg.stopReq = true ∧ t.wg.journal = []
        ∧ (∀ i < 256, NMap.get t.wg.acc (e.acc * 256 + i) = e.cells.getD i 0) ∧ (∀ i, i / 256 ≠ e.acc → NMap.get t.wg.acc i = NMap.get s.wg.acc i)
        ∧ Completes (.preemptSave s.wg.id) t fun u => u = t)
      ∧ ((∀ q ∈ s.pubs, q.core ≠ s.core.n) → s.wg.saving = false → Completes (.preemptSave s.wg.id) s fun t =>
        t.pod.pc = c.entry ∧ t.pod.fsr = c.fsr ∧ t.pod.ten = c.ten ∧ t.pod.brnd = c.brnd ∧ t.pod.drnd = c.drnd ∧ t.pod.coat = some c ∧ t.pod.queue = [] ∧ t.pod.held = .none
        ∧ (s.pod.s.wf → ∀ n, NMap.get t.pod.s n = if c.liveS.getLsbD n then NMap.get s.pod.s n else 0)
        ∧ (s.pod.k.wf → ∀ n, NMap.get t.pod.k n = if c.km.getLsbD n then NMap.get s.pod.k n else 0)
        ∧ t.wg.resident = false ∧ t.wg.stopReq = false ∧ t.wg.arrived = [] ∧ t.wg.journal = [] ∧ t.wg.scratch = s.wg.scratch ∧ t.wg.tile = s.wg.tile
        ∧ (∀ i < 256, NMap.get t.wg.acc (e.acc * 256 + i) = e.cells.getD i 0) ∧ (∀ i, i / 256 ≠ e.acc → NMap.get t.wg.acc i = NMap.get s.wg.acc i)
        ∧ t.core.ctx = none ∧ t.inflight = s.inflight ++ [.placementDecision]
        ∧ SameMemoryBut (((s.ctxBy s.wg.ctx).map (·.save)).getD 0 + 1703936 * s.core.n) 1703936 s t))
  ∧ (∀ (s : State) (n : Nat), s.allWgs = [] → Completes (.preemptSave n) s fun t => t = s)

/-- R238 to R240, R400 to R402: the balancer measures each interval and moves a core from a starved stage to one that has work; a pipeline whose pods all wait in pipe words drains, and a tile is spilled before it is placed again. The model's choices in it: log entries 22, 91, 98. -/
def Obligations.PipelineControl : Prop :=
  (∀ (s : State) (p : Pipeline), s.pipelines = [p] →
      (p.balancer = false ∨ (s.cycle - p.interval).toNat < 4096 → Completes (.balancerInterval p.id) s fun t => t = s)
      ∧ (∀ (g h : Stage) (q : Pipe) (core : Nat), p.balancer = true → 4096 ≤ (s.cycle - p.interval).toNat → p.move = none → p.state = .running → p.stages = [g, h] → p.pipes = [q] →
          (s.stageCycles g).1 ≤ 2 * (s.stageCycles g).2.2 → (s.stageCycles g).2.1 < (s.stageCycles g).2.2 → g.min < g.cores.length → g.cores.getLast? = some core →
          ¬ ((s.stageCycles h).1 ≤ 2 * (s.stageCycles h).2.2 ∧ (s.stageCycles h).2.1 < (s.stageCycles h).2.2) →
          ¬ ((s.stageCycles h).1 ≤ 2 * (s.stageCycles h).2.1 ∧ (s.stageCycles h).2.2 < (s.stageCycles h).2.1) →
          h.cores.length < h.max → (g.finishing || g.done || h.finishing || h.done) = false → q.consumer = 1 → q.slots ≠ [] →
          Completes (.balancerInterval p.id) s fun t => t.pipelines = [{ p with interval := p.interval + 4096, move := some (0, 1, core), stages := [{ g with past := (0, 0, 0) }, { h with past := (0, 0, 0) }] }] ∧ t.wgs = s.wgs ∧ t.wg = s.wg ∧ t.mem = s.mem)
      ∧ ((s.cycle - p.quiet).toNat < 65536 ∨ p.state ≠ .running → Completes (.pipeDeadlockDeclare p.id) s fun t => t = s)
      ∧ (∀ i, 65536 ≤ (s.cycle - p.quiet).toNat → p.state = .running → s.pods = [] → s.wgs = [] → s.wg.id ≠ 0 → s.pod.live = true → s.pod.key.wg = s.wg.id → s.wg.resident = true →
          (∃ g ∈ p.stages, g.launch = s.wg.launch) → s.pod.exited = false → s.pod.held = .pushFull i → i < p.pipes.length →
          s.core.fills = [] → s.cores = [] → s.homes = [] → s.proxies = [] → s.inflight = [] →
          let left := fun (ks : List PodKey) => if s.pod.coat.isSome then ks.filter (· != s.pod.key) else ks
          Completes (.pipeDeadlockDeclare p.id) s fun t =>
            t.pipelines = [{ p with state := .draining, pushWait := [i], move := none, stages := p.stages.map fun g => { g with share := g.cores.length }
                                    pipes := p.pipes.map fun q => { q with pushers := left q.pushers, poppers := left q.poppers } }]
            ∧ t = { s with pipelines := t.pipelines, pod := { s.pod with stopReq := true }, wg := { s.wg with stopReq := true } })
      ∧ (∀ (i a : Nat) (q : Pipe) (x : Slot) (rest : List Slot) (u : State), p.state = .draining → s.stagePods p = [] → p.pushWait = [i] → p.pipes[i]? = some q → q.spill = some a →
          q.slots = x :: rest → q.spilled < q.depth → s.virtualWaits p.ctx (a + q.spills % q.depth * q.slotSize) q.slotSize true = false →
          s.writeTile p.ctx (a + q.spills % q.depth * q.slotSize) x = (none, u) → Completes (.pipeDrainSpill p.id) s fun t =>
            (∃ p' : Pipeline, t.pipelines = [p'] ∧ p'.state = .preempted ∧ p'.quiet = s.cycle ∧ p'.pipes = setAt p.pipes i { q with slots := rest, spilled := q.spilled + 1, spills := q.spills + 1 }
              ∧ p'.stages = p.stages.map fun g => { g with cores := [] })
            ∧ t.mem = u.mem ∧ t.inflight = u.inflight ++ [.placementDecision] ∧ t.pod = s.pod ∧ t.wg = s.wg
            ∧ ∃ y ∈ t.skepin.log, y.code = 0x01 ∧ y.ctx = p.ctx ∧ y.detail = [((p.stages.map (·.launch)).headD 0), i, q.spills + 1].map (BitVec.ofNat 32))
      ∧ (p.state ≠ .draining ∨ s.stagePods p ≠ [] → Completes (.pipeDrainSpill p.id) s fun t => t = s))

/-! ## Other devices and the host -/

/-- R431 to R438, R445: requests of another device are applied once each in the order of their numbers, and answered again from the replay cache; an acknowledgement completes what waits for it; a request is sent again after 2 ms, and after eight attempts its device is unreachable. R456 to R458: a bridge opens when both ends have named each other, an in-end then grants its slots; tiles enter an in-end, credits let an out-end send, a close ends it; opens that meet no bridge are held and dropped after 20 ms. The model's choices in it: log entries 29, 30, 31. -/
def Obligations.LinkAndBridgeMessages : Prop :=
  (∀ (s : State) (d : Fin 512) (p : Peer), s.peers = [p] → p.dev = d.val → s.hasDev = true → s.skepin.pwr = .p0 →
     let same := fun (t : State) => t.mem = s.mem ∧ t.core = s.core ∧ t.cores = s.cores ∧ t.homes = s.homes
     (∀ (l : Nat), s.homeIdle l = true → poisoned s.poison (l * 128) 128 = false →
       let data := (List.range 128).map fun i => s.homeByte (l * 128 + i)
       (p.early = [] → Completes (.ualinkRequest d p.expect (.read l)) s fun t =>
         t.outbox = s.outbox ++ [.answer d.val p.expect data] ∧ t.peers = [{ p with expect := p.expect + 1 }] ∧ Aside s t ∧ same t)
       ∧ (∀ seq : Half16, (seq - p.expect).toInt < 0 → Completes (.ualinkRequest d seq (.read l)) s fun t =>
         t.outbox = s.outbox ++ [.answer d.val seq data] ∧ t.peers = [p] ∧ Aside s t ∧ same t)
       ∧ (∀ seq : Half16, 0 < (seq - p.expect).toInt → p.early = [] → Completes (.ualinkRequest d seq (.read l)) s fun t =>
         t.outbox = s.outbox ∧ t.peers = [{ p with early := [(seq, .read l)] }] ∧ Aside s t ∧ same t))
     ∧ (∀ (r : Request) (data : List Byte) (line : Nat), p.out = [r] → r.tries ≠ 0 → data ≠ [] →
         (r.who = .fill s.core.n line → Completes (.ualinkAck d r.seq data) s fun t =>
           t.peers = [{ p with out := [] }] ∧ t.inflight = s.inflight ++ [.fillReply s.core.n line data false] ∧ Aside s t ∧ same t)
         ∧ (∀ lane, r.who = .pod s.pod.key .s lane → (∀ q, r.op ≠ .ticket q) → s.pod.live = true → Completes (.ualinkAck d r.seq data) s fun t =>
           t.peers = [{ p with out := [] }] ∧ same t ∧ t.pods = s.pods
           ∧ t.pod = { s.pod with sTxn := { s.pod.sTxn with outstanding := s.pod.sTxn.outstanding - 1, replies := s.pod.sTxn.replies ++ [(lane, BitVec.ofNat 64 (leValue data))] } })
         ∧ (∀ seq, seq ≠ r.seq → Completes (.ualinkAck d seq data) s fun t => t = s)
         ∧ (p.unreachable = false → (s.cycle - r.sent).toNat < 5400000 → Completes (.retransmitTimeout d r.seq) s fun t => t = s)
         ∧ (p.unreachable = false → 5400000 ≤ (s.cycle - r.sent).toNat → r.tries < 8 → Completes (.retransmitTimeout d r.seq) s fun t =>
           let plane := (((List.range 16).map fun i => (r.plane + 1 + i) % 16).find? fun q => p.up.getLsbD q).getD ((r.plane + 1) % 16)
           t = { s with peers := [{ p with out := [{ r with sent := s.cycle, tries := r.tries + 1, plane := plane }] }], outbox := s.outbox ++ [.request d.val r.seq r.op plane] })
         ∧ (p.unreachable = false → 5400000 ≤ (s.cycle - r.sent).toNat → 8 ≤ r.tries → r.who = .none → s.sets = [] → s.xfers = [] → s.pipelines = [] → s.incast = [] →
           Completes (.retransmitTimeout d r.seq) s fun t =>
             t.peers = [{ p with unreachable := true, out := [] }] ∧ (∃ e ∈ t.skepin.log, e.code = 0x04 ∧ e.detail = [BitVec.ofNat 32 d.val]) ∧ Aside s t ∧ same t))
     ∧ (∀ plane : Fin 16,
         Completes (.portUp d plane) s (fun t => ∃ u, t = { s with peers := [{ p with up := u }] } ∧ ∀ i < 16, u.getLsbD i = (p.up.getLsbD i || decide (i = plane.val)))
         ∧ ((∃ i < 16, i ≠ plane.val ∧ p.up.getLsbD i = true) → Completes (.portDown d plane) s fun t =>
             ∃ u, t = { s with peers := [{ p with up := u }] } ∧ ∀ i < 16, u.getLsbD i = (p.up.getLsbD i && decide (i ≠ plane.val)))
         ∧ (p.out = [] → (∀ h ∈ s.hawk, h.key.src ≠ d.val) → (∀ w ∈ s.wet, w.key.src ≠ d.val) → Completes (.announce d) s fun t =>
             t = { s with peers := [{ p with next := 0, expect := 0, early := [], replay := [], unreachable := false, logged := false }] }))
     ∧ (∀ n, Completes (.flitReplay n) s fun t => t = s)
     ∧ (∀ (x : XPacket) (key : Nat) (bs : List Byte) (c : Ctx), x.runs = [(key, false, bs)] → key % 128 + bs.length ≤ 128 → s.homes = [] → s.proxies = [] → s.wgs = [] → s.wg.id ≠ 0 → s.wg.resident = true →
         s.wg.core = x.core → s.ctxs = [c] → c.n = s.wg.ctx → c.domain = x.domain → x.counter + 8 ≤ s.wg.grant.scratch → s.wg.objects = [] → Completes (.xsendPacket x) s fun t =>
           NMap.bytes t.mem key bs.length = bs ∧ (∀ a, a < key ∨ key + bs.length ≤ a → NMap.get t.mem a = NMap.get s.mem a)
           ∧ leValue (NMap.bytes t.wg.scratch x.counter 8) = (leValue (NMap.bytes s.wg.scratch x.counter 8) + bs.length) % 2 ^ 64
           ∧ (∀ o, o < x.counter ∨ x.counter + 8 ≤ o → NMap.get t.wg.scratch o = NMap.get s.wg.scratch o) ∧ t.pod = s.pod ∧ t.pods = s.pods))
  ∧
  ((∀ (s : State) (l : Pipeline) (p : Pipe) (b : Bridge) (d : Fin 512) (tag : W32), s.OneBridge l p b d tag →
     let at' := fun (b' : Bridge) => { p with bridge := some b' }
     (b.side = .out → b.isOpen = false → p.slots = [] → p.spilled = 0 → p.closed = false → ∀ me : Fin 512, me.val = s.dev → Completes (.bridgeOpen d tag .inn me) s fun t =>
       PipeStep s t l (at' { b with isOpen := true }) l.quiet)
     ∧ (b.isOpen = true → ∀ (e : BridgeEnd) (me : Fin 512), Completes (.bridgeOpen d tag e me) s fun t => t = s)
     ∧ (b.side = .inn → p.closed = false → ∀ data, Completes (.bridgeTile d tag data) s fun t => PipeStep s t l { p with slots := p.slots ++ [data] } s.cycle)
     ∧ (b.side = .inn → p.closed = true → ∀ data, Completes (.bridgeTile d tag data) s fun t => t = s)
     ∧ (b.side = .out → b.isOpen = true → b.closed = false → p.slots = [] → p.spilled = 0 → p.closed = false → Completes (.bridgeCredit d tag) s fun t =>
       PipeStep s t l (at' { b with credits := b.credits + 1 }) l.quiet)
     ∧ (b.side = .inn → Completes (.bridgeCredit d tag) s fun t => t = s)
     ∧ (b.side = .inn → Completes (.bridgeClose d tag) s fun t => PipeStep s t l { p with closed := true } l.quiet)
     ∧ (b.side = .out → Completes (.bridgeClose d tag) s fun t =>
       PipeStep s t l { p with closed := true, slots := [], spilled := 0, bridge := some { b with closed := true, credits := 0 } } l.quiet)
     ∧ ((b.isOpen = true ∨ (s.cycle - b.since).toNat < 54000000) → Completes (.bridgeOpenTimeout l.id 0) s fun t => t = s)
     ∧ (∀ j, b.isOpen = false → 54000000 ≤ (s.cycle - b.since).toNat → s.jobs = [j] → j.serial = l.job → j.ended = false → j.isOpen = true → j.faulted = none → j.cancelled = false → l.record = 0 → l.msix = false → s.launches = [] → s.xfers = [] →
       s.endings = [] → s.pubs = [] → s.peers = [] → s.hostPending = 0 → s.allWgs = [] → l.stages = [] → s.hasDev = false → Completes (.bridgeOpenTimeout l.id 0) s fun t =>
         (∃ l' : Pipeline, t.pipelines = [l'] ∧ l'.state = .done) ∧ (∃ j' : HostJob, t.jobs = [j'] ∧ j'.faulted = some .bridgeUnmatched ∧ j'.counted = j.counted + 1)
         ∧ ∃ e ∈ t.skepin.log, e.code = 0x0F ∧ e.ctx = l.ctx))
   ∧ ∀ (s : State) (d : Fin 512) (tag : W32) (e : BridgeEnd) (me : Fin 512), s.pipelines = [] →
       Completes (.bridgeOpen d tag e me) s (fun t => t = { s with heldOpens := s.heldOpens ++ [⟨d.val, tag.toNat, e, me.val, s.cycle⟩] })
       ∧ ∀ o : HeldOpen, s.heldOpens = [o] → o.peer = d.val → o.tag = tag.toNat → Completes (.heldBridgeOpenDrop d tag) s fun t =>
           t = { s with heldOpens := if 54000000 ≤ (s.cycle - o.since).toNat then [] else [o] })

/-- R393, R460, R485: the host's reads, writes, snoops and acknowledgements. R403, R404, R487, R488: a debugger reads, writes and resumes a halted pod in halt-debug; a corrected error is counted, an uncorrected one is counted and poisons its sector. The model's choices in it: log entries 16, 35, 57, 58, 61, 66, 79, 81. -/
def Obligations.HostDebugAndErrors : Prop :=
  (∀ (s : State), s.skepin.pwr ≠ .idle → s.homes = [] → s.proxies = [] →
     (∀ a n, a + n ≤ Config.hostBase → Completes (.hostRead a n) s fun t => t = { s with outbox := s.outbox ++ [.hostData a (NMap.bytes s.mem a n)] })
     ∧ (∀ a bs, a + bs.length ≤ Config.hostBase → Completes (.hostWrite a bs) s fun t =>
         NMap.bytes t.mem a bs.length = bs ∧ (∀ x, x < a ∨ a + bs.length ≤ x → NMap.get t.mem x = NMap.get s.mem x) ∧ t.pod = s.pod ∧ t.pods = s.pods ∧ t.core = s.core ∧ t.cores = s.cores
         ∧ (∀ c, s.ctxs = [c] → c.n = s.wg.ctx → bs ≠ [] → let area := c.save + 1703936 * s.wg.core
             t.wg = if s.wg.resident = false ∧ a < area + 1703936 ∧ area < a + bs.length then { s.wg with tainted := true } else s.wg))
     ∧ (∀ a bs, Config.hostBase ≤ a → a + bs.length ≤ 2 ^ 52 → bs ≠ [] → s.core.distinctLines → Completes (.hostWrite a bs) s fun t =>
         NMap.bytes t.mem a bs.length = bs ∧ (∀ x, x < a ∨ a + bs.length ≤ x → NMap.get t.mem x = NMap.get s.mem x) ∧ t.pod = s.pod ∧ t.pods = s.pods
         ∧ (∀ line off, t.core.byteOf line off = if a / 128 ≤ line ∧ line * 128 < a + bs.length ∧ s.core.dirtyAt line off = false then none else s.core.byteOf line off)
         ∧ (∀ k ∈ t.core.kcache, ¬(a / 128 ≤ k.1 ∧ k.1 * 128 < a + bs.length)))
     ∧ (∀ line, lineHost line = true → s.core.distinctLines → Completes (.hostSnoop line) s fun t =>
         (∀ off, t.core.byteOf line off = if s.core.dirtyAt line off then s.core.byteOf line off else none) ∧ (∀ k ∈ t.core.kcache, k.1 ≠ line)
         ∧ (∀ other off, other ≠ line → t.core.byteOf other off = s.core.byteOf other off) ∧ Aside s t ∧ t.mem = s.mem)
     ∧ (∀ n, Completes (.hostAcknowledgement n) s fun t => t = { s with hostPending := s.hostPending - n, records := s.records.map fun r => { r with host := r.host - n } }))
  ∧
  ((∀ (s : State) (k : PodKey), s.pod.live = true → s.pod.key = k → s.skepin.dbg = .halt → s.skepin.pwr ≠ .idle → s.pod.halted = true → s.pod.inHandler = false →
       (∀ r, Completes (.debuggerAccess (.readS k r)) s fun t => t = { s with outbox := s.outbox ++ [.debug k (s.readS r.val)] })
       ∧ (∀ r x, Completes (.debuggerAccess (.writeS k r x)) s fun t =>
           (∀ n, t.readS n = if n = r.val ∧ n ≠ 0 then x else s.readS n) ∧ { t with pod := { t.pod with s := s.pod.s } } = s)
       ∧ (∀ r lane, Completes (.debuggerAccess (.readV k r lane)) s fun t => t = { s with outbox := s.outbox ++ [.debug k ((s.pod.readV r.val lane.val).setWidth 64)] })
       ∧ (∀ (r : Fin 256) (lane : Fin 32) x, Completes (.debuggerAccess (.writeV k r lane x)) s fun t =>
           (∀ n j, j < 32 → t.pod.readV n j = if n = r.val ∧ j = lane.val then x else s.pod.readV n j) ∧ { t with pod := { t.pod with v := s.pod.v } } = s)
       ∧ Completes (.debuggerAccess (.resume k)) s fun t => t = { s with pod := { s.pod with halted := false, pc := s.pod.pc + 4, held := .none } })
   ∧ (∀ (s : State) (o : DebugOp), s.skepin.dbg ≠ .halt → Completes (.debuggerAccess o) s fun t => t = s)
   ∧ ∀ (s : State) (b : EccBlock) (n : Nat),
       let place := match b with
         | .l1 => 45 | .scratch => 46 | .regs => 47 | .l2 | .stash | .hawk | .pipe => 48 | .shelf => 49 | .hub => 50
         | .hbm => 51 + n * 32 / 206158430208 % 4 * 3 + n / 128 % 3 | .link => 0
       let counts := fun (t : State) (w : Nat) => ∀ i < 19, t.skepin.counts.getD i 0 = if 45 + i = w then (if s.skepin.counts.getD i 0 = BitVec.allOnes 32 then BitVec.allOnes 32 else s.skepin.counts.getD i 0 + 1) else s.skepin.counts.getD i 0
       let logged := fun (t : State) (a : Nat) => ∃ e ∈ t.skepin.log, e.code = 0x09 ∧ e.detail = [BitVec.ofNat 32 (a % 2 ^ 32), BitVec.ofNat 32 (a / 2 ^ 32)]
       Completes (.softError b true n) s (fun t => counts t place ∧ { t with skepin := s.skepin } = s ∧ (b = .link → t = s))
       ∧ Completes (.softError b false n) s (fun t =>
           t = s ∨ counts t 63 ∧ (∃ e ∈ t.skepin.log, e.code = 0x09) ∧ t.mem = s.mem ∧ t.pod = s.pod ∧ t.pods = s.pods)
       ∧ (b = .l2 ∨ b = .hub ∨ b = .hbm →
           (n * 32 < 2 ^ 52 → Completes (.softError b false n) s fun t =>
             counts t 63 ∧ (∀ x, NMap.get t.poison x = if x = n then 1 else NMap.get s.poison x) ∧ logged t (n * 32) ∧ { t with skepin := s.skepin, poison := s.poison } = s)
           ∧ (2 ^ 52 ≤ n * 32 → Completes (.softError b false n) s fun t => t = s))
       ∧ (b = .l1 → n % 288 = s.core.n → let x := n / 288
           ((∃ off, off / 32 = x % 4 ∧ (s.core.byteOf (x / 4) off).isSome) → Completes (.softError b false n) s fun t =>
             counts t 63 ∧ (∀ y, NMap.get t.core.l1Poison y = if y = x then 1 else NMap.get s.core.l1Poison y)
             ∧ { t with skepin := s.skepin, core := { t.core with l1Poison := s.core.l1Poison } } = s)
           ∧ ((∀ off, off / 32 = x % 4 → s.core.byteOf (x / 4) off = none) → Completes (.softError b false n) s fun t => t = s))
       ∧ (b = .scratch → s.wgs = [] → s.wg.id ≠ 0 → s.wg.resident = true → s.wg.core = n / 32768 → ∀ i, n % 32768 = s.wg.base / 32 + i → s.wg.base % 32 = 0 → 32 * i + 32 ≤ s.wg.grant.scratch →
           Completes (.softError b false n) s fun t =>
             counts t 63 ∧ (∀ y, NMap.get t.wg.scratchPoison y = if y = i then 1 else NMap.get s.wg.scratchPoison y)
             ∧ logged t (0xFFFFFFFF * 2 ^ 32 + 0xFFFFFFFF) ∧ { t with skepin := s.skepin, wg := { t.wg with scratchPoison := s.wg.scratchPoison } } = s))

/-! ## Skepin -/

/-- R475, R476, R480, R484, R487, R489: the mailbox commands, once BAR0 is there: the result and the window; in recovery all but the two of the image answer not accepted. R473, R474, R477, R481, R484 to R486: resets, the steps of bring-up, the power states, and what a thermal trip or a loss of power leaves. The model's choices in it: log entries 54, 56, 59, 60, 88, 96. -/
def Obligations.MailboxAndPower : Prop :=
  (∀ (s : State), s.skepin.pwr ≠ .off →
     let k := s.skepin
     let up := k.recovery = false ∧ 6 ≤ k.stage ∧ k.failed = false
     let ends := fun (op : Nat) (arg : Byte) (res : Nat) (t : State) =>
       t.skepin.op = BitVec.ofNat 8 op ∧ t.skepin.arg = arg ∧ t.skepin.go = false ∧ t.skepin.result = BitVec.ofNat 8 res ∧ { t with skepin := s.skepin, inflight := s.inflight } = s
     let window := fun (t : State) (bs : List Byte) => ∀ i < 4096, NMap.get t.skepin.window i = bs.getD i 0
     (up → ∀ xs : List W32, xs.length = 45 → k.counts.length = 19 → Completes (.sensors xs) s fun t =>
         ends 1 0 0 t ∧ window t ((xs ++ k.counts).flatMap fun x => toBytes x 4) ∧ t.skepin.counts = k.counts)
     ∧ (up → ∀ arg : Byte, (31 < arg.toNat → Completes (.eventLog arg) s fun t => ends 2 arg 1 t ∧ t.skepin.window = k.window)
         ∧ (arg.toNat ≤ 31 → Completes (.eventLog arg) s fun t => ends 2 arg 0 t ∧ t.skepin.log = k.log ∧ window t (((k.log.drop (128 * arg.toNat)).take 128).flatMap fun (e : LogEntry) =>
             let item : Nat → W32 := fun i => e.detail.getD i 0
             toBytes e.time 8 ++ toBytes e.serial 4 ++ toBytes (BitVec.ofNat 16 e.code) 2 ++ toBytes (BitVec.ofNat 16 e.ctx) 2
             ++ if e.code = 0x10 then toBytes (item 0) 2 ++ toBytes (item 1) 2 ++ toBytes (item 2) 4 ++ toBytes (item 3) 4 ++ toBytes (item 4) 4
               else (List.range 4).flatMap fun i => toBytes (item i) 4)))
     ∧ (up ∨ k.recovery = true → ∀ arg : Byte, Completes (.imageChunk arg) s fun t =>
         ends 3 arg 0 t ∧ ∀ i, NMap.get t.skepin.staged i = if 4096 * arg.toNat ≤ i ∧ i < 4096 * arg.toNat + 4096 then NMap.get k.window (i - 4096 * arg.toNat) else NMap.get k.staged i)
     ∧ (up ∨ k.recovery = true → ∀ img : ImageHeader,
         (¬ (img.lengthOk ∧ img.ed25519 ∧ img.mlDsa) → Completes (.imageCommit img) s fun t => ends 4 0 3 t ∧ t.skepin.version = k.version ∧ t.skepin.fuse = k.fuse)
         ∧ (img.lengthOk ∧ img.ed25519 ∧ img.mlDsa → img.svn < k.fuse → Completes (.imageCommit img) s fun t => ends 4 0 4 t ∧ t.skepin.version = k.version ∧ t.skepin.fuse = k.fuse)
         ∧ (img.lengthOk ∧ img.ed25519 ∧ img.mlDsa → k.fuse ≤ img.svn → Completes (.imageCommit img) s fun t =>
             ends 4 0 0 t ∧ t.skepin.version = img.version ∧ t.skepin.svn = img.svn ∧ t.skepin.fuse = img.svn ∧ t.skepin.imageOk = true ∧ t.skepin.verified = (k.verified || k.recovery) ∧ t.inflight = s.inflight ++ if k.recovery then [.warmReset] else []))
     ∧ (up → ∀ arg : Byte,
         (2 < arg.toNat → Completes (.powerRequest arg) s (fun t => ends 5 arg 1 t) ∧ (∀ tok, Completes (.securityState arg tok) s fun t => ends 6 arg 1 t) ∧ Completes (.debugState arg) s fun t => ends 7 arg 1 t)
         ∧ (arg = 0 → Completes (.powerRequest arg) s (fun t => ends 5 arg 0 t ∧ t.skepin.idleOk = false ∧ t.skepin.pwr = k.pwr)
           ∧ Completes (.debugState arg) s (fun t => ends 7 arg 0 t ∧ t.skepin.dbg = .none) ∧ ∀ tok, Completes (.securityState arg tok) s fun t => ends 6 arg 2 t ∧ t.skepin.sec = k.sec)
         ∧ (arg = 1 → (k.pwr = .p0 ∨ k.pwr = .p1 → Completes (.powerRequest arg) s fun t => ends 5 arg 0 t ∧ t.skepin.pwr = .p1 ∧ .host ∈ t.skepin.causes ∧ t.skepin.p1Since = s.cycle)
           ∧ (k.sec ≠ .sealed → Completes (.debugState arg) s fun t => ends 7 arg 0 t ∧ t.skepin.dbg = .halt)
           ∧ (k.sec = .sealed → Completes (.debugState arg) s fun t => ends 7 arg 2 t ∧ t.skepin.dbg = k.dbg)
           ∧ (k.sec ≠ .factory → Completes (.securityState arg true) s (fun t => ends 6 arg 0 t ∧ t.skepin.sec = .sealed ∧ (k.sec ≠ .sealed → t.skepin.dbg = .none))
             ∧ Completes (.securityState arg false) s fun t => ends 6 arg 3 t ∧ t.skepin.sec = k.sec))
         ∧ (arg = 2 → Completes (.powerRequest arg) s (fun t => ends 5 arg 0 t ∧ t.skepin.idleOk = true ∧ t.skepin.idleSince = (if k.idleOk = true then k.idleSince else s.cycle))
           ∧ (k.sec ≠ .sealed → Completes (.debugState arg) s fun t => ends 7 arg 0 t ∧ t.skepin.dbg = .trace)
           ∧ (k.sec ≠ .factory → Completes (.securityState arg true) s fun t => ends 6 arg 0 t ∧ t.skepin.sec = .ownerOpen ∧ t.skepin.dbg = k.dbg)))
     ∧ (up → Completes .warmResetCommand s fun t => ends 8 0 0 t ∧ t.inflight = s.inflight ++ [.warmReset])
     ∧ (k.recovery = true → Completes .warmResetCommand s fun t => ends 8 0 2 t ∧ t.inflight = s.inflight)
     ∧ (∀ r : SpdmReq, 6 ≤ k.stage → Completes (.spdmRequest r) s fun t =>
         t.outbox = s.outbox ++ [.spdm r] ∧ t.skepin = { k with spdm := k.spdm + if r = .keyExchange then 1 else 0 } ∧ { t with outbox := s.outbox, skepin := k } = s)
     ∧ Completes .ideKm s (fun t => t = if k.spdm = 0 then s else { s with skepin := { k with ide := true } })
     ∧ (k.sec = .factory → Completes .sealAtManufacture s fun t => t.skepin.sec = .sealed ∧ t.skepin.dbg = .none ∧ { t with skepin := k } = s)
     ∧ (k.sec ≠ .factory → Completes .sealAtManufacture s fun t => t = s))
  ∧
  (∀ (s : State),
     let k := s.skepin
     let asReset := fun (t : State) => { t with skepin := Skepin.reset, mem := [], agenda := [], outbox := [], freeCount := 0 } = State.reset ∧ t.agenda = s.agenda ∧ t.outbox = s.outbox
       ∧ (s.mem.wf → ∀ a, NMap.get t.mem a = if Config.hostBase ≤ a ∧ a < 2 ^ 52 then NMap.get s.mem a else 0)
     let logged := fun (t : State) (detail : List Nat) => ∃ e ∈ t.skepin.log, e.code = 0x0A ∧ e.detail = detail.map (BitVec.ofNat 32)
     Completes .coldReset s (fun t => asReset t ∧ t.skepin.stage = 0 ∧ t.skepin.ready = false ∧ t.skepin.pwr = .p0 ∧ t.skepin.sec = k.sec ∧ t.skepin.fuse = k.fuse ∧ t.skepin.version = k.version
       ∧ t.skepin.decisions = k.decisions ∧ t.skepin.log = k.decisions)
     ∧ (k.pwr ≠ .off → k.verified = true → Completes .warmReset s fun t => asReset { t with hawk := [], wet := [] } ∧ t.skepin.stage = 3 ∧ t.skepin.ready = false ∧ t.skepin.pwr = .p0 ∧ t.skepin.log = k.log ∧ t.skepin.sec = k.sec
       ∧ t.hawk = (s.hawk.filter fun h => h.prepared.isSome && h.pub.isNone).map (fun h => { h with prepared := some 0 }) ∧ ∀ w, w ∈ t.wet ↔ w ∈ s.wet ∧ ∃ h ∈ t.hawk, h.key = w.key)
     ∧ (k.pwr ≠ .off → k.verified = false → Completes .warmReset s fun t => asReset t ∧ t.skepin = k)
     ∧ (k.pwr = .off → Completes .warmReset s (fun t => t = s) ∧ Completes .powerRemoved s (fun t => t = s) ∧ ∀ q x, Completes (.thermalTrip q x) s fun t => t = s)
     ∧ Completes .skepinReset s (fun t => t = s)
     ∧ (k.rising = true → ∀ good : Bool,
         let n := k.stage + 1
         Completes (.bringUpStep good) s fun t =>
           { t with skepin := k } = s ∧ t.skepin.stage = n
           ∧ (n = 2 → t.skepin.recovery = !(good && k.imageOk) ∧ t.skepin.verified = (k.verified || (good && k.imageOk)))
           ∧ (n ≠ 2 → t.skepin.failed = !good ∧ t.skepin.recovery = false)
           ∧ (good = true → n ≠ 2 → t.skepin.ready = (if n = 7 then true else if n = 3 ∨ n = 5 then k.ready else false))
           ∧ (good = true → n = 3 → ∀ e, k.trip = some e → e.code = 0x0B → ∃ x ∈ t.skepin.log, x.code = 0x0B ∧ x.serial = e.serial)
           ∧ (good = false → n ≠ 2 → ∃ x ∈ t.skepin.log, x.code = 0x0E ∧ x.detail = [BitVec.ofNat 32 n]))
     ∧ (k.rising = false → ∀ good, Completes (.bringUpStep good) s fun t => t = s)
     ∧ (∀ c : P1Cause,
         (k.pwr = .p0 → Completes (.p1Entry c) s fun t => t.skepin.pwr = .p1 ∧ c ∈ t.skepin.causes ∧ t.skepin.p1Since = s.cycle ∧ logged t [0, 1, match c with | .power => 1 | .temperature => 2 | .host => 3] ∧ { t with skepin := k } = s)
         ∧ (k.pwr = .p1 → Completes (.p1Entry c) s fun t => t.skepin.pwr = .p1 ∧ c ∈ t.skepin.causes ∧ t.skepin.p1Since = s.cycle ∧ t.skepin.log = k.log ∧ { t with skepin := k } = s)
         ∧ (k.pwr = .idle ∨ k.pwr = .off → Completes (.p1Entry c) s fun t => t = s))
     ∧ (k.pwr = .p1 → 18000000 ≤ (s.cycle - k.p1Since).toNat → Completes .p1Exit s fun t => t.skepin.pwr = .p0 ∧ t.skepin.causes = [] ∧ logged t [1, 0, 0] ∧ { t with skepin := k } = s)
     ∧ (k.pwr ≠ .p1 ∨ (s.cycle - k.p1Since).toNat < 18000000 → Completes .p1Exit s fun t => t = s)
     ∧ (k.idleOk = true → s.quiet = true → 270000 ≤ (s.cycle - k.idleSince).toNat → k.pwr = .p0 → k.ready = true → Completes .idleEntry s fun t =>
         t.skepin.pwr = .idle ∧ logged t [0, 2, 0] ∧ { t with skepin := k } = s)
     ∧ (k.idleOk = false ∨ s.quiet = false ∨ (s.cycle - k.idleSince).toNat < 270000 → Completes .idleEntry s fun t => t = s)
     ∧ (k.pwr = .idle → Completes .idleExit s fun t => t.skepin.pwr = .p0 ∧ logged t [2, 0, 0] ∧ { t with skepin := k } = s)
     ∧ (k.pwr ≠ .idle → Completes .idleExit s fun t => t = s)
     ∧ (k.pwr ≠ .off → Completes .powerRemoved s (fun t => asReset t ∧ t.skepin.pwr = .off ∧ t.skepin.ready = false)
       ∧ ∀ (q : Fin 12) (x : W32), Completes (.thermalTrip q x) s fun t =>
           asReset t ∧ t.skepin.pwr = .off ∧ t.skepin.ready = false ∧ ∃ e : LogEntry, t.skepin.trip = some e ∧ e.code = 0x0B ∧ e.detail = [BitVec.ofNat 32 q.val, x]))

/-! ## The machine -/

/-- R18, R20, R73 to R84, R101: the words that some encodings of the spec name, written out from the tables, decode to the instructions that they stand for. -/
def Obligations.DecodeSpecWords : Prop :=
  decodeTableWord 32 0x04312400 = some (.sadd 3 4 36) ∧ decodeTableWord 32 0xA4304007 = some (.kpop 3 1) ∧ decodeTableWord 32 0xFC010505 = some (.sten 4 5)
  ∧ decodeTableWord 32 0xFC000000 = some .nop ∧ decodeTableWord 32 0xFC000002 = some .exit ∧ decodeTableWord 32 0xE8000010 = some (.tret false)
  ∧ decodeTableWord 32 0xDC00000A = some (.phase .rel .dev) ∧ decodeTableWord 32 0xC8220300 = some (.laydef 2 8 3 false) ∧ decodeTableWord 32 0x9C010500 = some (.brx 4 5)
  ∧ decodeTableWord 32 0xFC001004 = some (.swr 0 .fsr)
  ∧ decodeTableWord 64 (0xDC320530 + 0x08008000 * 2 ^ 32) = some (.addst 3 8 5 8 4 false)
  ∧ decodeTableWord 64 (0x5492A000 + 0xD0000000 * 2 ^ 32) = some (.sstRel 9 10 2 0 .dev)
  ∧ decodeTableWord 96 (0x001 * 2 ^ 86 + 3 * 2 ^ 68 + 1 * 2 ^ 58 + 2 * 2 ^ 48) =
      some (.iadd ⟨false, false, false, 0, .v 3, .v 1, .v 2, .v 0, .i32, .rn, false, 0, 0, 0⟩)
  ∧ decodeTableWord 96 (0x3F0 * 2 ^ 86) = some (.lend false)
  ∧ decodeTableWord 32 0xFC0000FF = none ∧ decodeTableWord 96 0 = none

/-- R73 to R80, R97 to R100: the encoder and the decoder of S words agree, in both directions. -/
def Obligations.ScalarEncodingRoundTrip : Prop :=
  (∀ (i : Instr) (c : SCode), i.wf = true → encodeS i = some c →
      decodeS c.word (c.ext.getD 0) = some i ∧ c.word < 2 ^ 32 ∧ (isLong c.word = c.ext.isSome) ∧ ∀ e ∈ c.ext, e < 2 ^ 32)
  ∧ ∀ (w e : Nat) (i : Instr), w < 2 ^ 32 → e < 2 ^ 32 → decodeS w e = some i → i.wf = true ∧ encodeS i = some ⟨w, if isLong w then some e else none⟩

/-- R81 to R84, R91 to R93, R101, R102: the encoder and the decoder of L words agree, in both directions. -/
def Obligations.LaneEncodingRoundTrip : Prop :=
  (∀ (i : Instr) (w : Nat), i.wf = true → encodeL i = some w → decodeL w = some i ∧ w < 2 ^ 96)
  ∧ ∀ (w : Nat) (i : Instr), w < 2 ^ 96 → decodeL w = some i → i.wf = true ∧ encodeL i = some w

/-- R18, R20, R28, R76, R81: when it is a pod's turn and the word at its stream's place decodes to an instruction that does not have to wait, the step is exec of that instruction, and then the count of uncoated words, the marks of pending registers, the fills that a word waited for and the waits at barriers are kept; the word is the bytes at that place. The model's choices in it: log entries 4, 6. -/
def Obligations.StepRunsFetchedWord : Prop :=
  (∀ (s : State) (k : PodKey) (v x : State) (w e : Nat) (i : Instr), s.turn = .pods →
    let u : State := { s.tick with turn := .inputs }
    let f := (u.focusOn k).trimmed.timed
    u.pick = some k → exec i v = .next x →
    (f.pod.queue = [] → f.fetchS = .word v w e → decodeS w e = some i → (v.pod.spanFull = false ∨ v.pod.sTxn ≠ Txn.empty) → (v.conflicts i = false ∨ v.pod.sTxn ≠ Txn.empty) → v.pod.pending = [] →
      step s = .next (x.issued ⟨v.pod.key, .s, v.pod.uncoated, (sWrites i).map v.pendName⟩ v.pod))
    ∧ (f.laneTurn = true → f.fetchL (f.lAddr f.block.word).toNat = .word v w e → (v.pod.spanFull = false ∨ v.freshL = false) → decodeL w = some i →
      step s = .next (x.issued ⟨v.pod.key, .l, v.pod.uncoated && decide (v.block.rep = 0), []⟩ v.pod)))
  ∧ (∀ (x : State) (e : Issue) (before : Pod), x.pod.live = true → x.pod.key = e.pod →
      let y := x.issued e before
      { y with pod := { y.pod with count := x.pod.count, lHeld := x.pod.lHeld, pending := x.pod.pending, sTxn := x.pod.sTxn }, pods := x.pods, core := x.core, cores := x.cores } = x
      ∧ y.pod.count ≤ x.pod.count + 1
      ∧ (y.pod.sTxn = x.pod.sTxn ∨ y.pod.sTxn = { x.pod.sTxn with phase := x.pod.sTxn.phase + 1 } ∧ (x.pod.sTxn.phase = 8 ∨ x.pod.sTxn.phase = 18))
      ∧ { y.core with fills := x.core.fills } = x.core)
  ∧ ∀ (s : State) (l : Loc), s.core.tlb = [] → s.clusterTlb = [] → s.core.l1 = [] → s.core.stash = [] → lineRemote l.line = false → s.homeIdle l.line = true →
      (s.pod.pc.toNat % 4 = 0 → s.walkBusy s.core.n s.wg.ctx s.pod.pc.toNat = false → s.pod.pc.toNat + 8 ≤ 2 ^ 54 → s.locate s.core.n s.wg.ctx s.pod.pc.toNat = some l → leafSx l.leaf = true → l.key % 128 ≤ 120 → poisoned s.poison l.key 8 = false →
        let w := leValue (s.homeBytes l.key 4)
        ∃ v, s.fetchS = .word v w (if isLong w then leValue (s.homeBytes (l.key + 4) 4) else 0) ∧ { v with core := { v.core with tlb := [] }, clusterTlb := [] } = s)
      ∧ (∀ a, a + 12 ≤ 2 ^ 54 → s.walkBusy s.core.n s.wg.ctx a = false → s.locate s.core.n s.wg.ctx a = some l → leafLx l.leaf = true → l.key % 128 ≤ 116 → poisoned s.poison l.key 12 = false →
        ∃ v, s.fetchL a = .word v (leValue (s.homeBytes l.key 12)) 0 ∧ { v with core := { v.core with tlb := [] }, clusterTlb := [] } = s)

/-- R15, R16, R234, R334: time passes in each step, no more than leaves a pod that can issue its turn within 16 cycles for each resident pod of its core; an input that the device hears is run by exec, any other has no effect; of the messages of the device's own agents one goes next that no other of its class stands before, and it is run as the instruction that it stands for. The model's choices in it: log entries 4, 5, 65, 68. -/
def Obligations.StepTakesInputsAndMessages : Prop :=
  (∀ s : State, s.skepin.pwr = .idle ∨ s.skepin.pwr = .off → s.tick = { s with freeCount := s.freeCount + 1 })
  ∧ (∀ s : State, s.skepin.pwr = .p0 ∨ s.skepin.pwr = .p1 → s.pipelines = [] → s.skepin.idleOk = false → (∀ l ∈ s.launches, l.pipeline = none) →
      s.tick = { s with cycle := s.cycle + BitVec.ofNat 64 s.passing, freeCount := s.freeCount + 1 })
  ∧ (∀ s : State, s.passing ≤ Config.freeCycles s.freeCount ∧ (s.inflight ≠ [] → s.passing ≤ 16) ∧ ∀ p ∈ s.allPods, s.ready p = true →
      let seat := fun (q : Pod) => ((s.wgBy q.key.wg).filter (·.resident)).map (·.core)
      s.passing ≤ 16 * (s.allPods.filter fun q => q.live && seat q == seat p).length - (s.cycle - p.turnAt).toNat)
  ∧ (∀ (s : State) (i : Instr) (r : List Instr), s.turn = .inputs → s.agenda = i :: r →
      let u : State := { s.tick with turn := .agents, agenda := r }
      (u.admitted i = true → step s = exec i u) ∧ (u.admitted i = false → step s = .next u))
  ∧ (∀ (s : State), s.turn = .agents →
      let u : State := { s.tick with turn := .pods }
      (∀ m t x, u.due = none → u.nextMsg = some (m, t) → t.handle m = .next x → step s = .next x.wakeBars)
      ∧ ∀ m x, u.due = some m → u.handle m = .next x → step s = .next x.wakeBars)
  ∧ (∀ (s : State), s.inflight ≠ [] → ∃ m t, s.nextMsg = some (m, t) ∧ s.inflight.find? (fun x => x.cls == m.cls) = some m
      ∧ t = { s with inflight := removeFirst (fun x => x.cls == m.cls) s.inflight, classTurn := (m.cls + 1) % 5 }
      ∧ ∀ x ∈ s.inflight, (m.cls + 5 - s.classTurn % 5) % 5 ≤ (x.cls + 5 - s.classTurn % 5) % 5)
  ∧ ∀ s : State,
    (∀ p, s.handle (.sfuComplete p) = exec (.sfuComplete p) s) ∧ (∀ c, s.handle (.matrixStepComplete c) = exec (.matrixStepComplete c) s)
    ∧ (∀ r, s.handle (.launch r) = exec (.launch r) s) ∧ (∀ r, s.handle (.pipeline r) = exec (.pipeline r) s) ∧ (∀ r, s.handle (.cancelCommand r) = exec (.cancelCommand r) s)
    ∧ (∀ r, s.handle (.jobEnd r) = exec (.jobEnd r) s) ∧ (∀ r, s.handle (.wait r) = exec (.wait r) s) ∧ (∀ r, s.handle (.waitRecheck r) = exec (.waitRecheck r) s)
    ∧ (∀ r, s.handle (.translationInvalidate r) = exec (.translationInvalidate r) s) ∧ (∀ r, s.handle (.descriptorInvalidate r) = exec (.descriptorInvalidate r) s)
    ∧ (∀ r, s.handle (.setResolve r) = exec (.setResolve r) s) ∧ (s.handle (.contextCreate) = exec (.contextCreate) s) ∧ (s.handle (.contextEnd) = exec (.contextEnd) s)
    ∧ (s.handle (.ringConfigure) = exec (.ringConfigure) s) ∧ (s.handle (.domain) = exec (.domain) s) ∧ (s.handle (.placementDecision) = exec (.placementDecision) s)
    ∧ (∀ w, s.handle (.preemptSave w) = exec (.preemptSave w) s) ∧ (∀ pl, s.handle (.balancerInterval pl) = exec (.balancerInterval pl) s)
    ∧ (∀ d l e, s.handle (.seedBinTimeout d l e) = exec (.seedBinTimeout d l e) s) ∧ (∀ pl p, s.handle (.pipePushAccept pl p) = exec (.pipePushAccept pl p) s)
    ∧ (∀ pl p, s.handle (.pipePopAccept pl p) = exec (.pipePopAccept pl p) s) ∧ (∀ pl, s.handle (.pipeDeadlockDeclare pl) = exec (.pipeDeadlockDeclare pl) s)
    ∧ (∀ pl, s.handle (.pipeDrainSpill pl) = exec (.pipeDrainSpill pl) s) ∧ (∀ c, s.handle (.matrixReset c) = exec (.matrixReset c) s)
    ∧ (∀ c j, s.handle (.jobStart c j) = exec (.jobStart c j) s) ∧ (∀ c j, s.handle (.landingSlotGrant c j) = exec (.landingSlotGrant c j) s)
    ∧ (∀ c j, s.handle (.landing c j) = exec (.landing c j) s) ∧ (∀ c j, s.handle (.memoryWrite c j) = exec (.memoryWrite c j) s)
    ∧ (∀ c j, s.handle (.jobStatusLand c j) = exec (.jobStatusLand c j) s) ∧ (∀ p l, s.handle (.pendingBytes p l) = exec (.pendingBytes p l) s)
    ∧ (∀ c l, s.handle (.notice c l) = exec (.notice c l) s) ∧ (∀ l, s.handle (.noticeAcknowledge l) = exec (.noticeAcknowledge l) s)
    ∧ (∀ p l, s.handle (.homeReport p l) = exec (.homeReport p l) s) ∧ (∀ p l, s.handle (.commit p l) = exec (.commit p l) s)
    ∧ (∀ p l, s.handle (.commitConfirm p l) = exec (.commitConfirm p l) s) ∧ (∀ r, s.handle (.fill r) = exec (.fill r) s)
    ∧ (∀ c l d m, s.handle (.fillReply c l d m) = exec (.fillReply c l d m) s) ∧ (∀ x l, s.handle (.guestInvalidation x l) = exec (.guestInvalidation x l) s)
    ∧ (∀ r, s.handle (.atomicAtHome r) = exec (.atomicAtHome r) s) ∧ (∀ r, s.handle (.addstLine r) = exec (.addstLine r) s)
    ∧ (∀ r, s.handle (.ticketOperation r) = exec (.ticketOperation r) s) ∧ (∀ p k v, s.handle (.ticketServingValue p k v) = exec (.ticketServingValue p k v) s)
    ∧ (∀ r, s.handle (.daubAtHome r) = exec (.daubAtHome r) s) ∧ (∀ c l q d p, s.handle (.daubCopy c l q d p) = exec (.daubCopy c l q d p) s)
    ∧ (∀ p l a, s.handle (.daubAnswer p l a) = exec (.daubAnswer p l a) s) ∧ (∀ lo n, s.handle (.discardArrival none lo n) = exec (.discardArrival lo n) s)
    ∧ (∀ d l p, s.handle (.ownershipGrant d l p) = exec (.ownershipGrant d l p) s) ∧ (∀ r, s.handle (.forwardedFill r) = exec (.forwardedFill r) s)
    ∧ (∀ d l, s.handle (.writeBackAck d l) = exec (.writeBackAck d l) s) ∧ (∀ d l, s.handle (.recall d l) = exec (.recall d l) s)
    ∧ (∀ d l b, s.handle (.recalledPart d l b) = exec (.recalledPart d l b) s) ∧ (∀ d l, s.handle (.relayedNotice d l) = exec (.relayedNotice d l) s)
    ∧ (∀ c, s.handle (.reductionContribution c) = exec (.reductionContribution c) s) ∧ (∀ d l g, s.handle (.roundTimeout d l g) = exec (.roundTimeout d l g) s)
    ∧ (∀ d l g, s.handle (.reductionDelivery d l g) = exec (.reductionDelivery d l g) s)
    ∧ (∀ d q, s.handle (.retransmitTimeout d q) = exec (.retransmitTimeout d q) s) ∧ (∀ p, s.handle (.xsendPacket p) = exec (.xsendPacket p) s)
    ∧ (∀ k l b, s.handle (.wetStoreMessage k l b) = exec (.wetStoreMessage k l b) s) ∧ (∀ k n, s.handle (.setPrepare k n) = exec (.setPrepare k n) s)
    ∧ (∀ k d r, s.handle (.setReady k d r) = exec (.setReady k d r) s) ∧ (∀ k, s.handle (.prepareTimeout k) = exec (.prepareTimeout k) s)
    ∧ (∀ k, s.handle (.setCommit k) = exec (.setCommit k) s) ∧ (∀ k, s.handle (.commitResend k) = exec (.commitResend k) s) ∧ (∀ k, s.handle (.setScrape k) = exec (.setScrape k) s)
    ∧ (∀ k, s.handle (.decisionQuery k) = exec (.decisionQuery k) s) ∧ (∀ pl p, s.handle (.bridgeOpenTimeout pl p) = exec (.bridgeOpenTimeout pl p) s)
    ∧ (∀ d t x, s.handle (.bridgeTile d t x) = exec (.bridgeTile d t x) s) ∧ (∀ d t, s.handle (.bridgeCredit d t) = exec (.bridgeCredit d t) s)
    ∧ (∀ d t, s.handle (.bridgeClose d t) = exec (.bridgeClose d t) s) ∧ (∀ d t, s.handle (.heldBridgeOpenDrop d t) = exec (.heldBridgeOpenDrop d t) s)
    ∧ (∀ a n, s.handle (.hostRead a n) = exec (.hostRead a n) s)
    ∧ (∀ p, s.handle (.waitaRecheck p) = exec (.waitaRecheck p) s) ∧ (s.handle (.warmReset) = exec (.warmReset) s) ∧ (s.handle (.p1Exit) = exec (.p1Exit) s)
    ∧ (s.handle (.idleEntry) = exec (.idleEntry) s)

/-- R473 to R475, R477 and the reset values of log entry 3: what power-on leaves: bring-up at its start, no command under way, nothing resident, no ring, context, job or peer, all registers of Skepin at their reset values, and every byte of memory 0. The model's choices in it: log entries 2, 3. -/
def Obligations.ResetState : Prop :=
  let s := State.reset
  s.skepin.stage = 0 ∧ s.skepin.ready = false ∧ s.skepin.go = false ∧ s.skepin.op = 0 ∧ s.skepin.arg = 0 ∧ s.skepin.result = 0 ∧ s.skepin.dbg = .none ∧ s.skepin.pwr = .p0
  ∧ s.skepin.log = [] ∧ s.allPods = [] ∧ s.allWgs = [] ∧ s.rings = [] ∧ s.adm.en = false ∧ s.ctxs = [] ∧ s.jobs = [] ∧ s.launches = [] ∧ s.pipelines = []
  ∧ s.hasDev = false ∧ s.peers = [] ∧ s.pubs = [] ∧ s.records = [] ∧ s.endings = [] ∧ s.rounds = [] ∧ s.seeds = [] ∧ s.wet = [] ∧ s.sets = [] ∧ s.cycle = 0
  ∧ (∀ a, s.homeByte a = 0) ∧ (∀ n, s.coreBy n = if n = 0 then s.core else Core.fresh n) ∧ s.core = Core.fresh 0 ∧ s.mem.wf = true ∧ s.skepin.sec = .factory

/-- R378, R398: no step stops the device: traps, waits and the faults of a job are next states. -/
def Obligations.MachineNeverStops : Prop := ∀ s : State, ∃ t, step s = .next t

/-- Every step keeps the memory in its canonical form (log entry 2). The model's choices in it: log entry 2. -/
def Obligations.MemoryStaysCanonical : Prop := ∀ s t : State, s.mem.wf = true → step s = .next t → t.mem.wf = true

/-- R480, R489: whatever runs, the fused minimum never falls, a device that has left Factory does not return to it, and bring-up stages are at most 7. The model's choices in it: log entry 56. -/
def Obligations.SecurityNeverGoesBack : Prop :=
  ∀ s t : State, step s = .next t →
    s.skepin.fuse ≤ t.skepin.fuse ∧ (s.skepin.sec ≠ .factory → t.skepin.sec ≠ .factory) ∧ (s.skepin.stage ≤ 7 → t.skepin.stage ≤ 7)
end

