-- ==== Sys2Proof/Laws/Map.lean ====
section
/-! SUPPORT. Laws of sparse maps: reading back what was written, leaving every other key alone, and keeping the canonical form. -/

namespace Sys2Proof.Machine

variable {w : Nat}

@[simp] theorem NMap.get_nil (k : Nat) : NMap.get ([] : NMap w) k = 0#w := rfl

theorem NMap.get_dropUpTo_le (k j : Nat) (m : NMap w) (h : j ≤ k) : NMap.get (NMap.dropUpTo k m) j = 0#w := by
  induction m with
  | nil => rfl
  | cons e r ih =>
    obtain ⟨a, x⟩ := e
    simp only [NMap.dropUpTo]
    split
    · exact ih
    · simp only [NMap.get]; rw [if_pos (by omega)]

theorem NMap.get_dropUpTo_gt (k j : Nat) (m : NMap w) (h : k < j) : NMap.get (NMap.dropUpTo k m) j = NMap.get m j := by
  induction m with
  | nil => rfl
  | cons e r ih =>
    obtain ⟨a, x⟩ := e
    simp only [NMap.dropUpTo]
    split
    · simp only [NMap.get]; rw [if_neg (by omega), if_neg (by omega)]; exact ih
    · rfl

/-- Reading the key that was written gives the word written. -/
@[simp] theorem NMap.get_set_same (m : NMap w) (k : Nat) (v : BitVec w) : NMap.get (NMap.set m k v) k = v := by
  induction m with
  | nil => simp only [NMap.set]; split <;> simp_all [NMap.get]
  | cons e r ih =>
    obtain ⟨a, x⟩ := e
    simp only [NMap.set]
    split
    · split <;> simp_all [NMap.get]
    · split
      · split
        · simp_all [NMap.get_dropUpTo_le]
        · simp [NMap.get]
      · simp only [NMap.get]; rw [if_neg (by omega), if_neg (by omega)]; exact ih

/-- A write leaves every other key alone. -/
theorem NMap.get_set_other (m : NMap w) (k j : Nat) (v : BitVec w) (h : j ≠ k) : NMap.get (NMap.set m k v) j = NMap.get m j := by
  induction m with
  | nil =>
    simp only [NMap.set]
    split
    · rfl
    · simp only [NMap.get, if_neg h, ite_self]
  | cons e r ih =>
    obtain ⟨a, x⟩ := e
    simp only [NMap.set]
    by_cases h1 : k < a
    · rw [if_pos h1]
      split
      · rfl
      · simp only [NMap.get, if_neg h]
        by_cases h2 : j < k
        · rw [if_pos h2, if_pos (by omega)]
        · rw [if_neg h2]
    · rw [if_neg h1]
      by_cases h2 : k = a
      · subst h2
        rw [if_pos rfl]
        split
        · by_cases hj : j ≤ k
          · rw [NMap.get_dropUpTo_le k j r hj]; simp only [NMap.get]; rw [if_pos (by omega)]
          · rw [NMap.get_dropUpTo_gt k j r (by omega)]; simp only [NMap.get]; rw [if_neg (by omega), if_neg (by omega)]
        · simp only [NMap.get, if_neg h]
      · rw [if_neg h2]; simp only [NMap.get, ih]

theorem NMap.get_set (m : NMap w) (k j : Nat) (v : BitVec w) : NMap.get (NMap.set m k v) j = if j = k then v else NMap.get m j := by
  split
  · subst_vars; simp
  · exact NMap.get_set_other m k j v ‹_›

/-- The canonical form may start lower. -/
theorem NMap.wfFrom_mono {lo lo' : Nat} (h : lo' ≤ lo) : (m : NMap w) → NMap.wfFrom lo m = true → NMap.wfFrom lo' m = true
  | [], _ => rfl
  | (a, x) :: r, hm => by
    simp only [NMap.wfFrom, Bool.and_eq_true, decide_eq_true_eq] at hm ⊢
    exact ⟨⟨by omega, hm.1.2⟩, hm.2⟩

theorem NMap.wfFrom_dropUpTo (k : Nat) : (lo : Nat) → (m : NMap w) → NMap.wfFrom lo m = true → NMap.wfFrom (max lo (k + 1)) (NMap.dropUpTo k m) = true
  | _, [], _ => rfl
  | lo, (a, x) :: r, hm => by
    simp only [NMap.wfFrom, Bool.and_eq_true, decide_eq_true_eq] at hm
    simp only [NMap.dropUpTo]
    split
    · exact NMap.wfFrom_mono (by omega) _ (NMap.wfFrom_dropUpTo k (a + 1) r hm.2)
    · simp only [NMap.wfFrom, Bool.and_eq_true, decide_eq_true_eq]
      exact ⟨⟨by omega, hm.1.2⟩, hm.2⟩

/-- A write keeps the canonical form, from the lower of the bounds on. -/
theorem NMap.wfFrom_set (k : Nat) (v : BitVec w) : (lo : Nat) → (m : NMap w) → lo ≤ k → NMap.wfFrom lo m = true → NMap.wfFrom lo (NMap.set m k v) = true
  | lo, [], hk, _ => by
    simp only [NMap.set]
    split
    · rfl
    · simp [NMap.wfFrom, *]
  | lo, (a, x) :: r, hk, hm => by
    have hm' := hm
    simp only [NMap.wfFrom, Bool.and_eq_true, decide_eq_true_eq] at hm
    simp only [NMap.set]
    split
    · split
      · exact hm'
      · simp only [NMap.wfFrom, Bool.and_eq_true, decide_eq_true_eq]
        exact ⟨⟨hk, ‹_›⟩, ⟨by omega, hm.1.2⟩, hm.2⟩
    · split
      · subst_vars
        split
        · exact NMap.wfFrom_mono (by omega) _ (NMap.wfFrom_dropUpTo _ _ r hm.2)
        · simp only [NMap.wfFrom, Bool.and_eq_true, decide_eq_true_eq]
          exact ⟨⟨hk, ‹_›⟩, hm.2⟩
      · simp only [NMap.wfFrom, Bool.and_eq_true, decide_eq_true_eq]
        exact ⟨⟨hm.1.1, hm.1.2⟩, NMap.wfFrom_set k v (a + 1) r (by omega) hm.2⟩

/-- Every write keeps the canonical form. -/
theorem NMap.wf_set (m : NMap w) (k : Nat) (v : BitVec w) (h : NMap.wf m = true) : NMap.wf (NMap.set m k v) = true :=
  NMap.wfFrom_set k v 0 m (Nat.zero_le _) h

theorem NMap.wf_nil : NMap.wf ([] : NMap w) = true := rfl

theorem NMap.wf_setMany (xs : List (Nat × BitVec w)) : (m : NMap w) → NMap.wf m = true → NMap.wf (NMap.setMany m xs) = true := by
  induction xs with
  | nil => exact fun _ h => h
  | cons e r ih => exact fun m h => ih _ (NMap.wf_set m e.1 e.2 h)

theorem NMap.wf_setBytes (bs : List Byte) : (m : NMap 8) → (k : Nat) → NMap.wf m = true → NMap.wf (NMap.setBytes m k bs) = true := by
  induction bs with
  | nil => exact fun _ _ h => h
  | cons b r ih => exact fun m k h => ih _ _ (NMap.wf_set m k b h)

theorem NMap.wfFrom_filter (p : Nat × BitVec w → Bool) : (lo : Nat) → (m : NMap w) → NMap.wfFrom lo m = true → NMap.wfFrom lo (m.filter p) = true
  | _, [], _ => rfl
  | lo, (a, x) :: r, hm => by
    simp only [NMap.wfFrom, Bool.and_eq_true, decide_eq_true_eq] at hm
    simp only [List.filter_cons]
    split
    · simp only [NMap.wfFrom, Bool.and_eq_true, decide_eq_true_eq]
      exact ⟨hm.1, NMap.wfFrom_filter p (a + 1) r hm.2⟩
    · exact NMap.wfFrom_mono (by omega) _ (NMap.wfFrom_filter p (a + 1) r hm.2)

theorem NMap.wf_clear (m : NMap w) (lo hi : Nat) (h : NMap.wf m = true) : NMap.wf (NMap.clear m lo hi) = true :=
  NMap.wfFrom_filter _ 0 m h

/-- A run of bytes read back: the byte written where the key lies within it, the old one elsewhere. -/
theorem NMap.get_setBytes (bs : List Byte) : (m : NMap 8) → (k j : Nat) →
    NMap.get (NMap.setBytes m k bs) j = if k ≤ j ∧ j < k + bs.length then bs.getD (j - k) 0#8 else NMap.get m j := by
  induction bs with
  | nil => intro m k j; simp only [NMap.setBytes, List.length_nil]; rw [if_neg (by omega)]
  | cons b r ih =>
    intro m k j
    simp only [NMap.setBytes, ih, List.length_cons]
    by_cases h : k + 1 ≤ j ∧ j < k + 1 + r.length
    · rw [if_pos h, if_pos (by omega), show j - k = (j - (k + 1)) + 1 by omega]; rfl
    · rw [if_neg h, NMap.get_set]
      by_cases hk : j = k
      · subst hk; rw [if_pos rfl, if_pos (by omega)]; simp
      · rw [if_neg hk, if_neg (by omega)]

/-- Two canonical maps that read the same are the same list. -/
theorem NMap.get_of_lt : (lo k : Nat) → (m : NMap w) → NMap.wfFrom lo m = true → k < lo → NMap.get m k = 0#w
  | _, _, [], _, _ => rfl
  | lo, k, (a, x) :: r, hm, hk => by
    simp only [NMap.wfFrom, Bool.and_eq_true, decide_eq_true_eq] at hm
    simp only [NMap.get]; rw [if_pos (by omega)]

theorem NMap.ext_from : (lo : Nat) → (m n : NMap w) → NMap.wfFrom lo m = true → NMap.wfFrom lo n = true →
    (∀ k, NMap.get m k = NMap.get n k) → m = n
  | _, [], [], _, _, _ => rfl
  | lo, [], (a, x) :: r, _, hn, h => by
    simp only [NMap.wfFrom, Bool.and_eq_true, decide_eq_true_eq] at hn
    have := h a
    simp only [NMap.get, if_neg (Nat.lt_irrefl a), if_true] at this
    exact absurd this.symm hn.1.2
  | lo, (a, x) :: r, [], hm, _, h => by
    simp only [NMap.wfFrom, Bool.and_eq_true, decide_eq_true_eq] at hm
    have := h a
    simp only [NMap.get, if_neg (Nat.lt_irrefl a), if_true] at this
    exact absurd this hm.1.2
  | lo, (a, x) :: r, (b, y) :: q, hm, hn, h => by
    simp only [NMap.wfFrom, Bool.and_eq_true, decide_eq_true_eq] at hm hn
    have ha := h a
    have hb := h b
    simp only [NMap.get, if_neg (Nat.lt_irrefl a), if_neg (Nat.lt_irrefl b), if_true] at ha hb
    have hab : a = b := by
      rcases Nat.lt_trichotomy a b with g | g | g
      · rw [if_pos g] at ha; exact absurd ha hm.1.2
      · exact g
      · rw [if_pos g] at hb; exact absurd hb.symm hn.1.2
    subst hab
    rw [if_neg (Nat.lt_irrefl a), if_pos rfl] at ha
    subst ha
    have hr : r = q := NMap.ext_from (a + 1) r q hm.2 hn.2 fun k => by
      have hk := h k
      simp only [NMap.get] at hk
      by_cases g : k < a + 1
      · rw [NMap.get_of_lt _ _ _ hm.2 g, NMap.get_of_lt _ _ _ hn.2 g]
      · rwa [if_neg (by omega), if_neg (by omega), if_neg (by omega), if_neg (by omega)] at hk
    rw [hr]

/-- Equal contents are equal data. -/
theorem NMap.ext_wf (m n : NMap w) (hm : NMap.wf m = true) (hn : NMap.wf n = true) (h : ∀ k, NMap.get m k = NMap.get n k) : m = n :=
  NMap.ext_from 0 m n hm hn h

end Sys2Proof.Machine
end

