-- ==== Sys2Proof/Laws/Memory.lean ====
section
/-! SUPPORT. Laws of committed memory: every operation that writes it keeps the canonical form, memory after reset has it, and a committed byte reads back while every other byte keeps its value. -/

namespace Sys2Proof.Machine

variable (s : State)

theorem State.reset_mem_wf : State.reset.mem.wf = true := rfl

theorem State.setHomeByte_wf (key : Nat) (b : Byte) (h : s.mem.wf = true) : (s.setHomeByte key b).mem.wf = true := by
  unfold State.setHomeByte
  split
  · exact h
  · exact NMap.wf_set _ _ _ h

theorem State.setHomeAt_wf : (xs : List (Nat × Byte)) → (s : State) → s.mem.wf = true → (s.setHomeAt xs).mem.wf = true
  | [], _, h => h
  | e :: r, s, h => State.setHomeAt_wf r _ (s.setHomeByte_wf e.1 e.2 h)

theorem State.commitLine_wf (line : Nat) (bs : LineBytes) (h : s.mem.wf = true) : (s.commitLine line bs).mem.wf = true :=
  State.setHomeAt_wf _ s h

theorem State.cleared_wf (k : Skepin) (h : s.mem.wf = true) : (s.cleared k).mem.wf = true :=
  NMap.wfFrom_filter _ 0 _ h

/-- With no proxy acting as home the committed byte is memory's (R413). -/
theorem State.homeByte_of_no_proxy (a : Nat) (h : s.proxies = []) : s.homeByte a = NMap.get s.mem a := by
  unfold State.homeByte; rw [h]; rfl

theorem State.setHomeByte_of_no_proxy (key : Nat) (b : Byte) (h : s.proxies = []) :
    s.setHomeByte key b = { s with mem := NMap.set s.mem key b } := by
  unfold State.setHomeByte; rw [h]; rfl

/-- With no proxy, a committed byte reads back and every other byte keeps its value. -/
theorem State.homeByte_setHomeByte (key a : Nat) (b : Byte) (h : s.proxies = []) :
    (s.setHomeByte key b).homeByte a = if a = key then b else s.homeByte a := by
  rw [s.setHomeByte_of_no_proxy key b h, s.homeByte_of_no_proxy a h, ← NMap.get_set]
  exact State.homeByte_of_no_proxy { s with mem := NMap.set s.mem key b } a h

end Sys2Proof.Machine
end

