-- ==== Sys2Proof/Laws/State.lean ====
section
/-! SUPPORT. What each plain update of the state leaves in each field, by definition. -/

namespace Sys2Proof.Machine

variable (s : State)

/-! ## setPod -/

@[simp] theorem State.setPod_pod (p : Pod) : (s.setPod p).pod = p := rfl
@[simp] theorem State.setPod_wg (p : Pod) : (s.setPod p).wg = s.wg := rfl
@[simp] theorem State.setPod_core (p : Pod) : (s.setPod p).core = s.core := rfl
@[simp] theorem State.setPod_pods (p : Pod) : (s.setPod p).pods = s.pods := rfl
@[simp] theorem State.setPod_wgs (p : Pod) : (s.setPod p).wgs = s.wgs := rfl
@[simp] theorem State.setPod_cores (p : Pod) : (s.setPod p).cores = s.cores := rfl
@[simp] theorem State.setPod_cycle (p : Pod) : (s.setPod p).cycle = s.cycle := rfl
@[simp] theorem State.setPod_freeCount (p : Pod) : (s.setPod p).freeCount = s.freeCount := rfl
@[simp] theorem State.setPod_agenda (p : Pod) : (s.setPod p).agenda = s.agenda := rfl
@[simp] theorem State.setPod_inflight (p : Pod) : (s.setPod p).inflight = s.inflight := rfl
@[simp] theorem State.setPod_turns (p : Pod) : (s.setPod p).turns = s.turns := rfl
@[simp] theorem State.setPod_turn (p : Pod) : (s.setPod p).turn = s.turn := rfl
@[simp] theorem State.setPod_classTurn (p : Pod) : (s.setPod p).classTurn = s.classTurn := rfl
@[simp] theorem State.setPod_mem (p : Pod) : (s.setPod p).mem = s.mem := rfl
@[simp] theorem State.setPod_hbm (p : Pod) : (s.setPod p).hbm = s.hbm := rfl
@[simp] theorem State.setPod_hmeta (p : Pod) : (s.setPod p).hmeta = s.hmeta := rfl
@[simp] theorem State.setPod_wbQueue (p : Pod) : (s.setPod p).wbQueue = s.wbQueue := rfl
@[simp] theorem State.setPod_poison (p : Pod) : (s.setPod p).poison = s.poison := rfl
@[simp] theorem State.setPod_homes (p : Pod) : (s.setPod p).homes = s.homes := rfl
@[simp] theorem State.setPod_proxies (p : Pod) : (s.setPod p).proxies = s.proxies := rfl
@[simp] theorem State.setPod_guests (p : Pod) : (s.setPod p).guests = s.guests := rfl
@[simp] theorem State.setPod_clusterTlb (p : Pod) : (s.setPod p).clusterTlb = s.clusterTlb := rfl
@[simp] theorem State.setPod_pubs (p : Pod) : (s.setPod p).pubs = s.pubs := rfl
@[simp] theorem State.setPod_rounds (p : Pod) : (s.setPod p).rounds = s.rounds := rfl
@[simp] theorem State.setPod_deliveries (p : Pod) : (s.setPod p).deliveries = s.deliveries := rfl
@[simp] theorem State.setPod_seeds (p : Pod) : (s.setPod p).seeds = s.seeds := rfl
@[simp] theorem State.setPod_seedPods (p : Pod) : (s.setPod p).seedPods = s.seedPods := rfl
@[simp] theorem State.setPod_hostPending (p : Pod) : (s.setPod p).hostPending = s.hostPending := rfl
@[simp] theorem State.setPod_rings (p : Pod) : (s.setPod p).rings = s.rings := rfl
@[simp] theorem State.setPod_adm (p : Pod) : (s.setPod p).adm = s.adm := rfl
@[simp] theorem State.setPod_ctxs (p : Pod) : (s.setPod p).ctxs = s.ctxs := rfl
@[simp] theorem State.setPod_jobs (p : Pod) : (s.setPod p).jobs = s.jobs := rfl
@[simp] theorem State.setPod_launches (p : Pod) : (s.setPod p).launches = s.launches := rfl
@[simp] theorem State.setPod_pipelines (p : Pod) : (s.setPod p).pipelines = s.pipelines := rfl
@[simp] theorem State.setPod_records (p : Pod) : (s.setPod p).records = s.records := rfl
@[simp] theorem State.setPod_endings (p : Pod) : (s.setPod p).endings = s.endings := rfl
@[simp] theorem State.setPod_descCache (p : Pod) : (s.setPod p).descCache = s.descCache := rfl
@[simp] theorem State.setPod_nextLaunch (p : Pod) : (s.setPod p).nextLaunch = s.nextLaunch := rfl
@[simp] theorem State.setPod_nextId (p : Pod) : (s.setPod p).nextId = s.nextId := rfl
@[simp] theorem State.setPod_served (p : Pod) : (s.setPod p).served = s.served := rfl
@[simp] theorem State.setPod_dev (p : Pod) : (s.setPod p).dev = s.dev := rfl
@[simp] theorem State.setPod_hasDev (p : Pod) : (s.setPod p).hasDev = s.hasDev := rfl
@[simp] theorem State.setPod_dispenser (p : Pod) : (s.setPod p).dispenser = s.dispenser := rfl
@[simp] theorem State.setPod_incast (p : Pod) : (s.setPod p).incast = s.incast := rfl
@[simp] theorem State.setPod_peers (p : Pod) : (s.setPod p).peers = s.peers := rfl
@[simp] theorem State.setPod_xfers (p : Pod) : (s.setPod p).xfers = s.xfers := rfl
@[simp] theorem State.setPod_late (p : Pod) : (s.setPod p).late = s.late := rfl
@[simp] theorem State.setPod_groups (p : Pod) : (s.setPod p).groups = s.groups := rfl
@[simp] theorem State.setPod_sets (p : Pod) : (s.setPod p).sets = s.sets := rfl
@[simp] theorem State.setPod_wet (p : Pod) : (s.setPod p).wet = s.wet := rfl
@[simp] theorem State.setPod_hawk (p : Pod) : (s.setPod p).hawk = s.hawk := rfl
@[simp] theorem State.setPod_heldOpens (p : Pod) : (s.setPod p).heldOpens = s.heldOpens := rfl
@[simp] theorem State.setPod_skepin (p : Pod) : (s.setPod p).skepin = s.skepin := rfl
@[simp] theorem State.setPod_outbox (p : Pod) : (s.setPod p).outbox = s.outbox := rfl

/-! ## setWg -/

@[simp] theorem State.setWg_pod (w : Wg) : (s.setWg w).pod = s.pod := rfl
@[simp] theorem State.setWg_wg (w : Wg) : (s.setWg w).wg = w := rfl
@[simp] theorem State.setWg_core (w : Wg) : (s.setWg w).core = s.core := rfl
@[simp] theorem State.setWg_pods (w : Wg) : (s.setWg w).pods = s.pods := rfl
@[simp] theorem State.setWg_wgs (w : Wg) : (s.setWg w).wgs = s.wgs := rfl
@[simp] theorem State.setWg_cores (w : Wg) : (s.setWg w).cores = s.cores := rfl
@[simp] theorem State.setWg_cycle (w : Wg) : (s.setWg w).cycle = s.cycle := rfl
@[simp] theorem State.setWg_freeCount (w : Wg) : (s.setWg w).freeCount = s.freeCount := rfl
@[simp] theorem State.setWg_agenda (w : Wg) : (s.setWg w).agenda = s.agenda := rfl
@[simp] theorem State.setWg_inflight (w : Wg) : (s.setWg w).inflight = s.inflight := rfl
@[simp] theorem State.setWg_turns (w : Wg) : (s.setWg w).turns = s.turns := rfl
@[simp] theorem State.setWg_turn (w : Wg) : (s.setWg w).turn = s.turn := rfl
@[simp] theorem State.setWg_classTurn (w : Wg) : (s.setWg w).classTurn = s.classTurn := rfl
@[simp] theorem State.setWg_mem (w : Wg) : (s.setWg w).mem = s.mem := rfl
@[simp] theorem State.setWg_hbm (w : Wg) : (s.setWg w).hbm = s.hbm := rfl
@[simp] theorem State.setWg_hmeta (w : Wg) : (s.setWg w).hmeta = s.hmeta := rfl
@[simp] theorem State.setWg_wbQueue (w : Wg) : (s.setWg w).wbQueue = s.wbQueue := rfl
@[simp] theorem State.setWg_poison (w : Wg) : (s.setWg w).poison = s.poison := rfl
@[simp] theorem State.setWg_homes (w : Wg) : (s.setWg w).homes = s.homes := rfl
@[simp] theorem State.setWg_proxies (w : Wg) : (s.setWg w).proxies = s.proxies := rfl
@[simp] theorem State.setWg_guests (w : Wg) : (s.setWg w).guests = s.guests := rfl
@[simp] theorem State.setWg_clusterTlb (w : Wg) : (s.setWg w).clusterTlb = s.clusterTlb := rfl
@[simp] theorem State.setWg_pubs (w : Wg) : (s.setWg w).pubs = s.pubs := rfl
@[simp] theorem State.setWg_rounds (w : Wg) : (s.setWg w).rounds = s.rounds := rfl
@[simp] theorem State.setWg_deliveries (w : Wg) : (s.setWg w).deliveries = s.deliveries := rfl
@[simp] theorem State.setWg_seeds (w : Wg) : (s.setWg w).seeds = s.seeds := rfl
@[simp] theorem State.setWg_seedPods (w : Wg) : (s.setWg w).seedPods = s.seedPods := rfl
@[simp] theorem State.setWg_hostPending (w : Wg) : (s.setWg w).hostPending = s.hostPending := rfl
@[simp] theorem State.setWg_rings (w : Wg) : (s.setWg w).rings = s.rings := rfl
@[simp] theorem State.setWg_adm (w : Wg) : (s.setWg w).adm = s.adm := rfl
@[simp] theorem State.setWg_ctxs (w : Wg) : (s.setWg w).ctxs = s.ctxs := rfl
@[simp] theorem State.setWg_jobs (w : Wg) : (s.setWg w).jobs = s.jobs := rfl
@[simp] theorem State.setWg_launches (w : Wg) : (s.setWg w).launches = s.launches := rfl
@[simp] theorem State.setWg_pipelines (w : Wg) : (s.setWg w).pipelines = s.pipelines := rfl
@[simp] theorem State.setWg_records (w : Wg) : (s.setWg w).records = s.records := rfl
@[simp] theorem State.setWg_endings (w : Wg) : (s.setWg w).endings = s.endings := rfl
@[simp] theorem State.setWg_descCache (w : Wg) : (s.setWg w).descCache = s.descCache := rfl
@[simp] theorem State.setWg_nextLaunch (w : Wg) : (s.setWg w).nextLaunch = s.nextLaunch := rfl
@[simp] theorem State.setWg_nextId (w : Wg) : (s.setWg w).nextId = s.nextId := rfl
@[simp] theorem State.setWg_served (w : Wg) : (s.setWg w).served = s.served := rfl
@[simp] theorem State.setWg_dev (w : Wg) : (s.setWg w).dev = s.dev := rfl
@[simp] theorem State.setWg_hasDev (w : Wg) : (s.setWg w).hasDev = s.hasDev := rfl
@[simp] theorem State.setWg_dispenser (w : Wg) : (s.setWg w).dispenser = s.dispenser := rfl
@[simp] theorem State.setWg_incast (w : Wg) : (s.setWg w).incast = s.incast := rfl
@[simp] theorem State.setWg_peers (w : Wg) : (s.setWg w).peers = s.peers := rfl
@[simp] theorem State.setWg_xfers (w : Wg) : (s.setWg w).xfers = s.xfers := rfl
@[simp] theorem State.setWg_late (w : Wg) : (s.setWg w).late = s.late := rfl
@[simp] theorem State.setWg_groups (w : Wg) : (s.setWg w).groups = s.groups := rfl
@[simp] theorem State.setWg_sets (w : Wg) : (s.setWg w).sets = s.sets := rfl
@[simp] theorem State.setWg_wet (w : Wg) : (s.setWg w).wet = s.wet := rfl
@[simp] theorem State.setWg_hawk (w : Wg) : (s.setWg w).hawk = s.hawk := rfl
@[simp] theorem State.setWg_heldOpens (w : Wg) : (s.setWg w).heldOpens = s.heldOpens := rfl
@[simp] theorem State.setWg_skepin (w : Wg) : (s.setWg w).skepin = s.skepin := rfl
@[simp] theorem State.setWg_outbox (w : Wg) : (s.setWg w).outbox = s.outbox := rfl

/-! ## setCore -/

@[simp] theorem State.setCore_pod (c : Core) : (s.setCore c).pod = s.pod := rfl
@[simp] theorem State.setCore_wg (c : Core) : (s.setCore c).wg = s.wg := rfl
@[simp] theorem State.setCore_core (c : Core) : (s.setCore c).core = c := rfl
@[simp] theorem State.setCore_pods (c : Core) : (s.setCore c).pods = s.pods := rfl
@[simp] theorem State.setCore_wgs (c : Core) : (s.setCore c).wgs = s.wgs := rfl
@[simp] theorem State.setCore_cores (c : Core) : (s.setCore c).cores = s.cores := rfl
@[simp] theorem State.setCore_cycle (c : Core) : (s.setCore c).cycle = s.cycle := rfl
@[simp] theorem State.setCore_freeCount (c : Core) : (s.setCore c).freeCount = s.freeCount := rfl
@[simp] theorem State.setCore_agenda (c : Core) : (s.setCore c).agenda = s.agenda := rfl
@[simp] theorem State.setCore_inflight (c : Core) : (s.setCore c).inflight = s.inflight := rfl
@[simp] theorem State.setCore_turns (c : Core) : (s.setCore c).turns = s.turns := rfl
@[simp] theorem State.setCore_turn (c : Core) : (s.setCore c).turn = s.turn := rfl
@[simp] theorem State.setCore_classTurn (c : Core) : (s.setCore c).classTurn = s.classTurn := rfl
@[simp] theorem State.setCore_mem (c : Core) : (s.setCore c).mem = s.mem := rfl
@[simp] theorem State.setCore_hbm (c : Core) : (s.setCore c).hbm = s.hbm := rfl
@[simp] theorem State.setCore_hmeta (c : Core) : (s.setCore c).hmeta = s.hmeta := rfl
@[simp] theorem State.setCore_wbQueue (c : Core) : (s.setCore c).wbQueue = s.wbQueue := rfl
@[simp] theorem State.setCore_poison (c : Core) : (s.setCore c).poison = s.poison := rfl
@[simp] theorem State.setCore_homes (c : Core) : (s.setCore c).homes = s.homes := rfl
@[simp] theorem State.setCore_proxies (c : Core) : (s.setCore c).proxies = s.proxies := rfl
@[simp] theorem State.setCore_guests (c : Core) : (s.setCore c).guests = s.guests := rfl
@[simp] theorem State.setCore_clusterTlb (c : Core) : (s.setCore c).clusterTlb = s.clusterTlb := rfl
@[simp] theorem State.setCore_pubs (c : Core) : (s.setCore c).pubs = s.pubs := rfl
@[simp] theorem State.setCore_rounds (c : Core) : (s.setCore c).rounds = s.rounds := rfl
@[simp] theorem State.setCore_deliveries (c : Core) : (s.setCore c).deliveries = s.deliveries := rfl
@[simp] theorem State.setCore_seeds (c : Core) : (s.setCore c).seeds = s.seeds := rfl
@[simp] theorem State.setCore_seedPods (c : Core) : (s.setCore c).seedPods = s.seedPods := rfl
@[simp] theorem State.setCore_hostPending (c : Core) : (s.setCore c).hostPending = s.hostPending := rfl
@[simp] theorem State.setCore_rings (c : Core) : (s.setCore c).rings = s.rings := rfl
@[simp] theorem State.setCore_adm (c : Core) : (s.setCore c).adm = s.adm := rfl
@[simp] theorem State.setCore_ctxs (c : Core) : (s.setCore c).ctxs = s.ctxs := rfl
@[simp] theorem State.setCore_jobs (c : Core) : (s.setCore c).jobs = s.jobs := rfl
@[simp] theorem State.setCore_launches (c : Core) : (s.setCore c).launches = s.launches := rfl
@[simp] theorem State.setCore_pipelines (c : Core) : (s.setCore c).pipelines = s.pipelines := rfl
@[simp] theorem State.setCore_records (c : Core) : (s.setCore c).records = s.records := rfl
@[simp] theorem State.setCore_endings (c : Core) : (s.setCore c).endings = s.endings := rfl
@[simp] theorem State.setCore_descCache (c : Core) : (s.setCore c).descCache = s.descCache := rfl
@[simp] theorem State.setCore_nextLaunch (c : Core) : (s.setCore c).nextLaunch = s.nextLaunch := rfl
@[simp] theorem State.setCore_nextId (c : Core) : (s.setCore c).nextId = s.nextId := rfl
@[simp] theorem State.setCore_served (c : Core) : (s.setCore c).served = s.served := rfl
@[simp] theorem State.setCore_dev (c : Core) : (s.setCore c).dev = s.dev := rfl
@[simp] theorem State.setCore_hasDev (c : Core) : (s.setCore c).hasDev = s.hasDev := rfl
@[simp] theorem State.setCore_dispenser (c : Core) : (s.setCore c).dispenser = s.dispenser := rfl
@[simp] theorem State.setCore_incast (c : Core) : (s.setCore c).incast = s.incast := rfl
@[simp] theorem State.setCore_peers (c : Core) : (s.setCore c).peers = s.peers := rfl
@[simp] theorem State.setCore_xfers (c : Core) : (s.setCore c).xfers = s.xfers := rfl
@[simp] theorem State.setCore_late (c : Core) : (s.setCore c).late = s.late := rfl
@[simp] theorem State.setCore_groups (c : Core) : (s.setCore c).groups = s.groups := rfl
@[simp] theorem State.setCore_sets (c : Core) : (s.setCore c).sets = s.sets := rfl
@[simp] theorem State.setCore_wet (c : Core) : (s.setCore c).wet = s.wet := rfl
@[simp] theorem State.setCore_hawk (c : Core) : (s.setCore c).hawk = s.hawk := rfl
@[simp] theorem State.setCore_heldOpens (c : Core) : (s.setCore c).heldOpens = s.heldOpens := rfl
@[simp] theorem State.setCore_skepin (c : Core) : (s.setCore c).skepin = s.skepin := rfl
@[simp] theorem State.setCore_outbox (c : Core) : (s.setCore c).outbox = s.outbox := rfl

/-! ## send -/

@[simp] theorem State.send_pod (i : Msg) : (s.send i).pod = s.pod := rfl
@[simp] theorem State.send_wg (i : Msg) : (s.send i).wg = s.wg := rfl
@[simp] theorem State.send_core (i : Msg) : (s.send i).core = s.core := rfl
@[simp] theorem State.send_pods (i : Msg) : (s.send i).pods = s.pods := rfl
@[simp] theorem State.send_wgs (i : Msg) : (s.send i).wgs = s.wgs := rfl
@[simp] theorem State.send_cores (i : Msg) : (s.send i).cores = s.cores := rfl
@[simp] theorem State.send_cycle (i : Msg) : (s.send i).cycle = s.cycle := rfl
@[simp] theorem State.send_freeCount (i : Msg) : (s.send i).freeCount = s.freeCount := rfl
@[simp] theorem State.send_agenda (i : Msg) : (s.send i).agenda = s.agenda := rfl
@[simp] theorem State.send_inflight (i : Msg) : (s.send i).inflight = s.inflight ++ [i] := rfl
@[simp] theorem State.send_turns (i : Msg) : (s.send i).turns = s.turns := rfl
@[simp] theorem State.send_turn (i : Msg) : (s.send i).turn = s.turn := rfl
@[simp] theorem State.send_classTurn (i : Msg) : (s.send i).classTurn = s.classTurn := rfl
@[simp] theorem State.send_mem (i : Msg) : (s.send i).mem = s.mem := rfl
@[simp] theorem State.send_hbm (i : Msg) : (s.send i).hbm = s.hbm := rfl
@[simp] theorem State.send_hmeta (i : Msg) : (s.send i).hmeta = s.hmeta := rfl
@[simp] theorem State.send_wbQueue (i : Msg) : (s.send i).wbQueue = s.wbQueue := rfl
@[simp] theorem State.send_poison (i : Msg) : (s.send i).poison = s.poison := rfl
@[simp] theorem State.send_homes (i : Msg) : (s.send i).homes = s.homes := rfl
@[simp] theorem State.send_proxies (i : Msg) : (s.send i).proxies = s.proxies := rfl
@[simp] theorem State.send_guests (i : Msg) : (s.send i).guests = s.guests := rfl
@[simp] theorem State.send_clusterTlb (i : Msg) : (s.send i).clusterTlb = s.clusterTlb := rfl
@[simp] theorem State.send_pubs (i : Msg) : (s.send i).pubs = s.pubs := rfl
@[simp] theorem State.send_rounds (i : Msg) : (s.send i).rounds = s.rounds := rfl
@[simp] theorem State.send_deliveries (i : Msg) : (s.send i).deliveries = s.deliveries := rfl
@[simp] theorem State.send_seeds (i : Msg) : (s.send i).seeds = s.seeds := rfl
@[simp] theorem State.send_seedPods (i : Msg) : (s.send i).seedPods = s.seedPods := rfl
@[simp] theorem State.send_hostPending (i : Msg) : (s.send i).hostPending = s.hostPending := rfl
@[simp] theorem State.send_rings (i : Msg) : (s.send i).rings = s.rings := rfl
@[simp] theorem State.send_adm (i : Msg) : (s.send i).adm = s.adm := rfl
@[simp] theorem State.send_ctxs (i : Msg) : (s.send i).ctxs = s.ctxs := rfl
@[simp] theorem State.send_jobs (i : Msg) : (s.send i).jobs = s.jobs := rfl
@[simp] theorem State.send_launches (i : Msg) : (s.send i).launches = s.launches := rfl
@[simp] theorem State.send_pipelines (i : Msg) : (s.send i).pipelines = s.pipelines := rfl
@[simp] theorem State.send_records (i : Msg) : (s.send i).records = s.records := rfl
@[simp] theorem State.send_endings (i : Msg) : (s.send i).endings = s.endings := rfl
@[simp] theorem State.send_descCache (i : Msg) : (s.send i).descCache = s.descCache := rfl
@[simp] theorem State.send_nextLaunch (i : Msg) : (s.send i).nextLaunch = s.nextLaunch := rfl
@[simp] theorem State.send_nextId (i : Msg) : (s.send i).nextId = s.nextId := rfl
@[simp] theorem State.send_served (i : Msg) : (s.send i).served = s.served := rfl
@[simp] theorem State.send_dev (i : Msg) : (s.send i).dev = s.dev := rfl
@[simp] theorem State.send_hasDev (i : Msg) : (s.send i).hasDev = s.hasDev := rfl
@[simp] theorem State.send_dispenser (i : Msg) : (s.send i).dispenser = s.dispenser := rfl
@[simp] theorem State.send_incast (i : Msg) : (s.send i).incast = s.incast := rfl
@[simp] theorem State.send_peers (i : Msg) : (s.send i).peers = s.peers := rfl
@[simp] theorem State.send_xfers (i : Msg) : (s.send i).xfers = s.xfers := rfl
@[simp] theorem State.send_late (i : Msg) : (s.send i).late = s.late := rfl
@[simp] theorem State.send_groups (i : Msg) : (s.send i).groups = s.groups := rfl
@[simp] theorem State.send_sets (i : Msg) : (s.send i).sets = s.sets := rfl
@[simp] theorem State.send_wet (i : Msg) : (s.send i).wet = s.wet := rfl
@[simp] theorem State.send_hawk (i : Msg) : (s.send i).hawk = s.hawk := rfl
@[simp] theorem State.send_heldOpens (i : Msg) : (s.send i).heldOpens = s.heldOpens := rfl
@[simp] theorem State.send_skepin (i : Msg) : (s.send i).skepin = s.skepin := rfl
@[simp] theorem State.send_outbox (i : Msg) : (s.send i).outbox = s.outbox := rfl

/-! ## sendAll -/

@[simp] theorem State.sendAll_pod (is : List Msg) : (s.sendAll is).pod = s.pod := rfl
@[simp] theorem State.sendAll_wg (is : List Msg) : (s.sendAll is).wg = s.wg := rfl
@[simp] theorem State.sendAll_core (is : List Msg) : (s.sendAll is).core = s.core := rfl
@[simp] theorem State.sendAll_pods (is : List Msg) : (s.sendAll is).pods = s.pods := rfl
@[simp] theorem State.sendAll_wgs (is : List Msg) : (s.sendAll is).wgs = s.wgs := rfl
@[simp] theorem State.sendAll_cores (is : List Msg) : (s.sendAll is).cores = s.cores := rfl
@[simp] theorem State.sendAll_cycle (is : List Msg) : (s.sendAll is).cycle = s.cycle := rfl
@[simp] theorem State.sendAll_freeCount (is : List Msg) : (s.sendAll is).freeCount = s.freeCount := rfl
@[simp] theorem State.sendAll_agenda (is : List Msg) : (s.sendAll is).agenda = s.agenda := rfl
@[simp] theorem State.sendAll_inflight (is : List Msg) : (s.sendAll is).inflight = s.inflight ++ is := rfl
@[simp] theorem State.sendAll_turns (is : List Msg) : (s.sendAll is).turns = s.turns := rfl
@[simp] theorem State.sendAll_turn (is : List Msg) : (s.sendAll is).turn = s.turn := rfl
@[simp] theorem State.sendAll_classTurn (is : List Msg) : (s.sendAll is).classTurn = s.classTurn := rfl
@[simp] theorem State.sendAll_mem (is : List Msg) : (s.sendAll is).mem = s.mem := rfl
@[simp] theorem State.sendAll_hbm (is : List Msg) : (s.sendAll is).hbm = s.hbm := rfl
@[simp] theorem State.sendAll_hmeta (is : List Msg) : (s.sendAll is).hmeta = s.hmeta := rfl
@[simp] theorem State.sendAll_wbQueue (is : List Msg) : (s.sendAll is).wbQueue = s.wbQueue := rfl
@[simp] theorem State.sendAll_poison (is : List Msg) : (s.sendAll is).poison = s.poison := rfl
@[simp] theorem State.sendAll_homes (is : List Msg) : (s.sendAll is).homes = s.homes := rfl
@[simp] theorem State.sendAll_proxies (is : List Msg) : (s.sendAll is).proxies = s.proxies := rfl
@[simp] theorem State.sendAll_guests (is : List Msg) : (s.sendAll is).guests = s.guests := rfl
@[simp] theorem State.sendAll_clusterTlb (is : List Msg) : (s.sendAll is).clusterTlb = s.clusterTlb := rfl
@[simp] theorem State.sendAll_pubs (is : List Msg) : (s.sendAll is).pubs = s.pubs := rfl
@[simp] theorem State.sendAll_rounds (is : List Msg) : (s.sendAll is).rounds = s.rounds := rfl
@[simp] theorem State.sendAll_deliveries (is : List Msg) : (s.sendAll is).deliveries = s.deliveries := rfl
@[simp] theorem State.sendAll_seeds (is : List Msg) : (s.sendAll is).seeds = s.seeds := rfl
@[simp] theorem State.sendAll_seedPods (is : List Msg) : (s.sendAll is).seedPods = s.seedPods := rfl
@[simp] theorem State.sendAll_hostPending (is : List Msg) : (s.sendAll is).hostPending = s.hostPending := rfl
@[simp] theorem State.sendAll_rings (is : List Msg) : (s.sendAll is).rings = s.rings := rfl
@[simp] theorem State.sendAll_adm (is : List Msg) : (s.sendAll is).adm = s.adm := rfl
@[simp] theorem State.sendAll_ctxs (is : List Msg) : (s.sendAll is).ctxs = s.ctxs := rfl
@[simp] theorem State.sendAll_jobs (is : List Msg) : (s.sendAll is).jobs = s.jobs := rfl
@[simp] theorem State.sendAll_launches (is : List Msg) : (s.sendAll is).launches = s.launches := rfl
@[simp] theorem State.sendAll_pipelines (is : List Msg) : (s.sendAll is).pipelines = s.pipelines := rfl
@[simp] theorem State.sendAll_records (is : List Msg) : (s.sendAll is).records = s.records := rfl
@[simp] theorem State.sendAll_endings (is : List Msg) : (s.sendAll is).endings = s.endings := rfl
@[simp] theorem State.sendAll_descCache (is : List Msg) : (s.sendAll is).descCache = s.descCache := rfl
@[simp] theorem State.sendAll_nextLaunch (is : List Msg) : (s.sendAll is).nextLaunch = s.nextLaunch := rfl
@[simp] theorem State.sendAll_nextId (is : List Msg) : (s.sendAll is).nextId = s.nextId := rfl
@[simp] theorem State.sendAll_served (is : List Msg) : (s.sendAll is).served = s.served := rfl
@[simp] theorem State.sendAll_dev (is : List Msg) : (s.sendAll is).dev = s.dev := rfl
@[simp] theorem State.sendAll_hasDev (is : List Msg) : (s.sendAll is).hasDev = s.hasDev := rfl
@[simp] theorem State.sendAll_dispenser (is : List Msg) : (s.sendAll is).dispenser = s.dispenser := rfl
@[simp] theorem State.sendAll_incast (is : List Msg) : (s.sendAll is).incast = s.incast := rfl
@[simp] theorem State.sendAll_peers (is : List Msg) : (s.sendAll is).peers = s.peers := rfl
@[simp] theorem State.sendAll_xfers (is : List Msg) : (s.sendAll is).xfers = s.xfers := rfl
@[simp] theorem State.sendAll_late (is : List Msg) : (s.sendAll is).late = s.late := rfl
@[simp] theorem State.sendAll_groups (is : List Msg) : (s.sendAll is).groups = s.groups := rfl
@[simp] theorem State.sendAll_sets (is : List Msg) : (s.sendAll is).sets = s.sets := rfl
@[simp] theorem State.sendAll_wet (is : List Msg) : (s.sendAll is).wet = s.wet := rfl
@[simp] theorem State.sendAll_hawk (is : List Msg) : (s.sendAll is).hawk = s.hawk := rfl
@[simp] theorem State.sendAll_heldOpens (is : List Msg) : (s.sendAll is).heldOpens = s.heldOpens := rfl
@[simp] theorem State.sendAll_skepin (is : List Msg) : (s.sendAll is).skepin = s.skepin := rfl
@[simp] theorem State.sendAll_outbox (is : List Msg) : (s.sendAll is).outbox = s.outbox := rfl

/-! ## out -/

@[simp] theorem State.out_pod (o : Out) : (s.out o).pod = s.pod := rfl
@[simp] theorem State.out_wg (o : Out) : (s.out o).wg = s.wg := rfl
@[simp] theorem State.out_core (o : Out) : (s.out o).core = s.core := rfl
@[simp] theorem State.out_pods (o : Out) : (s.out o).pods = s.pods := rfl
@[simp] theorem State.out_wgs (o : Out) : (s.out o).wgs = s.wgs := rfl
@[simp] theorem State.out_cores (o : Out) : (s.out o).cores = s.cores := rfl
@[simp] theorem State.out_cycle (o : Out) : (s.out o).cycle = s.cycle := rfl
@[simp] theorem State.out_freeCount (o : Out) : (s.out o).freeCount = s.freeCount := rfl
@[simp] theorem State.out_agenda (o : Out) : (s.out o).agenda = s.agenda := rfl
@[simp] theorem State.out_inflight (o : Out) : (s.out o).inflight = s.inflight := rfl
@[simp] theorem State.out_turns (o : Out) : (s.out o).turns = s.turns := rfl
@[simp] theorem State.out_turn (o : Out) : (s.out o).turn = s.turn := rfl
@[simp] theorem State.out_classTurn (o : Out) : (s.out o).classTurn = s.classTurn := rfl
@[simp] theorem State.out_mem (o : Out) : (s.out o).mem = s.mem := rfl
@[simp] theorem State.out_hbm (o : Out) : (s.out o).hbm = s.hbm := rfl
@[simp] theorem State.out_hmeta (o : Out) : (s.out o).hmeta = s.hmeta := rfl
@[simp] theorem State.out_wbQueue (o : Out) : (s.out o).wbQueue = s.wbQueue := rfl
@[simp] theorem State.out_poison (o : Out) : (s.out o).poison = s.poison := rfl
@[simp] theorem State.out_homes (o : Out) : (s.out o).homes = s.homes := rfl
@[simp] theorem State.out_proxies (o : Out) : (s.out o).proxies = s.proxies := rfl
@[simp] theorem State.out_guests (o : Out) : (s.out o).guests = s.guests := rfl
@[simp] theorem State.out_clusterTlb (o : Out) : (s.out o).clusterTlb = s.clusterTlb := rfl
@[simp] theorem State.out_pubs (o : Out) : (s.out o).pubs = s.pubs := rfl
@[simp] theorem State.out_rounds (o : Out) : (s.out o).rounds = s.rounds := rfl
@[simp] theorem State.out_deliveries (o : Out) : (s.out o).deliveries = s.deliveries := rfl
@[simp] theorem State.out_seeds (o : Out) : (s.out o).seeds = s.seeds := rfl
@[simp] theorem State.out_seedPods (o : Out) : (s.out o).seedPods = s.seedPods := rfl
@[simp] theorem State.out_hostPending (o : Out) : (s.out o).hostPending = s.hostPending := rfl
@[simp] theorem State.out_rings (o : Out) : (s.out o).rings = s.rings := rfl
@[simp] theorem State.out_adm (o : Out) : (s.out o).adm = s.adm := rfl
@[simp] theorem State.out_ctxs (o : Out) : (s.out o).ctxs = s.ctxs := rfl
@[simp] theorem State.out_jobs (o : Out) : (s.out o).jobs = s.jobs := rfl
@[simp] theorem State.out_launches (o : Out) : (s.out o).launches = s.launches := rfl
@[simp] theorem State.out_pipelines (o : Out) : (s.out o).pipelines = s.pipelines := rfl
@[simp] theorem State.out_records (o : Out) : (s.out o).records = s.records := rfl
@[simp] theorem State.out_endings (o : Out) : (s.out o).endings = s.endings := rfl
@[simp] theorem State.out_descCache (o : Out) : (s.out o).descCache = s.descCache := rfl
@[simp] theorem State.out_nextLaunch (o : Out) : (s.out o).nextLaunch = s.nextLaunch := rfl
@[simp] theorem State.out_nextId (o : Out) : (s.out o).nextId = s.nextId := rfl
@[simp] theorem State.out_served (o : Out) : (s.out o).served = s.served := rfl
@[simp] theorem State.out_dev (o : Out) : (s.out o).dev = s.dev := rfl
@[simp] theorem State.out_hasDev (o : Out) : (s.out o).hasDev = s.hasDev := rfl
@[simp] theorem State.out_dispenser (o : Out) : (s.out o).dispenser = s.dispenser := rfl
@[simp] theorem State.out_incast (o : Out) : (s.out o).incast = s.incast := rfl
@[simp] theorem State.out_peers (o : Out) : (s.out o).peers = s.peers := rfl
@[simp] theorem State.out_xfers (o : Out) : (s.out o).xfers = s.xfers := rfl
@[simp] theorem State.out_late (o : Out) : (s.out o).late = s.late := rfl
@[simp] theorem State.out_groups (o : Out) : (s.out o).groups = s.groups := rfl
@[simp] theorem State.out_sets (o : Out) : (s.out o).sets = s.sets := rfl
@[simp] theorem State.out_wet (o : Out) : (s.out o).wet = s.wet := rfl
@[simp] theorem State.out_hawk (o : Out) : (s.out o).hawk = s.hawk := rfl
@[simp] theorem State.out_heldOpens (o : Out) : (s.out o).heldOpens = s.heldOpens := rfl
@[simp] theorem State.out_skepin (o : Out) : (s.out o).skepin = s.skepin := rfl
@[simp] theorem State.out_outbox (o : Out) : (s.out o).outbox = s.outbox ++ [o] := rfl

/-! ## advance -/

@[simp] theorem State.advance_pod_key (len : Nat) : (s.advance len).pod.key = s.pod.key := rfl
@[simp] theorem State.advance_pod_live (len : Nat) : (s.advance len).pod.live = s.pod.live := rfl
@[simp] theorem State.advance_pod_exited (len : Nat) : (s.advance len).pod.exited = s.pod.exited := rfl
@[simp] theorem State.advance_pod_halted (len : Nat) : (s.advance len).pod.halted = s.pod.halted := rfl
@[simp] theorem State.advance_pod_s (len : Nat) : (s.advance len).pod.s = s.pod.s := rfl
@[simp] theorem State.advance_pod_k (len : Nat) : (s.advance len).pod.k = s.pod.k := rfl
@[simp] theorem State.advance_pod_liveMask (len : Nat) : (s.advance len).pod.liveMask = s.pod.liveMask := rfl
@[simp] theorem State.advance_pod_v (len : Nat) : (s.advance len).pod.v = s.pod.v := rfl
@[simp] theorem State.advance_pod_o (len : Nat) : (s.advance len).pod.o = s.pod.o := rfl
@[simp] theorem State.advance_pod_b (len : Nat) : (s.advance len).pod.b = s.pod.b := rfl
@[simp] theorem State.advance_pod_bankS (len : Nat) : (s.advance len).pod.bankS = s.pod.bankS := rfl
@[simp] theorem State.advance_pod_bankV (len : Nat) : (s.advance len).pod.bankV = s.pod.bankV := rfl
@[simp] theorem State.advance_pod_shadow (len : Nat) : (s.advance len).pod.shadow = s.pod.shadow := rfl
@[simp] theorem State.advance_pod_pc (len : Nat) : (s.advance len).pod.pc = s.pod.pc + BitVec.ofNat 64 len := rfl
@[simp] theorem State.advance_pod_fsr (len : Nat) : (s.advance len).pod.fsr = s.pod.fsr := rfl
@[simp] theorem State.advance_pod_ten (len : Nat) : (s.advance len).pod.ten = s.pod.ten := rfl
@[simp] theorem State.advance_pod_brnd (len : Nat) : (s.advance len).pod.brnd = s.pod.brnd := rfl
@[simp] theorem State.advance_pod_drnd (len : Nat) : (s.advance len).pod.drnd = s.pod.drnd := rfl
@[simp] theorem State.advance_pod_tcause (len : Nat) : (s.advance len).pod.tcause = s.pod.tcause := rfl
@[simp] theorem State.advance_pod_tspc (len : Nat) : (s.advance len).pod.tspc = s.pod.tspc := rfl
@[simp] theorem State.advance_pod_tlpc (len : Nat) : (s.advance len).pod.tlpc = s.pod.tlpc := rfl
@[simp] theorem State.advance_pod_tmask (len : Nat) : (s.advance len).pod.tmask = s.pod.tmask := rfl
@[simp] theorem State.advance_pod_taddr (len : Nat) : (s.advance len).pod.taddr = s.pod.taddr := rfl
@[simp] theorem State.advance_pod_queue (len : Nat) : (s.advance len).pod.queue = s.pod.queue := rfl
@[simp] theorem State.advance_pod_inHandler (len : Nat) : (s.advance len).pod.inHandler = s.pod.inHandler := rfl
@[simp] theorem State.advance_pod_trapLane (len : Nat) : (s.advance len).pod.trapLane = s.pod.trapLane := rfl
@[simp] theorem State.advance_pod_trapLen (len : Nat) : (s.advance len).pod.trapLen = s.pod.trapLen := rfl
@[simp] theorem State.advance_pod_trapRep (len : Nat) : (s.advance len).pod.trapRep = s.pod.trapRep := rfl
@[simp] theorem State.advance_pod_tlpcEntry (len : Nat) : (s.advance len).pod.tlpcEntry = s.pod.tlpcEntry := rfl
@[simp] theorem State.advance_pod_setAside (len : Nat) : (s.advance len).pod.setAside = s.pod.setAside := rfl
@[simp] theorem State.advance_pod_spanTrap (len : Nat) : (s.advance len).pod.spanTrap = s.pod.spanTrap := rfl
@[simp] theorem State.advance_pod_sfu (len : Nat) : (s.advance len).pod.sfu = s.pod.sfu := rfl
@[simp] theorem State.advance_pod_coat (len : Nat) : (s.advance len).pod.coat = s.pod.coat := rfl
@[simp] theorem State.advance_pod_count (len : Nat) : (s.advance len).pod.count = s.pod.count := rfl
@[simp] theorem State.advance_pod_pending (len : Nat) : (s.advance len).pod.pending = s.pod.pending := rfl
@[simp] theorem State.advance_pod_tcopies (len : Nat) : (s.advance len).pod.tcopies = s.pod.tcopies := rfl
@[simp] theorem State.advance_pod_daubOut (len : Nat) : (s.advance len).pod.daubOut = s.pod.daubOut := rfl
@[simp] theorem State.advance_pod_daubAcc (len : Nat) : (s.advance len).pod.daubAcc = s.pod.daubAcc := rfl
@[simp] theorem State.advance_pod_daubRef (len : Nat) : (s.advance len).pod.daubRef = s.pod.daubRef := rfl
@[simp] theorem State.advance_pod_sTxn (len : Nat) : (s.advance len).pod.sTxn = Txn.empty := rfl
@[simp] theorem State.advance_pod_lTxn (len : Nat) : (s.advance len).pod.lTxn = s.pod.lTxn := rfl
@[simp] theorem State.advance_pod_held (len : Nat) : (s.advance len).pod.held = Hold.none := rfl
@[simp] theorem State.advance_pod_lHeld (len : Nat) : (s.advance len).pod.lHeld = s.pod.lHeld := rfl
@[simp] theorem State.advance_pod_lFe (len : Nat) : (s.advance len).pod.lFe = s.pod.lFe := rfl
@[simp] theorem State.advance_pod_stopReq (len : Nat) : (s.advance len).pod.stopReq = s.pod.stopReq := rfl
@[simp] theorem State.advance_pod_dying (len : Nat) : (s.advance len).pod.dying = s.pod.dying := rfl
@[simp] theorem State.advance_pod_dead (len : Nat) : (s.advance len).pod.dead = s.pod.dead := rfl
@[simp] theorem State.advance_pod_residentC (len : Nat) : (s.advance len).pod.residentC = s.pod.residentC := rfl
@[simp] theorem State.advance_pod_blockedC (len : Nat) : (s.advance len).pod.blockedC = s.pod.blockedC := rfl
@[simp] theorem State.advance_pod_starvedC (len : Nat) : (s.advance len).pod.starvedC = s.pod.starvedC := rfl
@[simp] theorem State.advance_pod_turnAt (len : Nat) : (s.advance len).pod.turnAt = s.pod.turnAt := rfl
@[simp] theorem State.advance_wg (len : Nat) : (s.advance len).wg = s.wg := rfl
@[simp] theorem State.advance_core (len : Nat) : (s.advance len).core = s.core := rfl
@[simp] theorem State.advance_pods (len : Nat) : (s.advance len).pods = s.pods := rfl
@[simp] theorem State.advance_wgs (len : Nat) : (s.advance len).wgs = s.wgs := rfl
@[simp] theorem State.advance_cores (len : Nat) : (s.advance len).cores = s.cores := rfl
@[simp] theorem State.advance_cycle (len : Nat) : (s.advance len).cycle = s.cycle := rfl
@[simp] theorem State.advance_freeCount (len : Nat) : (s.advance len).freeCount = s.freeCount := rfl
@[simp] theorem State.advance_agenda (len : Nat) : (s.advance len).agenda = s.agenda := rfl
@[simp] theorem State.advance_inflight (len : Nat) : (s.advance len).inflight = s.inflight := rfl
@[simp] theorem State.advance_turns (len : Nat) : (s.advance len).turns = s.turns := rfl
@[simp] theorem State.advance_turn (len : Nat) : (s.advance len).turn = s.turn := rfl
@[simp] theorem State.advance_classTurn (len : Nat) : (s.advance len).classTurn = s.classTurn := rfl
@[simp] theorem State.advance_mem (len : Nat) : (s.advance len).mem = s.mem := rfl
@[simp] theorem State.advance_hbm (len : Nat) : (s.advance len).hbm = s.hbm := rfl
@[simp] theorem State.advance_hmeta (len : Nat) : (s.advance len).hmeta = s.hmeta := rfl
@[simp] theorem State.advance_wbQueue (len : Nat) : (s.advance len).wbQueue = s.wbQueue := rfl
@[simp] theorem State.advance_poison (len : Nat) : (s.advance len).poison = s.poison := rfl
@[simp] theorem State.advance_homes (len : Nat) : (s.advance len).homes = s.homes := rfl
@[simp] theorem State.advance_proxies (len : Nat) : (s.advance len).proxies = s.proxies := rfl
@[simp] theorem State.advance_guests (len : Nat) : (s.advance len).guests = s.guests := rfl
@[simp] theorem State.advance_clusterTlb (len : Nat) : (s.advance len).clusterTlb = s.clusterTlb := rfl
@[simp] theorem State.advance_pubs (len : Nat) : (s.advance len).pubs = s.pubs := rfl
@[simp] theorem State.advance_rounds (len : Nat) : (s.advance len).rounds = s.rounds := rfl
@[simp] theorem State.advance_deliveries (len : Nat) : (s.advance len).deliveries = s.deliveries := rfl
@[simp] theorem State.advance_seeds (len : Nat) : (s.advance len).seeds = s.seeds := rfl
@[simp] theorem State.advance_seedPods (len : Nat) : (s.advance len).seedPods = s.seedPods := rfl
@[simp] theorem State.advance_hostPending (len : Nat) : (s.advance len).hostPending = s.hostPending := rfl
@[simp] theorem State.advance_rings (len : Nat) : (s.advance len).rings = s.rings := rfl
@[simp] theorem State.advance_adm (len : Nat) : (s.advance len).adm = s.adm := rfl
@[simp] theorem State.advance_ctxs (len : Nat) : (s.advance len).ctxs = s.ctxs := rfl
@[simp] theorem State.advance_jobs (len : Nat) : (s.advance len).jobs = s.jobs := rfl
@[simp] theorem State.advance_launches (len : Nat) : (s.advance len).launches = s.launches := rfl
@[simp] theorem State.advance_pipelines (len : Nat) : (s.advance len).pipelines = s.pipelines := rfl
@[simp] theorem State.advance_records (len : Nat) : (s.advance len).records = s.records := rfl
@[simp] theorem State.advance_endings (len : Nat) : (s.advance len).endings = s.endings := rfl
@[simp] theorem State.advance_descCache (len : Nat) : (s.advance len).descCache = s.descCache := rfl
@[simp] theorem State.advance_nextLaunch (len : Nat) : (s.advance len).nextLaunch = s.nextLaunch := rfl
@[simp] theorem State.advance_nextId (len : Nat) : (s.advance len).nextId = s.nextId := rfl
@[simp] theorem State.advance_served (len : Nat) : (s.advance len).served = s.served := rfl
@[simp] theorem State.advance_dev (len : Nat) : (s.advance len).dev = s.dev := rfl
@[simp] theorem State.advance_hasDev (len : Nat) : (s.advance len).hasDev = s.hasDev := rfl
@[simp] theorem State.advance_dispenser (len : Nat) : (s.advance len).dispenser = s.dispenser := rfl
@[simp] theorem State.advance_incast (len : Nat) : (s.advance len).incast = s.incast := rfl
@[simp] theorem State.advance_peers (len : Nat) : (s.advance len).peers = s.peers := rfl
@[simp] theorem State.advance_xfers (len : Nat) : (s.advance len).xfers = s.xfers := rfl
@[simp] theorem State.advance_late (len : Nat) : (s.advance len).late = s.late := rfl
@[simp] theorem State.advance_groups (len : Nat) : (s.advance len).groups = s.groups := rfl
@[simp] theorem State.advance_sets (len : Nat) : (s.advance len).sets = s.sets := rfl
@[simp] theorem State.advance_wet (len : Nat) : (s.advance len).wet = s.wet := rfl
@[simp] theorem State.advance_hawk (len : Nat) : (s.advance len).hawk = s.hawk := rfl
@[simp] theorem State.advance_heldOpens (len : Nat) : (s.advance len).heldOpens = s.heldOpens := rfl
@[simp] theorem State.advance_skepin (len : Nat) : (s.advance len).skepin = s.skepin := rfl
@[simp] theorem State.advance_outbox (len : Nat) : (s.advance len).outbox = s.outbox := rfl

/-! ## jump -/

@[simp] theorem State.jump_pod_key (pc : W64) : (s.jump pc).pod.key = s.pod.key := rfl
@[simp] theorem State.jump_pod_live (pc : W64) : (s.jump pc).pod.live = s.pod.live := rfl
@[simp] theorem State.jump_pod_exited (pc : W64) : (s.jump pc).pod.exited = s.pod.exited := rfl
@[simp] theorem State.jump_pod_halted (pc : W64) : (s.jump pc).pod.halted = s.pod.halted := rfl
@[simp] theorem State.jump_pod_s (pc : W64) : (s.jump pc).pod.s = s.pod.s := rfl
@[simp] theorem State.jump_pod_k (pc : W64) : (s.jump pc).pod.k = s.pod.k := rfl
@[simp] theorem State.jump_pod_liveMask (pc : W64) : (s.jump pc).pod.liveMask = s.pod.liveMask := rfl
@[simp] theorem State.jump_pod_v (pc : W64) : (s.jump pc).pod.v = s.pod.v := rfl
@[simp] theorem State.jump_pod_o (pc : W64) : (s.jump pc).pod.o = s.pod.o := rfl
@[simp] theorem State.jump_pod_b (pc : W64) : (s.jump pc).pod.b = s.pod.b := rfl
@[simp] theorem State.jump_pod_bankS (pc : W64) : (s.jump pc).pod.bankS = s.pod.bankS := rfl
@[simp] theorem State.jump_pod_bankV (pc : W64) : (s.jump pc).pod.bankV = s.pod.bankV := rfl
@[simp] theorem State.jump_pod_shadow (pc : W64) : (s.jump pc).pod.shadow = s.pod.shadow := rfl
@[simp] theorem State.jump_pod_pc (pc : W64) : (s.jump pc).pod.pc = pc := rfl
@[simp] theorem State.jump_pod_fsr (pc : W64) : (s.jump pc).pod.fsr = s.pod.fsr := rfl
@[simp] theorem State.jump_pod_ten (pc : W64) : (s.jump pc).pod.ten = s.pod.ten := rfl
@[simp] theorem State.jump_pod_brnd (pc : W64) : (s.jump pc).pod.brnd = s.pod.brnd := rfl
@[simp] theorem State.jump_pod_drnd (pc : W64) : (s.jump pc).pod.drnd = s.pod.drnd := rfl
@[simp] theorem State.jump_pod_tcause (pc : W64) : (s.jump pc).pod.tcause = s.pod.tcause := rfl
@[simp] theorem State.jump_pod_tspc (pc : W64) : (s.jump pc).pod.tspc = s.pod.tspc := rfl
@[simp] theorem State.jump_pod_tlpc (pc : W64) : (s.jump pc).pod.tlpc = s.pod.tlpc := rfl
@[simp] theorem State.jump_pod_tmask (pc : W64) : (s.jump pc).pod.tmask = s.pod.tmask := rfl
@[simp] theorem State.jump_pod_taddr (pc : W64) : (s.jump pc).pod.taddr = s.pod.taddr := rfl
@[simp] theorem State.jump_pod_queue (pc : W64) : (s.jump pc).pod.queue = s.pod.queue := rfl
@[simp] theorem State.jump_pod_inHandler (pc : W64) : (s.jump pc).pod.inHandler = s.pod.inHandler := rfl
@[simp] theorem State.jump_pod_trapLane (pc : W64) : (s.jump pc).pod.trapLane = s.pod.trapLane := rfl
@[simp] theorem State.jump_pod_trapLen (pc : W64) : (s.jump pc).pod.trapLen = s.pod.trapLen := rfl
@[simp] theorem State.jump_pod_trapRep (pc : W64) : (s.jump pc).pod.trapRep = s.pod.trapRep := rfl
@[simp] theorem State.jump_pod_tlpcEntry (pc : W64) : (s.jump pc).pod.tlpcEntry = s.pod.tlpcEntry := rfl
@[simp] theorem State.jump_pod_setAside (pc : W64) : (s.jump pc).pod.setAside = s.pod.setAside := rfl
@[simp] theorem State.jump_pod_spanTrap (pc : W64) : (s.jump pc).pod.spanTrap = s.pod.spanTrap := rfl
@[simp] theorem State.jump_pod_sfu (pc : W64) : (s.jump pc).pod.sfu = s.pod.sfu := rfl
@[simp] theorem State.jump_pod_coat (pc : W64) : (s.jump pc).pod.coat = s.pod.coat := rfl
@[simp] theorem State.jump_pod_count (pc : W64) : (s.jump pc).pod.count = s.pod.count := rfl
@[simp] theorem State.jump_pod_pending (pc : W64) : (s.jump pc).pod.pending = s.pod.pending := rfl
@[simp] theorem State.jump_pod_tcopies (pc : W64) : (s.jump pc).pod.tcopies = s.pod.tcopies := rfl
@[simp] theorem State.jump_pod_daubOut (pc : W64) : (s.jump pc).pod.daubOut = s.pod.daubOut := rfl
@[simp] theorem State.jump_pod_daubAcc (pc : W64) : (s.jump pc).pod.daubAcc = s.pod.daubAcc := rfl
@[simp] theorem State.jump_pod_daubRef (pc : W64) : (s.jump pc).pod.daubRef = s.pod.daubRef := rfl
@[simp] theorem State.jump_pod_sTxn (pc : W64) : (s.jump pc).pod.sTxn = Txn.empty := rfl
@[simp] theorem State.jump_pod_lTxn (pc : W64) : (s.jump pc).pod.lTxn = s.pod.lTxn := rfl
@[simp] theorem State.jump_pod_held (pc : W64) : (s.jump pc).pod.held = Hold.none := rfl
@[simp] theorem State.jump_pod_lHeld (pc : W64) : (s.jump pc).pod.lHeld = s.pod.lHeld := rfl
@[simp] theorem State.jump_pod_lFe (pc : W64) : (s.jump pc).pod.lFe = s.pod.lFe := rfl
@[simp] theorem State.jump_pod_stopReq (pc : W64) : (s.jump pc).pod.stopReq = s.pod.stopReq := rfl
@[simp] theorem State.jump_pod_dying (pc : W64) : (s.jump pc).pod.dying = s.pod.dying := rfl
@[simp] theorem State.jump_pod_dead (pc : W64) : (s.jump pc).pod.dead = s.pod.dead := rfl
@[simp] theorem State.jump_pod_residentC (pc : W64) : (s.jump pc).pod.residentC = s.pod.residentC := rfl
@[simp] theorem State.jump_pod_blockedC (pc : W64) : (s.jump pc).pod.blockedC = s.pod.blockedC := rfl
@[simp] theorem State.jump_pod_starvedC (pc : W64) : (s.jump pc).pod.starvedC = s.pod.starvedC := rfl
@[simp] theorem State.jump_pod_turnAt (pc : W64) : (s.jump pc).pod.turnAt = s.pod.turnAt := rfl
@[simp] theorem State.jump_wg (pc : W64) : (s.jump pc).wg = s.wg := rfl
@[simp] theorem State.jump_core (pc : W64) : (s.jump pc).core = s.core := rfl
@[simp] theorem State.jump_pods (pc : W64) : (s.jump pc).pods = s.pods := rfl
@[simp] theorem State.jump_wgs (pc : W64) : (s.jump pc).wgs = s.wgs := rfl
@[simp] theorem State.jump_cores (pc : W64) : (s.jump pc).cores = s.cores := rfl
@[simp] theorem State.jump_cycle (pc : W64) : (s.jump pc).cycle = s.cycle := rfl
@[simp] theorem State.jump_freeCount (pc : W64) : (s.jump pc).freeCount = s.freeCount := rfl
@[simp] theorem State.jump_agenda (pc : W64) : (s.jump pc).agenda = s.agenda := rfl
@[simp] theorem State.jump_inflight (pc : W64) : (s.jump pc).inflight = s.inflight := rfl
@[simp] theorem State.jump_turns (pc : W64) : (s.jump pc).turns = s.turns := rfl
@[simp] theorem State.jump_turn (pc : W64) : (s.jump pc).turn = s.turn := rfl
@[simp] theorem State.jump_classTurn (pc : W64) : (s.jump pc).classTurn = s.classTurn := rfl
@[simp] theorem State.jump_mem (pc : W64) : (s.jump pc).mem = s.mem := rfl
@[simp] theorem State.jump_hbm (pc : W64) : (s.jump pc).hbm = s.hbm := rfl
@[simp] theorem State.jump_hmeta (pc : W64) : (s.jump pc).hmeta = s.hmeta := rfl
@[simp] theorem State.jump_wbQueue (pc : W64) : (s.jump pc).wbQueue = s.wbQueue := rfl
@[simp] theorem State.jump_poison (pc : W64) : (s.jump pc).poison = s.poison := rfl
@[simp] theorem State.jump_homes (pc : W64) : (s.jump pc).homes = s.homes := rfl
@[simp] theorem State.jump_proxies (pc : W64) : (s.jump pc).proxies = s.proxies := rfl
@[simp] theorem State.jump_guests (pc : W64) : (s.jump pc).guests = s.guests := rfl
@[simp] theorem State.jump_clusterTlb (pc : W64) : (s.jump pc).clusterTlb = s.clusterTlb := rfl
@[simp] theorem State.jump_pubs (pc : W64) : (s.jump pc).pubs = s.pubs := rfl
@[simp] theorem State.jump_rounds (pc : W64) : (s.jump pc).rounds = s.rounds := rfl
@[simp] theorem State.jump_deliveries (pc : W64) : (s.jump pc).deliveries = s.deliveries := rfl
@[simp] theorem State.jump_seeds (pc : W64) : (s.jump pc).seeds = s.seeds := rfl
@[simp] theorem State.jump_seedPods (pc : W64) : (s.jump pc).seedPods = s.seedPods := rfl
@[simp] theorem State.jump_hostPending (pc : W64) : (s.jump pc).hostPending = s.hostPending := rfl
@[simp] theorem State.jump_rings (pc : W64) : (s.jump pc).rings = s.rings := rfl
@[simp] theorem State.jump_adm (pc : W64) : (s.jump pc).adm = s.adm := rfl
@[simp] theorem State.jump_ctxs (pc : W64) : (s.jump pc).ctxs = s.ctxs := rfl
@[simp] theorem State.jump_jobs (pc : W64) : (s.jump pc).jobs = s.jobs := rfl
@[simp] theorem State.jump_launches (pc : W64) : (s.jump pc).launches = s.launches := rfl
@[simp] theorem State.jump_pipelines (pc : W64) : (s.jump pc).pipelines = s.pipelines := rfl
@[simp] theorem State.jump_records (pc : W64) : (s.jump pc).records = s.records := rfl
@[simp] theorem State.jump_endings (pc : W64) : (s.jump pc).endings = s.endings := rfl
@[simp] theorem State.jump_descCache (pc : W64) : (s.jump pc).descCache = s.descCache := rfl
@[simp] theorem State.jump_nextLaunch (pc : W64) : (s.jump pc).nextLaunch = s.nextLaunch := rfl
@[simp] theorem State.jump_nextId (pc : W64) : (s.jump pc).nextId = s.nextId := rfl
@[simp] theorem State.jump_served (pc : W64) : (s.jump pc).served = s.served := rfl
@[simp] theorem State.jump_dev (pc : W64) : (s.jump pc).dev = s.dev := rfl
@[simp] theorem State.jump_hasDev (pc : W64) : (s.jump pc).hasDev = s.hasDev := rfl
@[simp] theorem State.jump_dispenser (pc : W64) : (s.jump pc).dispenser = s.dispenser := rfl
@[simp] theorem State.jump_incast (pc : W64) : (s.jump pc).incast = s.incast := rfl
@[simp] theorem State.jump_peers (pc : W64) : (s.jump pc).peers = s.peers := rfl
@[simp] theorem State.jump_xfers (pc : W64) : (s.jump pc).xfers = s.xfers := rfl
@[simp] theorem State.jump_late (pc : W64) : (s.jump pc).late = s.late := rfl
@[simp] theorem State.jump_groups (pc : W64) : (s.jump pc).groups = s.groups := rfl
@[simp] theorem State.jump_sets (pc : W64) : (s.jump pc).sets = s.sets := rfl
@[simp] theorem State.jump_wet (pc : W64) : (s.jump pc).wet = s.wet := rfl
@[simp] theorem State.jump_hawk (pc : W64) : (s.jump pc).hawk = s.hawk := rfl
@[simp] theorem State.jump_heldOpens (pc : W64) : (s.jump pc).heldOpens = s.heldOpens := rfl
@[simp] theorem State.jump_skepin (pc : W64) : (s.jump pc).skepin = s.skepin := rfl
@[simp] theorem State.jump_outbox (pc : W64) : (s.jump pc).outbox = s.outbox := rfl

end Sys2Proof.Machine
end

