-- ==== Sys2Proof/Laws/Ops.lean ====
section
/-! SUPPORT. What the shared operations of Machine/Ops.lean do, once: reading and writing registers, closing a coat, going on, holding, taking a trap and returning from one. -/

namespace Sys2Proof.Machine

variable (s : State)

/-! ## Registers -/

@[simp] theorem State.readS_zero : s.readS 0 = 0 := rfl
@[simp] theorem State.readK_zero : s.readK 0 = s.pod.liveMask := rfl

/-- Reading depends on three fields of the pod only. -/
theorem State.readS_congr {s t : State} (h : t.pod.s = s.pod.s ∧ t.pod.bankS = s.pod.bankS ∧ t.pod.inHandler = s.pod.inHandler) (n : Nat) :
    t.readS n = s.readS n := by
  unfold State.readS Pod.banked; rw [h.1, h.2.1, h.2.2]

@[simp] theorem State.readS_advance (len n : Nat) : (s.advance len).readS n = s.readS n := rfl
@[simp] theorem State.readK_advance (len n : Nat) : (s.advance len).readK n = s.readK n := rfl
@[simp] theorem State.readS_jump (pc : W64) (n : Nat) : (s.jump pc).readS n = s.readS n := rfl
@[simp] theorem State.homeByte_advance (len a : Nat) : (s.advance len).homeByte a = s.homeByte a := rfl
@[simp] theorem State.homeByte_jump (pc : W64) (a : Nat) : (s.jump pc).homeByte a = s.homeByte a := rfl

/-- Closing a coat changes the coat and the journal only. -/
theorem State.closeCoat_rest :
    { s.closeCoat with pod := { s.closeCoat.pod with coat := s.pod.coat }, wg := { s.closeCoat.wg with journal := s.wg.journal } } = s := by
  unfold State.closeCoat; split <;> rfl

theorem State.closeCoat_coat : s.closeCoat.pod.coat = none := by
  unfold State.closeCoat; split <;> simp_all

theorem State.closeCoat_journal :
    s.closeCoat.wg.journal = if s.pod.coat = none then s.wg.journal else s.wg.journal.filter fun e => e.pod != s.pod.key.pod := by
  unfold State.closeCoat; split <;> simp_all

theorem Pod.liveInS_coat {p : Pod} {n : Nat} (h : p.liveInS n = true) : p.coat ≠ none := by
  intro hc; simp [Pod.liveInS, hc] at h

theorem Pod.liveInK_coat {p : Pod} {n : Nat} (h : p.liveInK n = true) : p.coat ≠ none := by
  intro hc; simp [Pod.liveInK, hc] at h

/-- What follows a write and a move of the S-stream, given what the write does. -/
theorem ScalarEffect.of_write (d : Nat) (x : W64) (len : Nat) : ScalarEffect s ((s.writeS d x).advance len) d x len := by
  by_cases hd : d = 0
  · subst hd
    refine ⟨?_, ?_, ?_, ⟨rfl, rfl, rfl⟩, ?_, ?_, rfl, fun _ => rfl⟩ <;> simp [State.writeS]
  · by_cases hl : s.pod.liveInS d = true
    · have hc := Pod.liveInS_coat hl
      obtain ⟨c, hc⟩ := Option.ne_none_iff_exists'.mp hc
      by_cases hb : s.pod.banked d = true
      · have hb' := hb
        simp only [Pod.banked, Bool.and_eq_true, decide_eq_true_eq] at hb'
        have hw : s.writeS d x = { s with
            pod := { s.pod with coat := none, bankS := NMap.set s.pod.bankS d x }
            wg := { s.wg with journal := s.wg.journal.filter fun e => e.pod != s.pod.key.pod } } := by
          simp [State.writeS, hd, hl, State.closeCoat, hc, Pod.banked, hb']
        rw [hw]
        refine ⟨fun n => ?_, fun n => ?_, fun n => ?_, ⟨rfl, rfl, rfl⟩, ?_, ?_, rfl, fun _ => rfl⟩
        · simp only [State.readS, State.advance, Pod.banked, hb', Bool.true_and, decide_eq_true_eq, NMap.get_set]
          by_cases hn : n = d
          · subst hn; simp [hd, hb'.2]
          · simp [hn]
        · simp [State.advance, hb]
        · simp [State.advance, NMap.get_set, hd, hb]
        · simp [State.advance, hd, hl]
        · simp [State.advance, hd, hl]
      · have hw : s.writeS d x = { s with
            pod := { s.pod with coat := none, s := NMap.set s.pod.s d x }
            wg := { s.wg with journal := s.wg.journal.filter fun e => e.pod != s.pod.key.pod } } := by
          have hb2 : ∀ p : Pod, p.inHandler = s.pod.inHandler → p.banked d = false := by
            intro p hp; simpa [Pod.banked, hp] using hb
          simp only [State.writeS, hd, hl, State.closeCoat, hc, if_false, if_true]
          rw [if_neg]
          simp [Pod.banked] at hb ⊢; exact hb
        rw [hw]
        refine ⟨fun n => ?_, fun n => ?_, fun n => ?_, ⟨rfl, rfl, rfl⟩, ?_, ?_, rfl, fun _ => rfl⟩
        · simp only [State.readS, State.advance, Pod.banked, NMap.get_set]
          by_cases hn : n = d
          · subst hn; simp [hd]; intro h1 h2; exact absurd (by simp [Pod.banked, h1, h2]) hb
          · simp [hn]
        · simp [State.advance, NMap.get_set, hd, hb]
        · simp [State.advance, hb]
        · simp [State.advance, hd, hl]
        · simp [State.advance, hd, hl]
    · by_cases hb : s.pod.banked d = true
      · have hw : s.writeS d x = { s with pod := { s.pod with bankS := NMap.set s.pod.bankS d x } } := by
          simp [State.writeS, hd, hl, hb]
        have hb' := hb
        simp only [Pod.banked, Bool.and_eq_true, decide_eq_true_eq] at hb'
        rw [hw]
        refine ⟨fun n => ?_, fun n => ?_, fun n => ?_, ⟨rfl, rfl, rfl⟩, ?_, ?_, rfl, fun _ => rfl⟩
        · simp only [State.readS, State.advance, Pod.banked, hb', Bool.true_and, decide_eq_true_eq, NMap.get_set]
          by_cases hn : n = d
          · subst hn; simp [hd, hb'.2]
          · simp [hn]
        · simp [State.advance, hb]
        · simp [State.advance, NMap.get_set, hd, hb]
        · simp [State.advance, hl]
        · simp [State.advance, hl]
      · have hw : s.writeS d x = { s with pod := { s.pod with s := NMap.set s.pod.s d x } } := by
          simp [State.writeS, hd, hl, hb]
        rw [hw]
        refine ⟨fun n => ?_, fun n => ?_, fun n => ?_, ⟨rfl, rfl, rfl⟩, ?_, ?_, rfl, fun _ => rfl⟩
        · simp only [State.readS, State.advance, Pod.banked, NMap.get_set]
          by_cases hn : n = d
          · subst hn; simp [hd]; intro h1 h2; exact absurd (by simp [Pod.banked, h1, h2]) hb
          · simp [hn]
        · simp [State.advance, NMap.get_set, hd, hb]
        · simp [State.advance, hb]
        · simp [State.advance, hl]
        · simp [State.advance, hl]

/-- The same for a mask. -/
theorem MaskEffect.of_write (d : Nat) (x : W32) : MaskEffect s ((s.writeK d x).advance 4) d x := by
  by_cases hd : d = 0
  · subst hd
    rw [show s.writeK 0 x = s by simp [State.writeK]]
    exact ⟨fun n => by by_cases hn : n = 0 <;> simp [hn], ⟨rfl, rfl, rfl⟩, by simp [State.advance], by simp [State.advance], rfl, fun _ => rfl⟩
  · by_cases hl : s.pod.liveInK d = true
    · obtain ⟨c, hc⟩ := Option.ne_none_iff_exists'.mp (Pod.liveInK_coat hl)
      have hw : s.writeK d x = { s with
          pod := { s.pod with coat := none, k := NMap.set s.pod.k d x }
          wg := { s.wg with journal := s.wg.journal.filter fun e => e.pod != s.pod.key.pod } } := by
        simp [State.writeK, hd, hl, State.closeCoat, hc]
      rw [hw]
      refine ⟨fun n => ?_, ⟨rfl, rfl, rfl⟩, ?_, ?_, rfl, fun _ => rfl⟩
      · simp only [State.readK, State.advance, NMap.get_set]
        by_cases hn : n = d
        · subst hn; simp [hd]
        · simp [hn]
      · simp [State.advance, hd, hl]
      · simp [State.advance, hd, hl]
    · have hw : s.writeK d x = { s with pod := { s.pod with k := NMap.set s.pod.k d x } } := by simp [State.writeK, hd, hl]
      rw [hw]
      refine ⟨fun n => ?_, ⟨rfl, rfl, rfl⟩, ?_, ?_, rfl, fun _ => rfl⟩
      · simp only [State.readK, State.advance, NMap.get_set]
        by_cases hn : n = d
        · subst hn; simp [hd]
        · simp [hn]
      · simp [State.advance, hl]
      · simp [State.advance, hl]

/-- A scalar result and a move of 4 bytes. -/
theorem State.put_effect (d : Fin 64) (x : W64) : ScalarEffect s (s.put d x) d.val x 4 := ScalarEffect.of_write s d.val x 4

/-- A mask result and a move of 4 bytes. -/
theorem State.putK_effect (d : Fin 16) (x : W32) : MaskEffect s (s.putK d x) d.val x := MaskEffect.of_write s d.val x

theorem State.jump_effect (pc : W64) : JumpEffect s (s.jump pc) pc := ⟨rfl, rfl, rfl, rfl, fun _ => rfl⟩

/-! ## Traps -/

/-- Draining the SFU queue changes the v and o registers and fsr, and nothing else of the pod. -/
theorem Pod.drainSfu_rest (p : Pod) : { p.drainSfu with v := p.v, o := p.o, fsr := p.fsr, sfu := p.sfu } = p := by
  have aux : ∀ (l : List SfuOp) (q : Pod),
      { (l.foldl (fun (p : Pod) (o : SfuOp) => { p with v := NMap.setMany p.v o.vw, o := NMap.setMany p.o o.ow, fsr := p.fsr ||| o.flags }) q) with
        v := q.v, o := q.o, fsr := q.fsr } = q := by
    intro l
    induction l with
    | nil => intro q; rfl
    | cons a r ih =>
      intro q
      have h := ih { q with v := NMap.setMany q.v a.vw, o := NMap.setMany q.o a.ow, fsr := q.fsr ||| a.flags }
      simp only [List.foldl_cons]
      have h2 := congrArg (fun (x : Pod) => { x with v := q.v, o := q.o, fsr := q.fsr }) h
      exact h2
  have h := aux p.sfu { p with sfu := [] }
  have h2 := congrArg (fun (x : Pod) => { x with sfu := p.sfu }) h
  exact h2

theorem Pod.drainSfu_sfu (p : Pod) : p.drainSfu.sfu = [] := by
  have aux : ∀ (l : List SfuOp) (q : Pod),
      (l.foldl (fun (p : Pod) (o : SfuOp) => { p with v := NMap.setMany p.v o.vw, o := NMap.setMany p.o o.ow, fsr := p.fsr ||| o.flags }) q).sfu = q.sfu := by
    intro l
    induction l with
    | nil => intro q; rfl
    | cons a r ih => intro q; simp only [List.foldl_cons]; rw [ih]
  exact aux _ _

theorem Pod.drainSfu_nil (p : Pod) (h : p.sfu = []) : p.drainSfu = p := by
  cases p; simp_all [Pod.drainSfu]

theorem Pod.drainSfu_eq (p : Pod) :
    p.drainSfu = { p with v := p.drainSfu.v, o := p.drainSfu.o, fsr := p.drainSfu.fsr, sfu := [] } := by
  have h := congrArg (fun (x : Pod) => { x with v := p.drainSfu.v, o := p.drainSfu.o, fsr := p.drainSfu.fsr, sfu := [] }) p.drainSfu_rest
  have h2 : { p.drainSfu with sfu := [] } = p.drainSfu := by
    have := p.drainSfu_sfu
    cases hp : p.drainSfu; simp_all
  exact h2.symm.trans h

/-- Leaving its waits, a pod changes of the cores only the loads that wait for their fills. -/
theorem State.unwait_sameCores (k : PodKey) : SameCores s (s.unwait k) := by
  refine ⟨rfl, ?_⟩
  simp [State.unwait, State.mapCores, Core.leaveFills, Function.comp_def]

/-- Taking a trap outside the handler with a handler present: the pod enters it (R378 to R381). -/
theorem State.takeTrap_enters (c : Cause) (lane : Bool) (spc lpc : W64) (mask : W32) (addr : W64) (len rep : Nat) (aside : List Block)
    (h : s.canTrap) :
    EntersHandler s (s.takeTrap c lane spc lpc mask addr len rep aside) c spc lpc mask addr := by
  obtain ⟨h1, h2⟩ := h
  have hd : (s.unwait s.pod.key).desc = s.desc := rfl
  unfold State.takeTrap
  rw [if_neg (by rw [h1]; simpa using h2)]
  by_cases hc : c = .coatSpan
  · subst hc
    simp only [if_true]
    have hu : (s.unwait s.pod.key).closeCoat.pod = { s.pod with coat := none } := by
      unfold State.closeCoat
      split
      · rename_i hn
        have : s.pod.coat = none := hn
        show s.pod = _
        cases hp : s.pod; simp_all
      · rfl
    have hdd : (s.unwait s.pod.key).closeCoat.desc = s.desc := by
      unfold State.closeCoat; split <;> rfl
    have hm : ∀ t : State, t.proxies = s.proxies → t.mem = s.mem → SameMemory s t := by
      intro t g1 g2 a; simp [State.homeByte, g1, g2]
    have ho : (s.unwait s.pod.key).closeCoat.pods = s.pods ∧ (s.unwait s.pod.key).closeCoat.wgs = s.wgs ∧ SameCores s (s.unwait s.pod.key).closeCoat ∧
        (s.unwait s.pod.key).closeCoat.proxies = s.proxies ∧ (s.unwait s.pod.key).closeCoat.mem = s.mem := by
      unfold State.closeCoat; split <;> exact ⟨rfl, rfl, s.unwait_sameCores _, rfl, rfl⟩
    rw [hu, Pod.drainSfu_eq]
    refine ⟨rfl, rfl, rfl, rfl, rfl, ⟨rfl, congrArg Desc.handler hdd, rfl⟩, ⟨rfl, rfl⟩, ⟨rfl, rfl, rfl, rfl⟩, ⟨rfl, fun g => ?_⟩, ⟨rfl, rfl, rfl⟩, fun g => absurd rfl g,
      ⟨ho.1, ho.2.1, ho.2.2.1⟩, hm _ ho.2.2.2.1 ho.2.2.2.2, ho.2.2.2.2⟩
    rw [Pod.drainSfu_nil _ (by exact g)]; exact ⟨rfl, rfl, rfl⟩
  · simp only [if_neg hc]
    have hu : (s.unwait s.pod.key).pod = s.pod := rfl
    rw [hu, Pod.drainSfu_eq]
    refine ⟨rfl, rfl, rfl, rfl, rfl, ⟨rfl, rfl, rfl⟩, ⟨rfl, rfl⟩, ⟨rfl, rfl, rfl, rfl⟩, ⟨rfl, fun g => ?_⟩, ⟨rfl, rfl, rfl⟩, fun _ => ⟨rfl, rfl⟩,
      ⟨rfl, rfl, s.unwait_sameCores _⟩, fun _ => rfl, rfl⟩
    rw [Pod.drainSfu_nil _ g]; exact ⟨rfl, rfl, rfl⟩

/-- A trap of an S word, with no lane block waiting. -/
theorem State.trapS_enters (len : Nat) (c : Cause) (addr : W64) (h : s.canTrap) (hq : s.pod.queue = []) :
    EntersHandler s (s.trapS len c addr) c s.pod.pc 0 0 addr ∧ (s.trapS len c addr).pod.trapLane = false
      ∧ (s.trapS len c addr).pod.trapLen = len ∧ (s.trapS len c addr).pod.setAside = [] := by
  have ht : s.trapS len c addr = s.takeTrap c false s.pod.pc 0 0 addr len 0 [] := by simp [State.trapS, hq]
  rw [ht]
  refine ⟨s.takeTrap_enters c false s.pod.pc 0 0 addr len 0 [] h, ?_⟩
  unfold State.takeTrap
  rw [if_neg (by rw [h.1]; simpa using h.2)]
  exact ⟨rfl, rfl, rfl⟩

end Sys2Proof.Machine
end

