-- ==== Sys2Proof/Tests/Slice0.lean ====
section
/-! SUPPORT. The tests of this model: ill-formed instructions that well-formedness refuses, words written out from the spec's encodings, single steps on small states, and for each statement states and operands that meet its hypotheses. -/

namespace Sys2Proof.Tests

open Machine

set_option maxRecDepth 20000

/-! ## Small states -/

/-- A launch of context 0 with two workgroups on die 0. -/
def tLaunch : Launch :=
  { id := 1, ctx := 0, ring := 1, job := 3,
    d := { Desc.zero with entry := 0x1000, lbase := 0x2000, handler := 0x3000, grant := ⟨1, 256, 1024, 4, 16, 4, 1⟩ },
    cls := 1, args := 0x40, gx := 2, gy := 1, gz := 1, dies := [0], whole := false, next := 1, count := 0, record := 0, msix := false,
    pipeline := none, ending := false, done := false, seedSerial := [], wetGroups := [] }

def tPod : Pod :=
  { Pod.empty with key := ⟨5, 0⟩, live := true, pc := 0x1000, liveMask := BitVec.allOnes 32, s := [(2, 7), (4, 0x100)], k := [(1, 0xF0)] }

def tWg : Wg :=
  { Wg.empty with id := 5, resident := true, launch := 1, ctx := 0, grant := ⟨1, 256, 1024, 4, 16, 4, 1⟩, alg := [(0, AlgTable.real)] }

/-- A pod of a context whose level-1 table at 0x100000 maps the first 4 TiB onto themselves, writable, executable and tracked. -/
def tBase : State :=
  { State.reset with
    pod := tPod, wg := tWg, core := { Core.fresh 0 with ctx := some 0 },
    ctxs := [⟨0, 0, 0x100000, 0, none⟩], mem := [(0x100000, 0xF3#8)], launches := [tLaunch],
    jobs := [⟨3, 0, 0, true, 0, 1, false, 1, 0, false, false, none⟩], nextLaunch := 2, nextId := 10,
    skepin := { Skepin.reset with stage := 7, ready := true, verified := true } }

/-- The same with values in scalar registers. -/
def withS (s : State) (xs : List (Nat × W64)) : State := { s with pod := { s.pod with s := NMap.setMany s.pod.s xs } }

/-- The same with a lane block in the queue. -/
def withBlock (s : State) (rep : Nat) : State := { s with pod := { s.pod with queue := [⟨3, List.replicate 16 9, rep, 0, 1⟩] } }

/-- The location of a byte of page 0 of the table above. -/
def tLoc (a : Nat) : Loc := { key := a, leaf := 0xF3, level := 1 }

/-! ## Hypotheses met: scalar words -/

theorem meets_select : tBase.readS 2 ≠ 0 ∧ tBase.readS 3 = 0 := by decide
theorem meets_bitfields : (63 : Fin 64).val + (0 : Fin 64).val < 64 ∧ (0 : Fin 64).val + (63 : Fin 64).val < 64 := by decide
theorem meets_division : tBase.readS 2 ≠ 0 ∧ tBase.readS 3 = 0 ∧ tBase.pod.inHandler = false ∧ tBase.desc.handler ≠ 0 ∧ tBase.pod.queue = [] := by decide
theorem meets_division_wrap :
    (withS tBase [(2, BitVec.intMin 64), (3, -1)]).readS 2 = BitVec.intMin 64 ∧ (withS tBase [(2, BitVec.intMin 64), (3, -1)]).readS 3 = -1 := by decide
theorem meets_branches : goodTarget (relTarget tBase (8#26).toInt) ∧ goodTarget (relTarget tBase (0xFFFFE#20).toInt) ∧ tBase.readS 3 = 0 ∧ tBase.readS 2 ≠ 0
    ∧ tBase.readK 1 &&& tBase.readK 0 ≠ 0 ∧ tBase.readK 0 &&& tBase.readK 0 = tBase.readK 0 ∧ tBase.readK 2 &&& tBase.readK 0 = 0
    ∧ tBase.readK 1 &&& tBase.readK 0 ≠ tBase.readK 0 ∧ goodTarget (tBase.readS 4 + 4 * tBase.readS 2) ∧ goodTarget (tBase.readS 4) := by
  unfold goodTarget; decide
theorem meets_branch_traps : tBase.canTrap ∧ relTarget tBase (0x3FFF000#26).toInt = 0xFFFFFFFFFFFFD000 ∧ 2 ^ 54 ≤ (0xFFFFFFFFFFFFD000 : W64).toNat
    ∧ (withS tBase [(6, 0x102)]).readS 6 = 0x102 ∧ (0x102 : W64).toNat < 2 ^ 54 ∧ (0x102 : W64).toNat % 4 ≠ 0
    ∧ (withS tBase [(6, 2 ^ 54)]).readS 6 + 4 * tBase.readS 3 = 2 ^ 54 := by unfold State.canTrap; decide
theorem meets_lgo : tBase.pod.queue.length < 4 ∧ 4 ≤ ({ tBase.pod with queue := List.replicate 4 ⟨0, [], 0, 0, 0⟩ } : Pod).queue.length ∧ (withBlock tBase 0).pod.queue ≠ [] := by decide

/-! ## Hypotheses met: scalar memory -/

theorem meets_scratch : (scalarAddr (withS tBase [(5, 1016)]) 5 3 0).toNat = 1016 ∧ 1016 % 2 ^ (3 : Fin 4).val = 0 ∧ 1016 + 2 ^ (3 : Fin 4).val ≤ tBase.wg.grant.scratch
    ∧ poisoned tBase.wg.scratchPoison 1016 8 = false ∧ (∀ b ∈ tBase.wg.objects, b + 16 ≤ 1016) := by decide
theorem meets_access_traps : tBase.canTrap ∧ tBase.pod.queue = [] ∧ tBase.pod.sTxn = Txn.empty
    ∧ tBase.walkBusy tBase.core.n tBase.wg.ctx 0x1001 = false ∧ tBase.walkBusy tBase.core.n tBase.wg.ctx (2 ^ 42) = false
    ∧ scalarAddr (withS tBase [(5, 2 ^ 54)]) 5 0 0 = 2 ^ 54
    ∧ (scalarAddr (withS tBase [(5, 0x1001)]) 5 1 0).toNat % 2 ^ (1 : Fin 4).val ≠ 0
    ∧ tBase.locate tBase.core.n tBase.wg.ctx (2 ^ 42) = none ∧ scalarAddr (withS tBase [(5, 2 ^ 42)]) 5 3 0 = 2 ^ 42
    ∧ (∃ l, ({ tBase with mem := [(0x100000, 0xE3#8)] } : State).locate 0 0 0x5000 = some l ∧ l.leaf.getLsbD 4 = false)
    ∧ (scalarAddr (withS tBase [(5, 1017)]) 5 0 7).toNat % 2 ^ (0 : Fin 4).val = 0 ∧ tBase.wg.grant.scratch < (scalarAddr (withS tBase [(5, 1017)]) 5 0 7).toNat + 1 := by
  refine ⟨⟨rfl, by decide⟩, rfl, rfl, by decide, by decide, by decide, by decide, by decide, by decide, ⟨⟨0x5000, 0xE3, 1⟩, by decide, by decide⟩, by decide, by decide⟩
/-- The base state holds no line, so any line of it is clean. -/
theorem tClean (a : Nat) : tBase.CleanLine (tLoc a) := ⟨(by intro p h; cases h), (by intro p h; cases h), (by intro x h; cases h)⟩
theorem meets_goes_to : (withS tBase [(5, 0x5000)]).goesTo (scalarAddr (withS tBase [(5, 0x5000)]) 5 3 0) 8 false (tLoc 0x5000)
    ∧ (withS tBase [(5, 0x5000)]).goesTo (scalarAddr (withS tBase [(5, 0x5000)]) 5 3 0) 8 true (tLoc 0x5000)
    ∧ ({ tBase with pod := { tPod with sTxn := { Txn.empty with locs := [(0x5000, tLoc 0x5000)] } } } : State).goesTo 0x5000 8 true (tLoc 0x5000) :=
  ⟨.inr ⟨rfl, by decide⟩, .inr ⟨rfl, by decide⟩, .inl rfl⟩
theorem tReady : tBase.readyLine (tLoc 0x5040) 64 := ⟨by decide, tClean _, .inr (by decide)⟩
theorem meets_loads : tBase.readyLine (tLoc 0x5000) 8 ∧ tBase.unmarked (tLoc 0x5000) 8
    ∧ (tBase.core.shelf.all fun e => e.copy.isNone) = true ∧ alookup (tLoc 0x5000).line tBase.core.kcache = none
    ∧ lineRemote (tLoc 0x5000).line = false ∧ tBase.homeIdle (tLoc 0x5000).line = true :=
  ⟨⟨by decide, tClean _, .inr (by decide)⟩, ⟨by decide, by decide, by decide⟩, by decide, by decide, by decide, by decide⟩
theorem meets_sldk_held : alookup (tLoc 0x5000).line ({ tBase.core with kcache := [(0xA0, List.replicate 128 1)] } : Core).kcache = some (List.replicate 128 1) := by decide
theorem meets_stores : (∀ p ∈ tBase.pubs, p.core ≠ tBase.core.n) ∧ tBase.core.l1.length < Config.l1Ways
    ∧ tBase.pod.sTxn = Txn.empty ∧ (tLoc 0x5000).tracked = true ∧ lineFar (tLoc 0x5000).line = false ∧ tBase.core.dirtyLines = [] ∧ tBase.pod.daubOut = 0
    ∧ ({ Txn.empty with phase := 3, pub := some 4 } : Txn).phase = 3 ∧ tBase.pubDone 0 4 = true ∧ tBase.farAcked 0 = true := by decide

/-! ## Hypotheses met: special values, traps, coats -/

theorem meets_specials : tBase.curLaunch = some tLaunch ∧ (∀ m ∈ tBase.core.steps, m.pod ≠ some tBase.pod.key)
    ∧ (withS tBase [(3, 4)]).readS 3 = 4 ∧ (4 : W64).toNat % 8 ≤ 4 ∧ (6 : W64).toNat % 8 ≤ 6 ∧ 5 ≤ (5 : W64).toNat % 8 ∧ 7 ≤ (7 : W64).toNat % 8
    ∧ trapRegister .tmask = true ∧ readOnly .cycle = true := by decide
theorem meets_handler_traps : tBase.canTrap ∧ endsJob .brk = false ∧ tBase.skepin.dbg ≠ .halt
    ∧ (withBlock tBase 1).pod.queue = ⟨3, List.replicate 16 9, 1, 0, 1⟩ :: [] ∧ (withBlock tBase 1).pod.sTxn.sent = false := by unfold State.canTrap; decide
theorem meets_break : ({ tBase with skepin := { tBase.skepin with dbg := .halt } } : State).skepin.dbg = .halt ∧ tBase.pod.queue = [] := by decide
theorem meets_no_handler : let s : State := { tBase with pod := { tPod with inHandler := true } }
    s.pod.inHandler = true ∧ s.pod.queue = [] ∧ s.curLaunch = some tLaunch ∧ tLaunch.done = false ∧ (∃ j, s.hostJobBy tLaunch.job = some j ∧ j.ended = false ∧ j.faulted = none ∧ j.cancelled = false)
      ∧ s.pods = [] ∧ s.pod.live = true ∧ s.wg.id ≠ 0 ∧ s.pod.key.wg = s.wg.id := by
  refine ⟨rfl, rfl, by decide, rfl, ⟨_, rfl, rfl, rfl, rfl⟩, rfl, rfl, by decide, rfl⟩
/-- A pod in its handler, after a trap of the lane word 3 of its block; the word is an LEND. -/
def tHandler : State :=
  { tBase with
    pod := { tPod with inHandler := true, trapLane := true, tlpc := 0x2024, tlpcEntry := 0x2024, trapRep := 2, tspc := 0x1004, setAside := [⟨3, [], 2, 0, 0⟩] }
    mem := NMap.setBytes tBase.mem 0x2024 (toBytes (BitVec.ofNat 96 (0x3F0 * 2 ^ 86)) 12) }
theorem meets_return : tHandler.pod.inHandler = true ∧ tHandler.pod.queue = [] ∧ tHandler.pod.setAside = ⟨3, [], 2, 0, 0⟩ :: [] ∧ tHandler.pod.tlpc = tHandler.pod.tlpcEntry
    ∧ ∃ u, tHandler.fetchL tHandler.pod.tlpc.toNat = .word u (0x3F0 * 2 ^ 86) 0 ∧ u.pod = tHandler.pod ∧ u.desc = tHandler.desc := by
  refine ⟨rfl, rfl, rfl, rfl, _, rfl, by decide, by decide⟩
theorem meets_coat : (0#8).toNat + (256#9).toNat ≤ tBase.wg.grant.regs ∧ tBase.pod.inHandler = false ∧ tBase.wg.grant.regs < (1#8).toNat + (256#9).toNat := by decide
theorem meets_exit_one : let s : State := { tBase with pods := [{ tPod with key := ⟨5, 1⟩ }] }
    1 < (s.livePods s.wg.id).length ∧ s.pod.key.wg = s.wg.id ∧ (∀ p ∈ s.allPods, p.tcopies = []) ∧ s.wg.arrived = [] ∧ s.pod.live = true ∧ s.wg.id ≠ 0 := by decide
theorem meets_exit_last : (∀ p ∈ tBase.allPods, p.tcopies = []) ∧ (∀ p ∈ tBase.pubs, p.core ≠ tBase.core.n) ∧ (tBase.livePods tBase.wg.id).length ≤ 1 ∧ tBase.core.dirtyLines = [] ∧ tBase.pod.daubOut = 0 ∧ tBase.pod.sTxn = Txn.empty ∧ tBase.core.jobs = []
    ∧ tBase.core.steps = [] ∧ tBase.pod.live = true ∧ tBase.wg.id ≠ 0 ∧ tBase.pod.key.wg = tBase.wg.id ∧ tBase.pod.exited = false ∧ tBase.curLaunch = some tLaunch
    ∧ tLaunch.pipeline = none ∧ tLaunch.next < tLaunch.gx * tLaunch.gy * tLaunch.gz := by decide

/-! ## Hypotheses met: layout entries, fences, matrix -/

/-- A layout entry of rank 2, of n columns and m rows: its space, format code and row stride. -/
def tEntry (space fmt base n m stride : Nat) : LayEntry :=
  { base := BitVec.ofNat 64 base, ctl := BitVec.ofNat 64 (space + 2 * 2 ^ 2 + fmt * 2 ^ 5 + (n - 1) * 2 ^ 18 + (m - 1) * 2 ^ 26),
    ext := [BitVec.ofNat 32 n, BitVec.ofNat 32 m, 0, 0, 0], stride := [BitVec.ofNat 32 stride, 0, 0, 0], scale := 0 }

/-- A wide window with a good record at 64, and one whose base is not a multiple of 128 at 128. -/
def tLay : State :=
  withS { tBase with wg := { tWg with
    grant := ⟨1, 256, 8192, 4, 16, 4, 1⟩,
    scratch := NMap.setBytes (NMap.setBytes [] 64 (tEntry 1 8 0 16 16 64).bytes) 128 (tEntry 0 8 64 16 16 64).bytes,
    lay := [(1, tEntry 1 8 0 16 16 64), (2, tEntry 0 8 0x8000 16 16 64), (3, tEntry 2 8 0 16 16 64)] } } [(5, 64), (6, 128), (7, 0x5040), (8, 0x8010), (9, 0x3FFC0)]

theorem meets_laydef : (1 : Fin 64).val < tLay.wg.grant.lays ∧ tLay.cardIs true 5 (tEntry 1 8 0 16 16 64).bytes ∧ layCheck tLay.wg.grant.scratch (tEntry 1 8 0 16 16 64).bytes = none :=
  ⟨by decide, ⟨by decide, by decide, by decide, by decide⟩, by decide⟩
theorem meets_laydef_bad : tLay.cardIs true 6 (tEntry 0 8 64 16 16 64).bytes ∧ layCheck tLay.wg.grant.scratch (tEntry 0 8 64 16 16 64).bytes = some 0x01010000
    ∧ ((tEntry 0 8 64 16 16 64).bytes.getD 8 0).toNat % 4 = 0 ∧ ((tEntry 0 8 64 16 16 64).bytes.getD 0 0).toNat % 128 ≠ 0 :=
  ⟨⟨by decide, by decide, by decide, by decide⟩, by decide, by decide, by decide⟩
theorem meets_laydef_memory : tLay.cardIs false 7 (List.replicate 64 0) :=
  ⟨by decide, tLoc 0x5040, .inr ⟨rfl, by decide⟩, ⟨by decide, ⟨(by intro p h; cases h), (by intro p h; cases h), (by intro x h; cases h)⟩, .inr (by decide)⟩,
    ⟨by decide, by decide, by decide⟩, by decide⟩
theorem meets_layq : (tLay.readS 5).toNat % 64 = 0 ∧ 64 + 64 ≤ tLay.wg.grant.scratch ∧ (∀ b ∈ tLay.wg.objects, b + 16 ≤ 64 ∨ 128 ≤ b)
    ∧ (∃ x, tLay.wg.entry 1 = some x ∧ x.bytes.length = 64) ∧ tLay.wg.entry 0 = none
    ∧ tLay.checkFlat 0 0 (tLay.readS 7) 64 true = .ok (tLoc 0x5040) ∧ 0x5040 % 128 + 64 ≤ 128 ∧ tLay.core.l1.length < Config.l1Ways := by
  refine ⟨by decide, by decide, by decide, ⟨_, rfl, by decide⟩, by decide, by decide, by decide, by decide⟩
theorem meets_layout_traps : tLay.wg.grant.lays ≤ (4 : Fin 64).val ∧ (tLay.readS 8).toNat % 64 ≠ 0 ∧ (tLay.readS 9).toNat % 64 = 0
    ∧ tLay.wg.grant.scratch < (tLay.readS 9).toNat + 64 := by decide

/-- A core with a clean and a dirty byte in one line of its L1. -/
def tDirty : State := { tBase with core := { tBase.core with l1 := [⟨0xA0, true, [(0, 1), (1, 2)], [(1, 3)]⟩] } }
theorem meets_phases : tDirty.pod.queue = [] ∧ (∀ e ∈ tDirty.core.shelf, e.copy = none) ∧ tDirty.core.distinctLines ∧ tDirty.core.dirtyLines ≠ []
    ∧ (∀ e ∈ tDirty.core.dirtyLines, lineFar e.1 = false ∧ e.2 ≠ []) ∧ (∀ p ∈ tDirty.pubs, p.core ≠ tDirty.core.n) ∧ tDirty.pod.sTxn = Txn.empty ∧ tBase.core.dirtyLines = [] ∧ tBase.pod.daubOut = 0 := by
  unfold Core.distinctLines; decide
theorem meets_phase_done : let s : State := { tBase with pod := { tPod with sTxn := { Txn.empty with phase := 1, pub := some 4 } } }
    s.pod.sTxn.phase = 1 ∧ s.pod.sTxn.pub = some 4 ∧ s.pubDone s.core.n 4 = true ∧ s.pod.daubOut = 0 ∧ s.farAcked s.core.n = true := by decide
theorem meets_fences : (∀ l ∈ tDirty.core.l1, l.tracked = true ∧ ∀ e ∈ l.dirty, (alookup e.1 l.bytes).isSome = true) ∧ tDirty.wroteBack tDirty.core.n = true ∧ tDirty.core.stash.length + tDirty.core.l1.length ≤ Config.stashPerCore
    ∧ (tDirty.allCores.flatMap (·.stash)).length + tDirty.core.l1.length ≤ Config.stashPerSlice := by decide

/-- An MMA of f16 operands in tiles 0 and 1 into accumulator 15, with its extents in s5. -/
def tMma : MmaFields :=
  { d := 3, a := 5, dim := 0, rev := false, tb := false, ta := false, ka := false, acc := 15, tileA := 0, tileB := 1, fmtA := .ty .f16, fmtB := .ty .f16,
    kq := 0, ca := false, cb := false, slot := 0 }
def tStep (k : MKind) (f : MmaFields) : MStep :=
  { wg := 5, pod := some ⟨5, 0⟩, job := none, kind := k, f := f, dims := 0x401010, tiles := [], alg := AlgTable.real }
theorem meets_step_issue : stepGranted tBase.wg.grant .mma tMma = true ∧ extOk (stepKmax .mma tMma) ((withS tBase [(5, 0x401010)]).readS 5) = true
    ∧ extOk (stepKmax .mma tMma) ((withS tBase [(5, 0x411010)]).readS 5) = false ∧ tBase.pod.coat = none ∧ tBase.wg.stepPoisoned .mma tMma 0x401010 = false
    ∧ stepKmax .mma tMma ≤ 128 := by decide
theorem meets_step_complete : let s : State := { tBase with core := { tBase.core with steps := [tStep .mma tMma] } }
    s.wg.accBad (tStep .mma tMma) = false ∧ tMma.ca = false ∧ tMma.cb = false ∧ tMma.rev = false ∧ s.core.steps = tStep .mma tMma :: [] ∧ (tStep .mma tMma).pod = some s.pod.key ∧ (tStep .mma tMma).wg = s.wg.id ∧ s.pod.live = true ∧ s.wg.id ≠ 0
    ∧ extM (tStep .mma tMma).dims ≤ 16 ∧ extN (tStep .mma tMma).dims ≤ 16 ∧ tMma.fmtA = .ty .f16 ∧ tMma.fmtB = tMma.fmtA ∧ 15 < extM (tStep .mma tMma).dims
    ∧ (tStep .mmag { tMma with dim := 1, acc := 14 }).alg.dim ≠ stepDim .mmag { tMma with dim := 1, acc := 14 } := by decide
theorem meets_matrix_reset : let s : State := { tBase with core := { tBase.core with steps := [tStep .mma tMma] }, cycle := 2 ^ 20 }
    s.core.steps ≠ [] ∧ 2 ^ 20 ≤ s.since s.core.stepSince ∧ s.wg.id ≠ 0 ∧ s.wg.resident = true ∧ s.wg.core = s.core.n ∧ 0 < s.wg.grant.accs
    ∧ s.curLaunch = some tLaunch ∧ (∃ j, s.hostJobBy tLaunch.job = some j ∧ j.ended = false ∧ j.faulted = none ∧ j.cancelled = false) ∧ s.pod.key.wg = s.wg.id
    ∧ (∀ w ∈ s.allWgs, w.core = s.core.n → w.launch = s.wg.launch) ∧ (∀ p ∈ s.allPods, p.between = true)
    ∧ (∀ w ∈ ({ s with wg := { s.wg with core := 1 } } : State).allWgs, w.core ≠ s.core.n) ∧ ({ s with cycle := 2 ^ 20 - 1 } : State).since s.core.stepSince < 2 ^ 20 := by
  refine ⟨by decide, by decide, by decide, rfl, rfl, by decide, by decide, ⟨_, rfl, rfl, rfl, rfl⟩, rfl, by decide, by decide, by decide, by decide⟩

/-! ## Hypotheses met: tiles and accumulators -/

/-- Entries of one tile: 16 columns and 16 rows of i64, in the window and in memory. -/
def tTile : State :=
  { tBase with wg := { tWg with grant := ⟨1, 256, 8192, 4, 16, 4, 1⟩, lay := [(1, tEntry 1 2 0 16 16 128), (2, tEntry 0 2 0x8000 16 16 128), (3, tEntry 1 8 0 16 16 64)] } }
theorem meets_tile_window : tTile.tileMoveCheck 10 3 1 = .ok (tEntry 1 2 0 16 16 128) ∧ (tEntry 1 2 0 16 16 128).fmt.scaled = false ∧ 8 ≤ (tEntry 1 2 0 16 16 128).fmt.bits := ⟨rfl, by decide⟩
theorem meets_tile_memory : tTile.tileMoveCheck 10 3 2 = .ok (tEntry 0 2 0x8000 16 16 128) ∧ tTile.locate 0 0 0x8000 = some (tLoc 0x8000) ∧ (tLoc 0x8000).tracked = true
    ∧ lineFar (tLoc 0x8000).line = false ∧ tTile.ownHome (tLoc 0x8000).line := ⟨rfl, by decide, rfl, by decide, by intro p h; cases h⟩
theorem meets_tile_checks : ∀ e ∈ [tEntry 1 2 0 16 16 128, tEntry 0 2 0x8000 16 16 128],
    let ps := e.places (tTile.coordsFrom 10 e.rank) (fun _ => true) false
    tTile.placesWait e ps = false ∧ tTile.boxWaits e ps = false ∧ tTile.checkPlaces e ps true false = none ∧ tTile.boxPoison e ps = false ∧ tTile.placesFit e ps = true := by decide
theorem meets_tile_rows : (63 : Fin 64).val < tBase.wg.grant.regs ∧ (3 : Fin 32).val < tBase.wg.grant.tiles ∧ tBase.wg.tilePoison = [] := by decide
theorem meets_alg : let s := withS { tBase with wg := { tWg with scratch := [(8, 1#8), (16, 8#8)] } } [(5, 8)]
    (0 : Fin 4).val < s.wg.grant.algs ∧ (s.readS 5).toNat % 8 = 0 ∧ (s.readS 5).toNat + 72 ≤ s.wg.grant.scratch ∧ poisoned s.wg.scratchPoison 8 72 = false
    ∧ NMap.get s.wg.scratch 8 = 1 ∧ NMap.get s.wg.scratch 16 = 8 := by decide
theorem meets_alg_memory : tBase.checkFlatAt 0 0 0x5008 8 72 = .ok (tLoc 0x5008) ∧ tBase.readyLine (tLoc 0x5008) 72 ∧ tBase.unmarked (tLoc 0x5008) 72 :=
  ⟨by decide, ⟨by decide, tClean _, .inr (by decide)⟩, by decide, by decide, by decide⟩
def tCoat : Coat := { entry := 0x1000, liveS := 0, vB := 0, vN := 0, km := 0, allO := false, fsr := 0, ten := 0, brnd := 0, drnd := 0 }
theorem meets_journal : let s : State := { tBase with pod := { tPod with coat := some tCoat }, wg := { tWg with grant := ⟨1, 256, 1024, 4, 2, 4, 1⟩, journal := [⟨7, [], 0, []⟩] } }
    0 + 2 ^ (1 : Fin 4).val ≤ s.wg.grant.accs ∧ s.accBusy 0 2 = false ∧ s.pod.coat ≠ none ∧ (∀ e ∈ s.wg.journal, e.acc < 0 ∨ 0 + 2 ^ (1 : Fin 4).val ≤ e.acc)
    ∧ s.wg.journal.length + 2 ^ (0 : Fin 4).val ≤ min 16 s.wg.grant.accs ∧ s.wg.journal.length + 1 = min 16 s.wg.grant.accs ∧ 1 < 2 ^ (1 : Fin 4).val := by decide
theorem meets_move_checks : tLay.wg.grant.tiles ≤ (4 : Fin 32).val ∧ tLay.wg.grant.accs ≤ (16 : Fin 256).val ∧ tLay.wg.entry 0 = none
    ∧ (∃ e, tLay.wg.entry 3 = some e ∧ e.space = 2) ∧ ∃ e, tLay.wg.entry 1 = some e ∧ e.space ≠ 2 ∧ e.fmt = .ty .f32 ∧ 64 < (63 : Fin 64).val + e.rank := by
  refine ⟨by decide, by decide, by decide, ⟨_, rfl, by decide⟩, ⟨_, rfl, by decide, by decide, by decide⟩⟩
theorem meets_acc_moves : tTile.accMoveCheck 10 3 none = .ok (tEntry 1 8 0 16 16 64) ∧ (withS tTile [(6, 0x1010)]).accMoveCheck 10 3 (some 0x1010) = .ok (tEntry 1 8 0 16 16 64)
    ∧ (tEntry 1 8 0 16 16 64).fmt = .ty .f32 ∧ (15 : Fin 256).val < tTile.wg.grant.accs ∧ tTile.accBusy 15 1 = false
    ∧ (let ps := (tEntry 1 8 0 16 16 64).places (tTile.coordsFrom 10 2) (fun _ => true) false
       tTile.placesWait (tEntry 1 8 0 16 16 64) ps = false ∧ tTile.boxWaits (tEntry 1 8 0 16 16 64) ps = false ∧ tTile.placesFit (tEntry 1 8 0 16 16 64) ps = true ∧ tTile.checkPlaces (tEntry 1 8 0 16 16 64) ps true false = none ∧ tTile.boxPoison (tEntry 1 8 0 16 16 64) ps = false)
    ∧ 4 * (3 : Fin 64).val + 4 ≤ tTile.wg.grant.accs ∧ 4 * (2 : Fin 64).val + 8 ≤ tTile.wg.grant.accs := ⟨rfl, rfl, by decide⟩

/-! ## Hypotheses met: barriers, tickets, pipes, seeds -/

/-- A window with barrier objects at 32 (two expected, one arrived), 48 (full) and 1008, the last place of the window; s5 names the first, s6 its expectation. -/
def tBar : State :=
  withS { tBase with wg := { tWg with
    scratch := NMap.setBytes (NMap.setBytes [] 32 (⟨1, 2, 1, 0, 0⟩ : Bar).bytes) 48 (⟨1, 2, 2, 0xFFFFFFFF, 0⟩ : Bar).bytes } } [(5, 32), (6, 65535), (7, 65536), (8, 48), (9, 1008)]
theorem meets_bar_init : (tBar.readS 9).toNat = 1008 ∧ 1008 % 16 = 0 ∧ 1008 + 16 ≤ tBar.wg.grant.scratch ∧ (tBar.wg.bar 1008).arrivals = 0 ∧ (tBar.wg.bar 32).arrivals ≠ 0
    ∧ (tBar.readS 6).toNat = 65535 ∧ (tBar.readS 7).toNat = 65536 ∧ (tBar.readS 3).toNat = 0 ∧ tBar.pod.queue = [] := by decide
theorem meets_bar_arrive : let o := tBar.wg.bar 32
    o = ⟨1, 2, 1, 0, 0⟩ ∧ o.arrivals < o.expected ∧ o.expBytes + 65535 < 2 ^ 32 ∧ o.expected ≠ 0 ∧ o.complete = o
      ∧ decide ((o.phase.toNat + 2 ^ 33 - 0 - 1) % 2 ^ 32 < 2 ^ 31) = true ∧ decide ((o.phase.toNat + 2 ^ 33 - 65535 - 1) % 2 ^ 32 < 2 ^ 31) = false := by decide
theorem meets_bar_misuse : (tBar.wg.bar 48).expected ≤ (tBar.wg.bar 48).arrivals ∧ 2 ^ 32 ≤ (tBar.wg.bar 48).expBytes + 1 ∧ (tBar.wg.bar 1008).expected = 0 ∧ tBar.canTrap := by
  unfold State.canTrap; decide
/-- A workgroup of two pods; the other one has arrived, or not. -/
def tTwo (arrived : List Nat) : State := { tBase with pods := [{ tPod with key := ⟨5, 1⟩ }], wg := { tWg with arrived := arrived } }
theorem meets_wgsync : (∀ p ∈ (tTwo [1]).pods, p.key.wg = 5 → p.exited = false → p.key.pod ∈ (tTwo [1]).wg.arrived ∧ p.stopped = false) ∧ (tTwo [1]).pod.stopped = false ∧ (tTwo [1]).pod.queue = [] ∧ (tTwo [1]).wg.id = 5
    ∧ (∃ p ∈ (tTwo []).pods, p.key.wg = 5 ∧ p.exited = false ∧ p.key.pod ∉ (tTwo []).wg.arrived ∧ p.key.pod ≠ (tTwo []).pod.key.pod) ∧ tBase.pods = []
    ∧ (tTwo []).pod.sTxn = Txn.empty ∧ (tTwo []).pod.live = true ∧ (tTwo []).pod.exited = false ∧ (tTwo []).pod.key.wg = 5 := by decide
theorem meets_fe : ((withS tBase [(5, 1008), (6, 16)]).readS 5).toNat % 16 = 0 ∧ (1008 : Nat) + 16 ≤ tBase.wg.grant.scratch ∧ ((withS tBase [(5, 1000)]).readS 5).toNat % 16 ≠ 0 := by decide

/-- A ticket dispenser at 0x5000: next and serving, with a sleeper. -/
def tTicket (next serving : W64) : State :=
  withS { tBase with mem := NMap.setBytes (NMap.setBytes tBase.mem 0x5000 (toBytes next 8)) 0x5008 (toBytes serving 8),
                     homes := [{ HomeLine.fresh 0xA0 0 with sleepers := [(⟨5, 0⟩, 0x5000, 3)] }] } [(5, 0x5000), (6, 3)]
theorem meets_tickets : let s := tTicket 4 2
    (∃ h, s.homeOf (tLoc 0x5000).line = some h ∧ h.op = .idle ∧ h.dir = .home ∧ h.clusters = [] ∧ h.dies = [] ∧ h.guests = [] ∧ h.farSleepers = [] ∧ h.waiting = []
      ∧ h.die = (tLoc 0x5000).die ∧ h.cmp = leafCmp (tLoc 0x5000).leaf ∧ h.sleepers = [(s.pod.key, 0x5000, 3)])
      ∧ s.windowOpen s.core.n (tLoc 0x5000).line = true ∧ s.pubs = [] ∧ s.pod.stopReq = false
      ∧ lineFar (tLoc 0x5000).line = false ∧ (tLoc 0x5000).tracked = true ∧ (tLoc 0x5000).key % 16 = 0 ∧ s.pod.sTxn = Txn.empty ∧ s.proxies = [] ∧ s.core.l1 = []
      ∧ s.core.stash = [] ∧ s.core.shelf = [] ∧ s.checkFlat s.core.n s.wg.ctx (s.readS 5) 16 true = .ok (tLoc 0x5000) ∧ s.checkFlat s.core.n s.wg.ctx (s.readS 5) 16 false = .ok (tLoc 0x5000)
      ∧ s.pod.daubOut = 0 ∧ s.farAcked s.core.n = true := by
  refine ⟨⟨_, rfl, by decide⟩, by decide⟩
theorem meets_ticket_values : let s := tTicket 4 2
    BitVec.ofNat 64 (leValue (NMap.bytes s.mem 0x5000 8)) = 4 ∧ BitVec.ofNat 64 (leValue (NMap.bytes s.mem 0x5008 8)) = 2 ∧ ((2 : W64) - s.readS 6).toInt < 0
      ∧ 0 ≤ ((2 : W64) - s.readS 2).toInt → BitVec.ofNat 64 (leValue (NMap.bytes (tTicket 2 2).mem 0x5000 8)) = BitVec.ofNat 64 (leValue (NMap.bytes (tTicket 2 2).mem 0x5008 8)) := by decide
theorem meets_ticket_served : 0 ≤ ((3 : W64) - 3).toInt ∧ ((2 : W64) - 3).toInt < 0 ∧ ({ Txn.empty with phase := 7 } : Txn).phase = 7
    ∧ (⟨5, 0⟩ : PodKey) = tBase.pod.key ∧ tBase.pod.live = true ∧ tBase.core.n = 0 ∧ tBase.pod.sTxn.replies = [] ∧ 0x5000 % 16 = 0 := by decide

/-- A pipe of stage 0 to stage 1, of 16 by 16 bytes and two slots. -/
def tPipe (slots : List Slot) (closed : Bool) : Pipe :=
  { producer := 0, consumer := 1, fmt := 6, rows := 16, cols := 16, depth := 2, home := 0, spill := none, slots := slots, closed := closed, spilled := 0, spills := 0,
    pushers := [], poppers := [], bridge := none }
def tStage (l : Nat) : Stage := { launch := l, min := 1, initial := 1, max := 2, wpc := 1, cores := [l], finishing := false, done := false, share := 1, past := (0, 0, 0) }
/-- A pod of a stage of a pipeline with that pipe. -/
def tPl (stage : Nat) (p : Pipe) : State :=
  { tBase with launches := [{ tLaunch with pipeline := some (9, stage) }],
               pipelines := [{ id := 9, ctx := 0, ring := 1, job := 3, cls := 1, balancer := true, stages := [tStage 1, tStage 2], pipes := [p], record := 0, msix := false,
                               state := .running, ending := false, admitted := 0, interval := 0, quiet := 0, move := none, count := 0, pushWait := [] }] }
def tSlot : Slot := ⟨List.replicate 256 7, []⟩
theorem calm_pl (stage : Nat) (p : Pipe) : (tPl stage p).Calm := by constructor <;> simp [tPl, tBase, tPod, tWg, Core.fresh, State.reset, Pod.empty, Wg.empty]
theorem meets_push : let s := tPl 0 (tPipe [tSlot] false)
    (∃ l, s.curStage = some (l, 0) ∧ l.pipes[(0 : Fin 16).val]? = some (tPipe [tSlot] false)) ∧ (3 : Fin 32).val < s.wg.grant.tiles ∧ (tPipe [tSlot] false).bridge = none
      ∧ (3 : Fin 32).val + ((tPipe [tSlot] false).slotSize + 2047) / 2048 ≤ s.wg.grant.tiles ∧ (tPipe [tSlot] false).producer = 0
      ∧ (tPipe [tSlot] false).slots.length < (tPipe [tSlot] false).depth ∧ (tPipe [tSlot, tSlot] false).depth ≤ (tPipe [tSlot, tSlot] false).slots.length := by
  refine ⟨⟨_, rfl, rfl⟩, by decide, rfl, by decide, rfl, by decide, by decide⟩
theorem meets_pop : let s := tPl 1 (tPipe [tSlot] false)
    (∃ l, s.curStage = some (l, 1) ∧ l.pipes[(0 : Fin 16).val]? = some (tPipe [tSlot] false)) ∧ (tPipe [tSlot] false).consumer = 1 ∧ (tPipe [tSlot] false).slots = tSlot :: []
      ∧ (tPipe [] true).slots = [] ∧ (tPipe [] true).closed = true ∧ (tPipe [] false).poppers = [] ∧ (tPipe [] false).spilled = 0 ∧ (tPipe [] true).producer ≠ 1 ∧ (tPipe [] true).consumer ≠ 0 := by
  refine ⟨⟨_, rfl, rfl⟩, by decide⟩
theorem meets_pipe_rest : tBase.curStage = none ∧ tBase.canTrap ∧ tBase.pod.queue = [] ∧ (3 : Fin 32).val < tBase.wg.grant.tiles ∧ (∀ l st, tBase.curStage = some (l, st) → l.state = .running → ∀ b, l.move ≠ some (st, b, tBase.core.n))
    ∧ (let s : State := { tPl 0 (tPipe [] false) with pipelines := (tPl 0 (tPipe [] false)).pipelines.map fun l => { l with move := some (0, 1, 0) } }
       ∃ l st b, s.curStage = some (l, st) ∧ l.state = .running ∧ l.move = some (st, b, s.core.n)) :=
  ⟨by decide, ⟨rfl, by decide⟩, by decide, by decide, (by intro l st h; cases h), _, 0, 1, rfl, rfl, rfl⟩
theorem meets_pipe_home : let q : Pipe := { tPipe [tSlot] false with pushers := [⟨5, 0⟩], poppers := [⟨5, 1⟩] }
    (tPl 0 q).pipeAt 9 0 = some q ∧ q.pushers = ⟨5, 0⟩ :: [] ∧ q.slots.length < q.depth ∧ q.poppers = ⟨5, 1⟩ :: [] ∧ 0 < q.slots.length := by decide

/-- A launch that takes seeds of entry 15. -/
def tSeed : State := { tBase with launches := [{ tLaunch with d := { tLaunch.d with seedmask := 0x8000 } }], wg := { tWg with grant := ⟨1, 256, 1024, 4, 16, 4, 1⟩ } }
theorem meets_seed : let ls := (List.range 32).filter fun j => (tSeed.readK 1 &&& tSeed.pod.liveMask).getLsbD j
    ls = [4, 5, 6, 7] ∧ (63 : Fin 64).val + 16 ≤ tSeed.wg.grant.regs ∧ tSeed.pod.coat = none ∧ tSeed.seeds.length + ls.length < 32
      ∧ (let s : State := { tSeed with pod := { tPod with v := [(1 * 32 + 4, 15), (1 * 32 + 5, 15), (1 * 32 + 6, 15), (1 * 32 + 7, 15)] } }
         ∀ j ∈ ls, (NMap.get s.pod.v ((1 + 0) * 32 + j)).toNat < 16 ∧ s.desc.seedmask.getLsbD (NMap.get s.pod.v ((1 + 0) * 32 + j)).toNat = true)
      ∧ ¬ ((NMap.get tSeed.pod.v (0 * 32 + 4)).toNat < 16 ∧ tSeed.desc.seedmask.getLsbD (NMap.get tSeed.pod.v (0 * 32 + 4)).toNat = true)
      ∧ ({ tWg with grant := ⟨1, 16, 1024, 4, 16, 4, 1⟩ } : Wg).grant.regs < (1 : Fin 64).val + 16 := by decide
theorem meets_seed_timeout : let s : State := { tSeed with seeds := [⟨0, 1, 15, List.replicate 16 1, 0⟩], cycle := 5400 }
    s.launchBy 1 = some { tLaunch with d := { tLaunch.d with seedmask := 0x8000 } }
      ∧ s.seeds.filter (fun r => r.die == 0 && r.launch == 1 && r.entry == 15) = ⟨0, 1, 15, List.replicate 16 1, 0⟩ :: []
      ∧ 5400 ≤ (s.cycle - 0).toNat ∧ (({ s with cycle := 5399 } : State).cycle - 0).toNat < 5400 := by decide
theorem meets_cancel : tBase.pod.live = true ∧ tBase.pod.key.wg = tBase.wg.id ∧ tBase.wg.id ≠ 0 ∧ tBase.curLaunch = some tLaunch ∧ tLaunch.done = false
    ∧ (∃ j, tBase.hostJobBy tLaunch.job = some j ∧ j.ended = false ∧ j.faulted = none ∧ j.isOpen = true) ∧ tBase.pods = [] ∧ tLaunch.pipeline = none ∧ tLaunch.ending = false ∧ tLaunch.record = 0
    ∧ tBase.endings = [] ∧ ({ tLaunch with next := 2 } : Launch).gx * 1 * 1 ≤ 2 ∧ (tPl 0 (tPipe [] false)).curLaunch = some { tLaunch with pipeline := some (9, 0) }
    ∧ ∃ q, (tPl 0 (tPipe [] false)).plBy 9 = some q ∧ q.state ≠ .done ∧ q.ending = false ∧ ∃ g ∈ q.stages, g.launch = tLaunch.id := by
  exact ⟨rfl, rfl, by decide, rfl, rfl, ⟨_, rfl, rfl, rfl, rfl⟩, rfl, rfl, rfl, rfl, rfl, by decide, by decide, _, rfl, by decide, rfl, _, List.mem_cons_self .., rfl⟩

/-! ## Hypotheses met: the engine and the cache walker -/

/-- A region descriptor: its kind, its layout entry, and an origin of zeros. -/
def tRegion (kind entry : Nat) : List Byte := List.replicate 14 0 ++ [BitVec.ofNat 8 entry, BitVec.ofNat 8 kind]
/-- A card that copies a box of entry 1 to a box of entry 2. -/
def tCard : List Byte := tRegion 1 1 ++ tRegion 2 2 ++ tRegion 0 0 ++ tRegion 0 0
/-- Entries of 16 by 16 bytes: 1 and 2 in the window, 3 in memory at 0x8000; the card at 64, and a card of zeros at 0x5040. -/
def tCopy : State :=
  withS { tBase with wg := { tWg with
    grant := ⟨1, 256, 8192, 4, 16, 4, 1⟩, scratch := NMap.setBytes [] 64 tCard,
    lay := [(1, tEntry 1 6 1024 16 16 16), (2, tEntry 1 6 2048 16 16 16), (3, tEntry 0 6 0x8000 16 16 16)] } } [(5, 64), (6, 0x5040), (7, 0x101010), (8, 256), (9, 2 ^ 54 - 256)]
theorem calm_copy : tCopy.Calm := by constructor <;> simp [tCopy, withS, tBase, tPod, tWg, Core.fresh, State.reset, Pod.empty, Wg.empty]
theorem meets_tcopy : tCopy.cardIs true 5 tCard ∧ tCopy.aloneCopying ∧ cardCheck tCopy.wg (cardRegions tCard) = none ∧ (tCopy.readS 8).toNat % 16 = 0 ∧ 256 + 16 ≤ tCopy.wg.grant.scratch :=
  ⟨⟨by decide, by decide, by decide, by decide⟩, by unfold State.aloneCopying; decide, by decide, by decide, by decide⟩
theorem meets_tcopy_refused : tCopy.cardIs false 6 (List.replicate 64 0) ∧ cardCheck tCopy.wg (cardRegions (List.replicate 64 0)) = some (2, 0x81, 0) :=
  ⟨⟨by decide, tLoc 0x5040, .inr ⟨rfl, by decide⟩, ⟨by decide, ⟨(by intro p h; cases h), (by intro p h; cases h), (by intro x h; cases h)⟩, .inr (by decide)⟩,
    ⟨by decide, by decide, by decide⟩, by decide⟩, by decide⟩
theorem meets_tcopy_of_two : let s : State := { tCopy with pods := [{ tPod with key := ⟨5, 1⟩ }], wg := { tCopy.wg with grant := ⟨2, 256, 8192, 4, 16, 4, 1⟩ } }
    s.pod.tcopies.length < 2 ∧ ∃ p ∈ s.pods, p.key.wg = s.wg.id ∧ p.key.pod < s.wg.grant.pods ∧ p.key ≠ s.pod.key ∧ s.podBy p.key = some p ∧ p.leaves = false ∧ p.tcopies = [] :=
  ⟨by decide, _, List.mem_singleton.mpr rfl, by decide, by decide, by decide, rfl, rfl, rfl⟩
theorem meets_tcopym : (3 : Fin 32).val + (if (Fmt.ty .e4m3).scaled then 1 else 0) < tCopy.wg.grant.tiles ∧ (15 : Fin 256).val < tCopy.wg.grant.accs
    ∧ extOk (mmaKmax (.ty .e4m3) (.ty .e4m3)) (tCopy.readS 7) = true ∧ extOk (mmaKmax (.ty .e4m3) (.ty .e4m3)) (tCopy.readS 0 + 0x101111) = false := by decide
theorem meets_cache_words : ((withS tCopy [(10, 0x5000), (11, 256)]).readS 10).toNat + 256 ≤ 2 ^ 54 ∧ tCopy.pod.pending = [] ∧ tCopy.core.jobs.length < 32
    ∧ 2 ^ 54 < ((withS tCopy [(10, 2 ^ 54 - 255), (11, 256)]).readS 10).toNat + ((withS tCopy [(10, 2 ^ 54 - 255), (11, 256)]).readS 11).toNat
    ∧ (tCopy.readS 12).toNat = 0 := by decide

/-- A copy job of that card, of entry a to entry b. -/
def tJob (a b : Nat) : Job :=
  { id := 4, serial := 0, wg := 5, kind := .copy, regs := [(⟨5, 0⟩, 3)], regions := [parseRegion (tRegion 1 a), parseRegion (tRegion 2 b)],
    lays := [(1, tEntry 1 6 1024 16 16 16), (2, tEntry 1 6 2048 16 16 16), (3, tEntry 0 6 0x8000 16 16 16)], scope := .wg, bar := none, bytesArr := false, lo := 0, len := 0,
    step := { d := 0, a := 0, e := 0, tb := false, ta := false, sp := false, acc := 0, tileA := 0, tileB := 0, fmtA := .ty .i8, fmtB := .ty .i8 }, dims := 0,
    started := true, slots := 1, asked := false, tr := 0, done := 0, landed := 0, flags := 0, stepSent := false, pub := none, fault := none, ctx := 0, snap := [] }
def withJob (s : State) (j : Job) : State := { s with core := { s.core with jobs := [j] } }
theorem meets_job_start : let j := { tJob 1 2 with started := false, slots := 0 }
    (withJob tCopy j).jobOf 0 4 = some j ∧ (∀ x ∈ ((withJob tCopy j).coreBy 0).jobs.takeWhile (fun x => x.id != 4), (withJob tCopy j).edge x j = false)
      ∧ (withJob tCopy j).unitFree (unitOf 0 j.serial) = true ∧ ({ tCopy with core := { tCopy.core with jobs := List.replicate 4 { tJob 1 2 with id := 3 } } } : State).unitFree (unitOf 0 2) = false
      ∧ j.current ≠ none ∧ j.toMem = false ∧ ({ j with regions := (tJob 1 3).regions } : Job).toMem = true ∧ ({ j with kind := .flush } : Job).kind = .flush := by decide
theorem meets_job_waits : let j := { tJob 1 2 with started := false, slots := 0 }
    let s : State := { tCopy with core := { tCopy.core with jobs := [{ tJob 1 2 with id := 3 }, j] } }
    s.jobOf 0 4 = some j ∧ ∃ x ∈ (s.coreBy 0).jobs.takeWhile (fun x => x.id != 4), s.edge x j = true := by decide
theorem meets_slots : let j := { tJob 1 2 with asked := true, slots := 0 }
    let s : State := { tCopy with core := { tCopy.core with jobs := [j], slotQueue := [4, 5] } }
    s.jobOf 0 4 = some j ∧ (s.coreBy 0).slotQueue = 4 :: [5] ∧ ((s.coreBy 0).jobs.map (·.slots)).sum < 16 ∧ (s.coreBy 0).slotQueue.head? ≠ some 5
      ∧ 16 ≤ ((({ tCopy with core := { tCopy.core with jobs := [j, { tJob 1 2 with id := 3, slots := 16 }], slotQueue := [4] } } : State).coreBy 0).jobs.map (·.slots)).sum := by decide
theorem meets_status_lands : let s : State := withJob { tCopy with pod := { tCopy.pod with pending := [⟨3, 4, .wg, false⟩] } } (tJob 1 2)
    s.jobOf 0 4 = some (tJob 1 2) ∧ (3 : Nat) < 64 ∧ s.jobWritten 0 (tJob 1 2) = true ∧ s.jobWritten 0 { tJob 1 2 with pub := some 9 } = true
      ∧ ({ s with pubs := [⟨9, 0, []⟩] } : State).jobWritten 0 { tJob 1 2 with pub := some 9 } = false
      ∧ (tJob 1 2).bar = none ∧ s.pod.live = true ∧ s.pod.pending = [⟨3, 4, .wg, false⟩]
      ∧ (s.pod.key, 3) ∈ (tJob 1 2).regs ∧ s.pods = [] ∧ (tJob 1 2).fault = none ∧ Cause.xlateAbsent ≠ Cause.poison := by decide
theorem meets_landing : (withJob tCopy (tJob 1 2)).Copying 0 4 (tJob 1 2) (tEntry 1 6 1024 16 16 16) (tEntry 1 6 2048 16 16 16) [0, 0, 0, 0, 0] [0, 0, 0, 0, 0] 256 := by
  refine ⟨by decide, ⟨0, 1, parseRegion (tRegion 1 1), parseRegion (tRegion 2 2), ?_, ?_, ?_⟩, by decide, by decide, ?_⟩ <;> decide
theorem meets_memory_write : (withJob tCopy (tJob 1 3)).Copying 0 4 (tJob 1 3) (tEntry 1 6 1024 16 16 16) (tEntry 0 6 0x8000 16 16 16) [0, 0, 0, 0, 0] [0, 0, 0, 0, 0] 128
    ∧ (tCopy.locate 0 0 0x8000 = some (tLoc 0x8000) ∧ (tLoc 0x8000).key = 0x100 * 128 ∧ (tLoc 0x8000).tracked = true ∧ lineFar 0x100 = false
      ∧ tCopy.proxies = [] ∧ (withJob tCopy (tJob 1 3)).stashFits 0 [tLoc 0x8000] = true) := by
  refine ⟨⟨by decide, ⟨0, 1, parseRegion (tRegion 1 1), parseRegion (tRegion 2 3), ?_, ?_, ?_⟩, by decide, by decide, ?_⟩, ?_⟩ <;> decide
theorem meets_landing_apart : let b := tEntry 1 6 2048 16 16 16
    ∀ i < 256, b.inside (b.coords [0, 0, 0, 0, 0] i) = true ∧ swz b.perm (b.address (b.coords [0, 0, 0, 0, 0] i)).1 = 2048 + i := by decide
theorem meets_cache_steps : let j : Job := { tJob 1 2 with kind := .disc, lo := 0x5000, len := 0x10000 - 0x5000 }
    let s := withJob { tDirty with core := { tDirty.core with stash := [⟨0xA0, 0, [⟨0, 1, 3⟩]⟩] } } j
    s.jobOf 0 4 = some j ∧ j.pub = none ∧ j.wg = s.wg.id ∧ j.done = 0 ∧ 0 < j.len ∧ j.len ≤ 65536
      ∧ s.checkFlat 0 0 (BitVec.ofNat 64 j.lo) 1 (j.kind == .disc) = .ok (tLoc 0x5000) ∧ j.lo % pageBytes (tLoc 0x5000).level + j.len ≤ pageBytes (tLoc 0x5000).level
      ∧ (tLoc 0x5000).key + j.len ≤ Config.hostBase ∧ j.asked = false ∧ s.core.distinctLines := by unfold Core.distinctLines; decide
theorem meets_discard : tBase.homes = [] ∧ tBase.proxies = [] ∧ Config.hostBase - 128 + 128 ≤ Config.hostBase := by decide

/-! ## Hypotheses met: atomics, daubs, reductions, transfers, sets -/

/-- States in which the pod is calm stay so when their registers, window or memory change. -/
theorem calm_base (w : Wg) (hw : w.id = 5 ∧ w.core = 0) (s : NMap 64) (m : NMap 8) (cs : List Ctx) (ls : List Launch) :
    ({ tBase with wg := w, pod := { tPod with s := s }, mem := m, ctxs := cs, launches := ls } : State).Calm := by
  constructor <;> simp [tBase, tPod, Core.fresh, State.reset, Pod.empty, hw]
theorem meets_satom_window : AtomOp.fadd.typeOk .f32 = true ∧ AtomOp.cas.typeOk .i64 = true ∧ ((withS tBase [(5, 1016)]).readS 5).toNat = 1016 ∧ 1016 % (LType.i64.bits / 8) = 0
    ∧ 1016 + LType.i64.bits / 8 ≤ tBase.wg.grant.scratch ∧ poisoned tBase.wg.scratchPoison 1016 8 = false ∧ tBase.wg.objects = [] := by decide
theorem meets_satom_home : tBase.checkFlat 0 0 ((withS tBase [(5, 0x507C)]).readS 5) 4 true = .ok (tLoc 0x507C) ∧ tBase.PlainHome (tLoc 0x507C) 4 :=
  ⟨by decide, ⟨rfl, by decide, (by intro h e; cases e), by decide, by decide, by decide⟩⟩
theorem meets_satom_untracked : let s : State := { tBase with mem := [(0x100000, 0x73#8)] }
    ∃ l, s.checkFlat 0 0 0x5000 8 true = .ok l ∧ l.tracked = false := ⟨{ key := 0x5000, leaf := 0x73, level := 1 }, by decide, by decide⟩
def tAtom (st : Stream) : AtomicReq := { core := 0, pod := ⟨5, 0⟩, stream := st, line := 0xA0, op := .min, ty := .i32, items := [⟨0, 0x507C, -1, 0⟩] }
theorem meets_atomic_home : (tAtom .s).pod = tBase.pod.key ∧ (tAtom .l).core = tBase.core.n ∧ (tAtom .s).items = [⟨0, 0x507C, -1, 0⟩] ∧ (tAtom .s).line = (tLoc 0x507C).line
    ∧ (tAtom .s).op.typeOk (tAtom .s).ty = true ∧ tBase.PlainHome (tLoc 0x507C) ((tAtom .s).ty.bits / 8) :=
  ⟨rfl, rfl, rfl, by decide, rfl, ⟨rfl, by decide, (by intro h e; cases e), by decide, by decide, by decide⟩⟩
theorem meets_addst : (withS tTile [(6, 0x1010)]).accMoveCheck 10 3 (some 0x1010) = .ok (tEntry 1 8 0 16 16 64) ∧ (15 : Fin 256).val < tTile.wg.grant.accs ∧ (3 : Fin 64).val < tTile.wg.grant.lays
    ∧ tTile.accBusy 15 1 = false ∧ (tEntry 1 8 0 16 16 64).fmt = .ty .f32 ∧ tTile.wg.objects = [] ∧ tTile.wg.scratchPoison = []
    ∧ tTile.checkPlaces (tEntry 1 8 0 16 16 64) ((tEntry 1 8 0 16 16 64).places (tTile.coordsFrom 10 2) (fun _ => true) false) true true = none := ⟨rfl, by decide⟩
theorem meets_addst_apart : let e := tEntry 1 8 0 16 16 64
    ∀ x ∈ e.elems (tTile.coordsFrom 10 2), x.place = some (4 * x.l, 0) ∧ ∀ i < 4, swz e.perm (4 * x.l + i) = 4 * x.l + i := by decide
theorem calm_tile : tTile.Calm := by constructor <;> simp [tTile, tBase, tPod, tWg, Core.fresh, State.reset, Pod.empty, Wg.empty]
def tAdd : AddstReq := { core := 0, pod := ⟨5, 0⟩, line := 0xA0, fmt := .bf16, items := [⟨0x507E, 0x3F800000⟩] }
theorem meets_addst_line : tAdd.pod = tBase.pod.key ∧ tAdd.core = tBase.core.n ∧ tAdd.line = (tLoc 0x507E).line ∧ tBase.PlainHome (tLoc 0x507E) (tAdd.fmt.bits / 8) :=
  ⟨rfl, rfl, by decide, ⟨rfl, by decide, (by intro h e; cases e), by decide, by decide, by decide⟩⟩

def tDaub : DaubReq := { core := 0, pod := ⟨5, 0⟩, line := 0xA0, bytes := [(0, 1), (127, 2)], targets := [0, 3] }
theorem meets_daub : tDaub.pod = tBase.pod.key ∧ tDaub.core = tBase.core.n ∧ tDaub.line = (tLoc 0x5000).line ∧ lineFar (tLoc 0x5000).line = false ∧ tBase.homeOf (tLoc 0x5000).line = none ∧ poisoned tBase.poison ((tLoc 0x5000).line * 128) 128 = false
    ∧ (tDaub.bytes.map (·.1)).Nodup ∧ ∀ e ∈ tDaub.bytes, e.1 < 128 := by decide
def withShelf (xs : List ShelfEntry) : State := { tBase with core := { tBase.core with shelf := xs } }
theorem meets_daub_copy : (∀ e ∈ (withShelf []).core.shelf, e.line ≠ 0xA0) ∧ (withShelf []).core.shelf.length < 64 ∧ (withShelf (List.replicate 64 ⟨7, none⟩)).core.distinctLines
    ∧ (∀ e ∈ (withShelf (List.replicate 64 ⟨7, none⟩)).core.shelf, e.line ≠ 0xA0) ∧ 64 ≤ (withShelf (List.replicate 64 ⟨7, none⟩)).core.shelf.length
    ∧ (withShelf [⟨0xA0, some (1, [])⟩]).core.shelf = [⟨0xA0, some (1, [])⟩] := by unfold Core.distinctLines; decide
theorem meets_daub_answer : tBase.pod.live = true ∧ tBase.pod.daubOut = 0 ∧ ({ tPod with daubOut := 1 } : Pod).daubOut ≠ 0 := by decide

/-- Operands of a REDX: the sources at 0, target core 71 with its record at 768, members 0 and 71. -/
def tRedx : State := withS tBase [(5, 0), (6, 71 * 2 ^ 32 + 768), (8, 1), (9, 128)]
theorem meets_redx : (tRedx.readS 5).toNat = 0 ∧ 0 + 128 ≤ tRedx.wg.grant.scratch ∧ (let x := (tRedx.readS 6).toNat
    x % 2 ^ 20 % 128 = 0 ∧ x / 2 ^ 39 = 0 ∧ x / 2 ^ 20 % 2 ^ 12 = 0 ∧ x / 2 ^ 32 % 2 ^ 7 < 72 ∧ (tRedx.readS 9).toNat < 256
    ∧ (BitVec.ofNat 72 ((tRedx.readS 8).toNat + (tRedx.readS 9).toNat % 256 * 2 ^ 64)).getLsbD (tRedx.core.n % 72) = true ∧ x % 2 ^ 20 + 144 ≤ tRedx.wg.grant.scratch)
    ∧ tRedx.pod.coat = none ∧ tRedx.rounds = [] ∧ tRedx.contributing (tRedx.core.n / 72) tRedx.wg.launch 255 tRedx.core.n = false ∧ poisoned tRedx.wg.scratchPoison 0 128 = false := by decide
theorem meets_redx_bad : (769 : Nat) % 2 ^ 20 % 128 ≠ 0 ∧ (72 ≤ (72 * 2 ^ 32 + 768) / 2 ^ 32 % 2 ^ 7) ∧ (256 ≤ (256 : Nat)) ∧ tRedx.wg.grant.scratch < (896 : Nat) + 144 ∧ (896 : Nat) % 128 = 0
    ∧ ((withS tRedx [(6, 769), (7, 72 * 2 ^ 32 + 768), (10, 896)]).readS 10).toNat = 896 := by decide
theorem meets_redx_waits : let s : State := { tRedx with rounds := [⟨0, 1, 255, 0, [0], []⟩] }
    ∃ r ∈ s.rounds, r.die = s.core.n / 72 ∧ r.launch = s.wg.launch ∧ r.group = (255 : Fin 256).val ∧ s.core.n ∈ r.sent := ⟨_, List.mem_singleton.mpr rfl, by decide⟩
def tContribution (m : BitVec 72) : Contribution :=
  { die := 0, launch := 1, group := 255, core := 71, members := m, target := 0, offset := 768, data := List.replicate 32 1 }
theorem meets_redx_on_its_way : ({ tRedx with inflight := [.reductionContribution { die := 0, launch := 1, group := 255, core := 0, members := 1, target := 0, offset := 0, data := [] }] } : State).contributing 0 1 255 0 = true
    ∧ tRedx.pod.stopReq = false := by decide
theorem meets_contribution : (71 : Nat) < 72 ∧ (tContribution 1).core = 0 * 72 + 71
    ∧ (tContribution (1 + 2 ^ 71)).members.getLsbD 71 = true ∧ (tContribution (1 + 2 ^ 71)).members.toNat - 2 ^ 71 ≠ 0 ∧ (tContribution (2 ^ 71)).members.toNat - 2 ^ 71 = 0
    ∧ tBase.deliveryWg 1 (0 * 72 + 0) = some 5 ∧ tBase.rounds = [] := by decide
theorem meets_round_timeout : let s : State := { tBase with rounds := [⟨0, 1, 255, 0, [71], [tContribution (1 + 2 ^ 71)]⟩], cycle := 65536 }
    65536 ≤ (s.cycle - 0).toNat ∧ (({ s with cycle := 65535 } : State).cycle - 0).toNat < 65536 ∧ s.deliveryWg 1 0 = some 5 := by decide
theorem meets_delivery : let v : Delivery := ⟨0, 1, 255, 0, 880, List.replicate 144 7, some 5⟩
    v.wg = some tBase.wg.id ∧ tBase.wg.id ≠ 0 ∧ tBase.wg.resident = true ∧ tBase.wg.objects = [] ∧ v.bytes.length = 144 ∧ v.offset % 16 = 0 := by decide

/-- A second level-1 page that lies on device 1; s5 to s8 are the operands of an XSEND of 16 bytes from 0x5000 to that page. -/
def tSend : State :=
  withS { tBase with mem := NMap.setBytes tBase.mem 0x100008 (toBytes (0xF3 + BitVec.ofNat 64 (2 ^ 52)) 8), hasDev := true }
    [(5, 0x5000), (6, 16), (7, 2 ^ 42 + 0x7000), (8, 287 * 2 ^ 32 + 1016), (9, 8)]
theorem meets_xsend : let len := (tSend.readS 6).toNat
    (tSend.readS 5).toNat % 16 = 0 ∧ (tSend.readS 7).toNat % 16 = 0 ∧ len = 16 ∧ (tSend.readS 8).toNat % 2 ^ 20 % 8 = 0 ∧ (tSend.readS 5).toNat + len ≤ 2 ^ 54 ∧ (tSend.readS 7).toNat + len ≤ 2 ^ 54
      ∧ (tSend.readS 8).toNat / 2 ^ 41 = 0 ∧ (tSend.readS 8).toNat / 2 ^ 20 % 2 ^ 12 = 0
      ∧ tSend.pod.coat = none ∧ tSend.pod.pending = [] ∧ tSend.xfers = [] ∧ tSend.checkFlat 0 0 (tSend.readS 5) 1 false = .ok (tLoc 0x5000)
      ∧ leafDev (tLoc 0x5000).leaf = tSend.dev ∧ tSend.homeIdle (tLoc 0x5000).line = true ∧ tSend.pathBad tSend.core.n (tLoc 0x5000) 16 = false
      ∧ ((8 : Fin 64).val + 1 = 9) ∧ ¬ (tSend.readS 9).toNat % 16 = 0 := by decide
theorem meets_xsend_target : ∃ r, tSend.checkFlat 0 0 (tSend.readS 7) 1 true = .ok r ∧ leafDev r.leaf ≠ tSend.dev ∧ leafIncast r.leaf = false :=
  ⟨{ key := byteKey 0 1 0x7000, leaf := 0xF3 + BitVec.ofNat 64 (2 ^ 52), level := 1 }, by decide, by decide, by decide⟩
theorem meets_xsend_core : (287 * 2 ^ 32 + 1016) / 2 ^ 32 % 2 ^ 9 < 288 ∧ ¬ (288 * 2 ^ 32 + 1016) / 2 ^ 32 % 2 ^ 9 < 288 ∧ (287 * 2 ^ 32 + 1016) / 2 ^ 41 = 0 ∧ ¬ ((0 : Nat) ≠ 0 ∧ (0 : Nat) ≤ 2 ^ 32 - 16) := by decide
theorem meets_xwait : let s := withS { tBase with wg := { tWg with scratch := [(1016, 5#8)] } } [(5, 1016), (6, 5), (7, 6)]
    (s.readS 5).toNat = 1016 ∧ 1016 % 8 = 0 ∧ 1016 + 8 ≤ s.wg.grant.scratch ∧ poisoned s.wg.scratchPoison 1016 8 = false
      ∧ 0 ≤ (BitVec.ofNat 64 (leValue (NMap.bytes s.wg.scratch 1016 8)) - s.readS 6).toInt ∧ (BitVec.ofNat 64 (leValue (NMap.bytes s.wg.scratch 1016 8)) - s.readS 7).toInt < 0 := by decide
theorem meets_waita : let s := withS { tBase with cycle := 8192 } [(5, 0x5000), (6, 8192), (7, 8193)]
    s.core.shelf = [] ∧ s.core.l1 = [] ∧ s.checkFlat 0 0 (s.readS 5) 1 false = .ok (tLoc 0x5000) ∧ lineRemote (tLoc 0x5000).line = false ∧ s.homeIdle (tLoc 0x5000).line = true
      ∧ poisoned s.poison ((tLoc 0x5000).line * 128) 128 = false ∧ s.pod.sTxn = Txn.empty ∧ s.readS 6 ≠ 0 ∧ s.readS 0 = 0
      ∧ s.homeLineData (tLoc 0x5000).line = List.replicate 128 0 ∧ 4096 ≤ (s.cycle - 4096).toNat ∧ (s.readS 6).toNat ≤ (s.cycle - 0).toNat
      ∧ (s.cycle - 4097).toNat < 4096 ∧ (s.cycle - 0).toNat < (s.readS 7).toNat ∧ ({ Txn.empty with phase := 2, replies := [(0, 4096)] } : Txn).phase = 2 := by decide

theorem meets_set_empty : tBase.groups = [] ∧ tBase.sets = [] := by decide
def tKey : SetKey := ⟨0, 0, 63, 7⟩
theorem meets_set : let s : State := { tBase with groups := [⟨0, 63, 7, [(0, 2)], false⟩] }
    s.groups = [⟨s.wg.ctx, (63 : Fin 64).val, 7, [(s.dev, 2)], false⟩] ∧ (∀ o ∈ s.sets, ¬ (o.key.ctx = s.wg.ctx ∧ o.key.group = 63 ∧ o.stage = .preparing)) ∧ (0 : Nat) < 2 ∧ s.sets = [] ∧ tKey = ⟨s.dev, s.wg.ctx, (63 : Fin 64).val, 7⟩ := by decide
theorem meets_set_status : let s : State := { tBase with pod := { tPod with sTxn := { Txn.empty with phase := 3, replies := [(0, 0x08020001)], start := 2 } } }
    s.pod.queue = [] ∧ s.pod.sTxn.phase = 3 ∧ s.pod.coat = none ∧ s.core.shelf = [] ∧ s.core.l1 = [] ∧ s.pod.sTxn.replies = (0, (0x08020001 : W32).setWidth 64) :: []
      ∧ (∀ o ∈ s.sets, o.who ≠ some s.pod.key) ∧ s.pod.sTxn.start.toNat < 2 ^ 16 := by decide
def tHawk : HawkSet := { key := tKey, got := 1, refused := false, asked := none, prepared := none, pub := none }
def tWet : WetLine := { key := tKey, line := 0xA0, bytes := [(0, 1)], bad := [] }
theorem meets_hawk : tKey.src = tBase.dev ∧ tBase.hawk = [] ∧ tBase.wet = [] ∧ ([(0, 1), (127, 2)] : LineBytes).map (·.1) = [0, 127]
    ∧ (let s : State := { tBase with hawk := [tHawk], wet := List.replicate Config.hawkLines { tWet with line := 1 } }
       tHawk.asked = none ∧ Config.hawkLines ≤ s.wet.length ∧ ∀ w ∈ s.wet, ¬ (w.key = tKey ∧ w.line = 0xA0))
    ∧ tHawk.prepared = none ∧ 1 ≤ tHawk.got ∧ tHawk.got < 2 ∧ ({ tHawk with refused := true } : HawkSet).refused = true ∧ lineHost tWet.line = false := by
  refine ⟨by decide, by decide, by decide, by decide, ⟨by decide, ?_, ?_⟩, by decide⟩
  · simp
  · intro w hw; rw [List.eq_of_mem_replicate hw]; decide
theorem meets_decision_query : let s : State := { tBase with hawk := [{ tHawk with prepared := some 0 }], cycle := 43200000 }
    43200000 ≤ (s.cycle - 0).toNat ∧ (({ s with cycle := 43199999 } : State).cycle - 0).toNat < 43200000 ∧ tHawk.pub = none := by decide
def tSetOp (st : SetStage) : SetOp := { key := tKey, devs := [0], answered := [], stage := st, start := 0, sent := 0, who := some ⟨5, 0⟩, scraper := false, status := 0, left := 0 }
theorem meets_set_source : let s : State := { tBase with sets := [tSetOp .preparing], cycle := 10800000 }
    s.sets = [tSetOp .preparing] ∧ (tSetOp .preparing).key = tKey ∧ (tSetOp .preparing).devs = [s.dev] ∧ (tSetOp .preparing).who = some s.pod.key ∧ s.pod.live = true
      ∧ 10800000 ≤ (s.cycle - (tSetOp .preparing).start).toNat ∧ (({ s with cycle := 10799999 } : State).cycle - 0).toNat < 10800000
      ∧ 5400000 ≤ (({ s with cycle := 5400000 } : State).cycle - (tSetOp .committing).sent).toNat ∧ (({ s with cycle := 5399999 } : State).cycle - 0).toNat < 5400000
      ∧ (tSetOp .committing).answered = [] := by decide

/-! ## Hypotheses met: lane words -/

/-- Fields of a lane word under k1, without rounding or repetition. -/
def lf (dest : Dest) (a b c : Src) (ty : LType) (imm : BitVec 24) : LFields :=
  { h := false, n := false, neg := false, k := 1, dest := dest, a := a, b := b, c := c, ty := ty, rnd := .rn, sat := false, rep := 0, stride := 0, imm := imm }
/-- A pod with a lane block at issue; lanes 4 to 7 are in k1, and lane 7 alone in k2. -/
def tLane : State := { withBlock tBase 0 with pod := { (withBlock tBase 0).pod with k := [(1, 0xF0), (2, 0x80)] } }
/-- Words of each shape at the ends of their register ranges, with the spans of their operands. -/
def laneSamples : List (Instr × LFields × Spans) :=
  let r2 := fun (i : LFields → Instr) (row : LRow) (t : LType) =>
    let f := lf (.v (if t.wide then 254 else 255)) (.v 0) (if row.b == .n32 then .v 5 else if row.b == .no then .v 0 else .b 3) (if row.c == .no then .v 0 else .q 14) t 0
    (i f, f, rowSpans row t)
  [r2 .iadd rowInt2Sat .i8, r2 .isub rowInt2Sat .n64, r2 .imul rowInt2Sat .i64, r2 .imin rowInt2 .n16, r2 .imax rowInt2 .i32, r2 .iabs rowNeg .i64, r2 .ineg rowNeg .i16,
   r2 .imulh rowImulh .n64, r2 .imad rowImad .i64, r2 .idiv rowIdiv .i32, r2 .irem rowIrem .n64, r2 .iaddc rowIaddc .i32, r2 .and rowInt2 .n8, r2 .or rowInt2 .i64,
   r2 .xor rowInt2 .n32, r2 .not rowInt1 .n16, r2 .shl rowShift .i64, r2 .shr rowShift .n8, r2 .sra rowShift .i16, r2 .rot rowShift .n32, r2 .clz rowInt1 .n64,
   r2 .popc rowInt1 .i8, r2 .brev rowInt1 .n32, r2 .bfx rowBf .i64, r2 .bfi rowBf .n32, r2 .mov rowMov .d64, r2 .sel rowSel .e4m3, r2 .movi rowMovi .i32,
   r2 .shfl rowShfl .f64, r2 .vote rowVote .i64, r2 .fadd rowF2 .f64, r2 .fsub rowF2 .f16, r2 .fmul rowF2 .bf16, r2 .ffma rowFfma .f64, r2 .fmin rowF2 .f32, r2 .fmax rowF2 .f64,
   r2 .frnd rowF1 .f64, r2 .dadd rowDec2 .d64, r2 .dsub rowDec2 .d64, r2 .dmul rowDec2 .d64, r2 .ddiv rowDec2 .d64, r2 .dfma rowDfma .d64, r2 .dqua rowDec2 .d64,
   r2 .dscb rowDscb .d64, r2 .dcvt rowDcvt .d64, r2 .rcp rowSfu .f32, r2 .rsq rowSfu .f16, r2 .sqrt rowSfu64 .f64, r2 .div rowDiv .f64, r2 .exp2 rowSfu .bf16, r2 .log2 rowSfu .f32,
   r2 .sinpi rowSfu .f32, r2 .cospi rowSfu .f16, r2 .redp rowRedp .i64, r2 .lds rowLoadS .d64]
theorem meets_lane_samples : ∀ e ∈ laneSamples, e.1.wf = true ∧ tLane.LaneGoes e.2.1 e.2.2 ∧ usesLatch e.2.1 = (e.2.1.b == .b 3) ∧ tLane.unraised e.2.1 (fun _ => 0x3FF) := by
  unfold State.LaneGoes State.unraised; decide
/-- More words of one shape each. -/
def laneOthers : List (Instr × LFields × Spans) :=
  let g := fun (i : LFields → Instr) (f : LFields) (sp : Spans) => (i f, f, sp)
  let packed := lf (.o 15) (.q 0) (.q 1) (.v 0) .i32 0x38
  let unpacked := lf (.o 15) (.q 0) (.v 0) (.v 0) .i32 0x79
  let conv := fun (d s : LType) => lf (.v 4) (.v 6) (.v 0) (.v 0) d (BitVec.ofNat 24 s.code)
  [g .lidx (lf (.v 255) (.v 0) (.v 0) (.v 0) .i32 0) (rowSpans rowLidx .i32), g .bcast (lf (.v 254) (.v 2) (.imm 31) (.v 0) .i64 0) (rowSpans rowBcast .i64),
   g .fclass (lf (.v 255) (.v 254) (.v 0) (.v 0) .f64 0) (rowSpans rowFclass .f64), g .mov (lf (.v 255) .imm24 (.v 0) (.v 0) .f32 0x3F8000) (rowSpans rowMov .f32),
   g .mov (lf (.v 255) (.imm (-127)) (.v 0) (.v 0) .i8 0) (rowSpans rowMov .i8), g .pack packed (rowSpans rowPack .i32), g .unpk unpacked (rowSpans rowUnpk .i32),
   g .amul (lf (.v 192) (.v 128) (.v 64) (.v 0) .f32 0x7C) ⟨7, some 7, some 7, none⟩, g .afma (lf (.v 192) (.v 128) (.v 64) (.v 0) .f64 0x60) ⟨15, some 15, some 15, some 15⟩,
   g .aconj (lf (.v 192) (.v 128) (.v 0) (.v 0) .f32 0x40) ⟨3, some 3, none, none⟩, g .anorm (lf (.v 192) (.v 128) (.v 0) (.v 0) .f64 0x20) ⟨1, some 3, none, none⟩,
   g .cvt (conv .i32 .f64) ⟨0, some 1, none, none⟩, g .cvt (conv .f64 .i8) ⟨1, some 0, none, none⟩, g .cvt (conv .d64 .n64) ⟨1, some 1, none, none⟩, g .cvt (conv .i64 .d64) ⟨1, some 1, none, none⟩,
   g .cvt (conv .n8 .i8) ⟨0, some 0, none, none⟩, g .cvt (conv .f16 .f16) ⟨0, some 0, none, none⟩, g .cvt (conv .e4m3 .f32) ⟨0, some 0, none, none⟩, g .cvt (conv .f32 .d64) ⟨0, some 1, none, none⟩,
   g .cvt (conv .d64 .bf16) ⟨1, some 0, none, none⟩, g .cvt (conv .d64 .d64) ⟨1, some 1, none, none⟩]
theorem meets_lane_others : ∀ e ∈ laneOthers, e.1.wf = true ∧ tLane.LaneGoes e.2.1 e.2.2 ∧ tLane.unraised e.2.1 (fun _ => 0x3FF) := by
  unfold State.LaneGoes State.unraised; decide
/-- Compares: their destination is a mask. -/
def laneTests : List (Instr × LFields × Spans) :=
  let f := fun (t : LType) => lf (.k 15) (.v 0) (.v 2) (.v 0) t 5
  [(.icmp (f .n64), f .n64, rowSpans rowIcmp .n64), (.fcmp (f .bf16), f .bf16, rowSpans rowFcmp .bf16), (.dcmp (f .d64), f .d64, rowSpans rowDcmp .d64)]
theorem meets_lane_tests : ∀ e ∈ laneTests, e.1.wf = true ∧ (∀ n ∈ readRegs e.2.1 e.2.2, tLane.granted n = true) ∧ usesLatch e.2.1 = false ∧ e.2.1.dest = .k 15
    ∧ tLane.block.rep ≤ e.2.1.rep.val ∧ tLane.pod.queue ≠ [] ∧ tLane.pod.sfu = [] := by decide
/-- An enabled exception in lanes 4 to 7 (a product of infinity and zero), and a quotient by zero in lane 5 of them. -/
def tRaise : State := { tLane with pod := { tLane.pod with ten := 1, v := [(0 * 32 + 5, 3), (2 * 32 + 4, 0x7F800000), (3 * 32 + 4, 1), (3 * 32 + 6, 1), (3 * 32 + 7, 1)] } }
theorem meets_lane_trap : let f := lf (.v 255) (.v 2) (.v 0) (.v 0) .f32 0
    tRaise.canTrap ∧ tRaise.pod.sTxn.sent = false ∧ tRaise.pod.ten.getLsbD 0 = true
      ∧ tRaise.raising f (fun j => (binResult f.ty (tRaise.roundB f) ((tRaise.valA f j).mul (tRaise.valB f j))).2) 0 = 0x10 ∧ (∀ m < 10, m ≠ 0 → tRaise.pod.ten.getLsbD m = false) := by
  unfold State.canTrap; decide
theorem meets_lane_division : let f := lf (.v 255) (.v 0) (.v 3) (.v 0) .i32 0
    (Instr.irem f).wf = true ∧ (Instr.idiv { f with sat := true }).wf = true ∧ tRaise.LaneGoes f (rowSpans rowIdiv f.ty) ∧ (0x20 : W32) ≠ 0 ∧ (∀ j < 32, (0x20 : W32).getLsbD j = ((tRaise.active f).getLsbD j && decide (tRaise.intB f j = 0)))
      ∧ (∀ j < 32, (tRaise.active { f with k := 2 }).getLsbD j = true → tRaise.intB f j ≠ 0) := by unfold State.LaneGoes; decide
theorem meets_alg_dim : (0x7C : BitVec 24).toNat % 4 < tLane.wg.grant.algs ∧ (alookup 0 tLane.wg.alg).getD AlgTable.real = AlgTable.real ∧ AlgTable.real.dim = 2 ^ ((0 : BitVec 24).toNat / 2 ^ 5 % 4) ∧ AlgTable.real.dim ≠ 2 ^ ((0x60 : BitVec 24).toNat / 2 ^ 5 % 4) := by decide
theorem meets_sfu : (⟨tPod, 1⟩ : Pod × Nat).1.ten.toNat % 32 = 0 ∧ tRaise.pod.ten.toNat % 32 ≠ 0 ∧ tLane.pod.inHandler = false ∧ tLane.pod.live = true ∧ tHandler.pod.inHandler = true
    ∧ (let s : State := { tLane with pod := { tLane.pod with sfu := [⟨[(4, 1), (5, 2)], [], 16⟩] } }
       s.pod.sfu = ⟨[(4, 1), (5, 2)], [], 16⟩ :: [] ∧ ([(4, (1 : W32)), (5, 2)].map (·.1)).Nodup) := by decide

/-- Lane memory: in lanes 4 to 7, v0 holds window offsets 1008 to 1020 by fours, v2 and v3 addresses from 0x5000 on. -/
def tLaneMem : State :=
  { tLane with
    pod := { tLane.pod with v := NMap.setMany [] (((List.range 4).map fun i => (4 + i, BitVec.ofNat 32 (1008 + 4 * i))) ++ ((List.range 4).map fun i => (2 * 32 + 4 + i, BitVec.ofNat 32 (0x5000 + 4 * i)))) }
    core := { tLane.core with l1 := [⟨0xA0, true, (List.range 128).map fun i => (i, BitVec.ofNat 8 i), []⟩], kcache := [(0xA0, List.replicate 128 1)] }
    wg := { tLane.wg with fe := [(63, 1)] } }
def fLds : LFields := lf (.v 8) (.v 0) (.v 10) (.v 0) .i32 0
def fLd : LFields := lf (.v 8) (.v 2) (.v 10) (.v 0) .i32 0
def fSt : LFields := { lf .none (.v 2) (.v 10) (.v 0) .i32 0 with k := 2 }
theorem meets_lds : (Instr.lds fLds).wf = true ∧ (Instr.lds { fLds with imm := 0xC0000 }).wf = true ∧ tLaneMem.LaneGoes fLds (rowSpans rowLoadS .i32) ∧ tLaneMem.pod.lTxn = Txn.empty
    ∧ (∀ j < 32, (tLaneMem.active fLds).getLsbD j = true → tLaneMem.laneOffset fLds j = 1008 + 4 * (j - 4) ∧ tLaneMem.laneOffset fLds j % 4 = 0 ∧ tLaneMem.laneOffset fLds j + 4 ≤ tLaneMem.wg.grant.scratch
        ∧ poisoned tLaneMem.wg.scratchPoison (tLaneMem.laneOffset fLds j) 4 = false ∧ NMap.get tLaneMem.wg.fe (tLaneMem.laneOffset fLds j / 16) ≠ 0 ∧ NMap.get tLane.wg.fe (tLaneMem.laneOffset fLds j / 16) = 0)
    ∧ (Instr.sts { fLds with dest := .none, imm := 0x80000 }).wf = true ∧ tLaneMem.LaneGoes { fLds with dest := .none } (rowSpans rowStoreS .i32) ∧ tLaneMem.wg.objects = [] := by
  unfold State.LaneGoes; decide
theorem meets_lds_traps : tLaneMem.canTrap ∧ tLaneMem.pod.sTxn.sent = false
    ∧ (∀ i < 32, (0xF0 : W32).getLsbD i = ((tLaneMem.active fLds).getLsbD i && decide (tLaneMem.laneOffset { fLds with imm := 1 } i % 4 ≠ 0)))
    ∧ (∀ i < 32, (0x80 : W32).getLsbD i = ((tLaneMem.active fLds).getLsbD i && decide (tLaneMem.wg.grant.scratch < tLaneMem.laneOffset { fLds with imm := 4 } i + 4)))
    ∧ (∀ i < 32, (tLaneMem.active fLds).getLsbD i = true → tLaneMem.laneOffset { fLds with imm := 4 } i % 4 = 0) ∧ (0x80 : W32).getLsbD 7 = true ∧ (∀ i < 7, (0x80 : W32).getLsbD i = false) := by
  unfold State.canTrap; decide
theorem meets_ld : (Instr.ld fLd).wf = true ∧ (Instr.ldk fLd).wf = true ∧ tLaneMem.LaneGoes fLd (rowSpans rowLoad .i32) ∧ tLaneMem.core.tlb = []
    ∧ (∀ j < 32, (tLaneMem.active fLd).getLsbD j = true → tLaneMem.checkFlat 0 0 (tLaneMem.laneFlat fLd j) 4 false = .ok (tLoc (0x5000 + 4 * (j - 4))) ∧ (0x5000 + 4 * (j - 4)) % 128 + 4 ≤ 128
        ∧ tLaneMem.core.allValid 0xA0 ((0x5000 + 4 * (j - 4)) % 128) 4 = true ∧ poisoned tLaneMem.core.l1Poison (0x5000 + 4 * (j - 4)) 4 = false)
    ∧ tLaneMem.core.shelf = [] ∧ alookup 0xA0 tLaneMem.core.kcache = some (List.replicate 128 1) := by unfold State.LaneGoes; decide
theorem meets_st : (Instr.st fSt).wf = true ∧ tLaneMem.LaneGoes fSt (rowSpans rowStore .i32) ∧ (Instr.st { fSt with imm := 0xB00000 }).wf = true ∧ tLaneMem.oneLane fSt 7
    ∧ tLaneMem.core.dirtyLines = [] ∧ tLaneMem.pubs = [] ∧ tLaneMem.pod.daubOut = 0 ∧ tLaneMem.farAcked 0 = true ∧ lineFar 0xA0 = false ∧ (tLoc 0x500C).tracked = true
    ∧ tLaneMem.checkFlat 0 0 (tLaneMem.laneFlat fSt 7) 4 true = .ok (tLoc 0x500C) ∧ 0x500C % 128 + 4 ≤ 128 ∧ tLaneMem.core.l1.length < Config.l1Ways := by
  unfold State.LaneGoes State.oneLane; decide
theorem tCleanMem (a : Nat) : tLaneMem.CleanLine (tLoc a) := ⟨(by intro p h; cases h), (by intro p h; cases h), (by
  intro x h; have e : tLaneMem.core.l1 = [⟨0xA0, true, (List.range 128).map fun i => (i, BitVec.ofNat 8 i), []⟩] := rfl
  simp only [Core.lineOf, e, List.find?_cons] at h; split at h
  · cases h; rw [show (tLoc a).tracked = (tLoc 0).tracked from rfl]; decide
  · cases h)⟩
theorem meets_st_rel_done : let s : State := { tLaneMem with pod := { tLaneMem.pod with lTxn := { Txn.empty with phase := 3, pub := some 4, replies := [(7, 0)], locs := [(0x500C, tLoc 0x500C)] } } }
    let f := { fSt with imm := 0xB00000 }
    (Instr.st f).wf = true ∧ s.LaneGoes f (rowSpans rowStore .i32) ∧ s.oneLane f 7 ∧ s.laneFlat f 7 = 0x500C ∧ s.pubDone 0 4 = true ∧ s.farAcked 0 = true := by
  unfold State.LaneGoes State.oneLane; decide
theorem meets_ld_traps : (∀ i < 32, (tLaneMem.active fLd).getLsbD i = true → (tLaneMem.laneFlat { fLd with imm := 1 } i).toNat < 2 ^ 54
      ∧ tLaneMem.walkBusy 0 0 (tLaneMem.laneFlat { fLd with imm := 1 } i).toNat = false)
    ∧ (∀ i < 32, (0xF0 : W32).getLsbD i = ((tLaneMem.active fLd).getLsbD i && decide ((tLaneMem.laneFlat { fLd with imm := 1 } i).toNat % 4 ≠ 0))) ∧ (0xF0 : W32).getLsbD 4 = true
    ∧ (Instr.ld { fLd with imm := 1 }).wf = true ∧ (Instr.st { fSt with imm := 1 }).wf = true := by decide
/-- The same with an empty L1. -/
def tLaneFree : State := { tLaneMem with core := { tLane.core with kcache := [] } }
def fAtom (imm : Nat) (a : Src) : LFields := { lf (.v 8) a (.imm 5) (.v 0) .i32 (BitVec.ofNat 24 imm) with k := 2 }
theorem meets_atom : (Instr.atom (fAtom 0x80000 (.v 0))).wf = true ∧ tLaneFree.LaneGoes (fAtom 0x80000 (.v 0)) (atomSpans (fAtom 0x80000 (.v 0))) ∧ (Instr.atom { fAtom 0x38000 (.v 2) with c := .imm 1 }).wf = true
    ∧ tLaneFree.LaneGoes { fAtom 0x38000 (.v 2) with c := .imm 1 } (atomSpans { fAtom 0x38000 (.v 2) with c := .imm 1 }) ∧ (fAtom 0x80000 (.v 0)).imm.getLsbD 19 = true ∧ (fAtom 0x38000 (.v 2)).imm.getLsbD 19 = false
    ∧ (tLaneFree.srcA (fAtom 0x80000 (.v 0)) .n32 7).toNat % 2 ^ 32 = 1020 ∧ tLaneFree.oneLane (fAtom 0x38000 (.v 2)) 7 ∧ 1020 + 4 ≤ tLaneFree.wg.grant.scratch
    ∧ tLaneFree.checkFlat 0 0 (tLaneFree.srcA (fAtom 0x38000 (.v 2)) .n64 7) 4 true = .ok (tLoc 0x500C)
    ∧ (Instr.atom { fAtom 0xF38000 (.v 2) with c := .imm 1 }).wf = true ∧ 0xF38000 / 2 ^ 22 = 3 ∧ tLaneFree.core.dirtyLines = [] ∧ tLaneFree.pubs = [] ∧ tLaneFree.pod.daubOut = 0
    ∧ tLaneFree.farAcked 0 = true ∧ tLaneFree.core.shelf = [] ∧ tLaneFree.core.stash = [] ∧ tLaneFree.core.fills = [] ∧ tLaneFree.guests = [] ∧ tLaneFree.pod.lTxn = Txn.empty ∧ tLaneFree.pod.live = true ∧ tLaneFree.pod.coat = none ∧ tLaneFree.proxies = [] ∧ tLaneFree.core.l1 = [] ∧ tLaneFree.wg.objects = [] := by
  unfold State.LaneGoes State.oneLane; decide
theorem meets_atom_home : tLaneFree.PlainHome (tLoc 0x500C) 4 := ⟨rfl, by decide, (by intro h e; cases e), by decide, by decide, by decide⟩
theorem meets_daub_word : let f : LFields := { lf .none (.v 2) (.imm 71) (.v 0) .i32 0 with k := 2 }
    (Instr.daub f).wf = true ∧ (Instr.daub { f with imm := 0x40000 }).wf = true ∧ (Instr.daub { f with b := .q 14, imm := 0x8A0000 }).wf = false
      ∧ (Instr.daub { f with b := .q 14, imm := 0xAA0000 }).wf = true ∧ poisoned tLaneFree.poison ((tLoc 0x500C).line * 128) 128 = false ∧ tLaneFree.LaneGoes f (daubSpans f) ∧ tLaneFree.oneLane f 7 ∧ (tLaneFree.srcB f .n32 0).toNat % 2 ^ 32 = 71
      ∧ tLaneFree.checkFlat 0 0 (BitVec.ofInt 64 ((tLaneFree.srcA f .n64 7).toInt + (f.imm.setWidth 16 : BitVec 16).toInt)) 4 true = .ok (tLoc 0x500C) := by
  unfold State.LaneGoes State.oneLane; decide
theorem meets_wst : let f : LFields := { fSt with imm := 0x3F0000 }
    (Instr.wst f).wf = true ∧ tLaneFree.LaneGoes f (rowSpans rowStore .i32) ∧ tLaneFree.oneLane f 7 ∧ tLaneFree.checkFlat 0 0 (tLaneFree.laneFlat f 7) 4 true = .ok (tLoc 0x500C)
      ∧ (tLoc 0x500C).tracked = true ∧ lineFar (tLoc 0x500C).line = false := by unfold State.LaneGoes State.oneLane; decide
def xHalf : Half := { op := .iadd, neg := false, k := 0, dest := .v 238, a := .v 0, b := .imm 63, ty := .i64, src := .i32 }
def yHalf : Half := { op := .cvt, neg := true, k := 7, dest := .v 237, a := .b 1, b := .v 0, ty := .f32, src := .f64 }
theorem meets_stream : (Instr.pairedWord true xHalf yHalf).wf = true ∧ tLane.pod.queue ≠ [] ∧ tLane.pod.sfu = [] ∧ tLane.block.rep = 0 ∧ 1 ≤ tLane.block.hRun ∧ tLane.block.hRun ≤ 8
    ∧ (∀ n ∈ xHalf.vReads ++ yHalf.vReads ++ xHalf.vDests ++ yHalf.vDests, tLane.granted n = true) ∧ (latched yHalf.a) = true ∧ tLane.pod.ten = 0 := by decide

/-! ## Hypotheses met: homes, cores, controllers -/

def tPart (st : PubStage) : PubPart := { line := 0xA0, bytes := [(0, 1), (127, 2)], bad := [], clean := [0, 127], stage := st }
def tPub (st : PubStage) (core : Nat) : Publication := { id := 4, core := core, parts := [tPart st] }
/-- One publication of line 0xA0 at its home on die 0, from a core. -/
def tOne (st : PubStage) (core : Nat) (h : HomeLine) : State := { tBase with pubs := [tPub st core], homes := [h] }
def tHome : HomeLine := HomeLine.fresh 0xA0 0
theorem meets_one_line (st : PubStage) (core : Nat) (h : HomeLine) (hh : h.line = 0xA0) : (tOne st core h).OneLine (tPub st core) (tPart st) h := ⟨⟨rfl, rfl⟩, ⟨rfl, hh⟩, rfl⟩
theorem meets_pending : (tPart .sending).stage = .sending ∧ tHome.op = .idle ∧ tHome.waiting = [] ∧ tHome.dir = .home ∧ (tPub .sending 71).core / 72 = tHome.die ∧ (tPub .sending 71).core < 288
    ∧ ({ tHome with op := .notifying } : HomeLine).op ≠ .idle ∧ ({ tHome with waiting := [.homeServe 0xA0] } : HomeLine).waiting ≠ [] := by decide
theorem meets_acknowledge : let h : HomeLine := { tHome with op := .pending 4, acks := 1, pend := [(0, 1), (127, 2)] }
    1 < ({ h with acks := 2 } : HomeLine).acks ∧ h.acks = 1 ∧ h.op = .pending (tPub .pending 0).id ∧ ({ h with op := .notifying } : HomeLine).op = .notifying ∧ h.dir = .home ∧ (tPart .pending).stage = .pending
      ∧ ({ h with op := .reported 4 } : HomeLine).op = .reported 4 ∧ (h.pend.map (·.1)).Nodup ∧ (∀ e ∈ h.pend, e.1 < 128) := by decide
theorem meets_confirm : (tPart .committing).stage = .committing ∧ (tPub .committing 0).core = (tOne .committing 0 tHome).core.n ∧ tBase.core.n < 288 ∧ tBase.hawk = []
    ∧ (({ tBase.core with stash := [⟨0xA0, 0, [⟨0, 1, 3⟩]⟩] } : Core).stash.map (·.line)).Nodup := by decide
theorem meets_notice : (withShelf [⟨0xA0, some (1, [])⟩]).core.shelf = [⟨0xA0, some (1, [])⟩] ∧ (withShelf []).core.shelf.length < 64
    ∧ (withShelf (List.replicate 64 ⟨7, none⟩)).core.shelf.length = 64 ∧ (∀ e ∈ (withShelf (List.replicate 64 ⟨7, none⟩)).core.shelf, e.line ≠ 0xA0)
    ∧ (withShelf (List.replicate 64 ⟨7, none⟩)).core.distinctLines ∧ (withShelf (List.replicate 64 ⟨7, none⟩)).core.lineOf 0xA0 = none := by unfold Core.distinctLines; decide
def withFill (f : FillState) : State := { tBase with core := { tBase.core with fills := [f] } }
theorem meets_fill : let f : FillState := ⟨0xA0, true, false, [(⟨5, 0⟩, .s)], none⟩
    let t := withFill f
    lineFar 0xA0 = false ∧ t.homeIdle 0xA0 = true ∧ (t.homeD 0xA0).dir = .home ∧ t.proxies = [] ∧ t.guests = [] ∧ poisoned t.poison (0xA0 * 128) 128 = false ∧ t.core.fills = [f] ∧ f.line = 0xA0
      ∧ f.tracked = true ∧ f.served = none ∧ (List.replicate 128 (1 : Byte)).length = 128 ∧ f.overtaken = false ∧ t.core.l1.length < Config.l1Ways ∧ t.core.lineOf 0xA0 = none
      ∧ ({ f with overtaken := true } : FillState).overtaken = true ∧ ({ tHome with op := .notifying } : HomeLine).op ≠ .idle := by decide
theorem meets_fill_busy : (tOne .sending 0 { tHome with op := .notifying }).homeOf 0xA0 = some { tHome with op := .notifying } := by decide
theorem meets_eviction : let l : L1Line := ⟨0xA0, true, [(0, 1), (127, 2)], [(127, 3)]⟩
    let s : State := { tBase with core := { tBase.core with l1 := [l] } }
    s.core.l1 = [l] ∧ (l.bytes.map (·.1)).Nodup ∧ (∀ e ∈ l.bytes, e.1 < 128) ∧ l.tracked = true ∧ s.core.stash = [] ∧ s.cores = []
      ∧ ({ l with tracked := false } : L1Line).tracked = false ∧ s.homeIdle 0xA0 = true ∧ s.proxies = [] := by decide
theorem meets_guest : let s : State := { tBase with guests := [⟨0xA0, 1, [], [6]⟩], homes := [tHome] }
    s.guests = [⟨0xA0, 1, [], [6]⟩] ∧ s.homes = [tHome] ∧ tHome.line = 0xA0 := by decide
theorem meets_write_back : let bs : LineBytes := [(0, 1), (511, 2)]
    tBase.wbQueue = [] ∧ 40 * 512 < Config.hostBase ∧ ({ tBase with wbQueue := [(40, bs)] } : State).wbQueue = [(40, bs)] ∧ (bs.map (·.1)).Nodup ∧ (∀ e ∈ bs, e.1 < 512) ∧ tBase.blockCmp 40 = false := by decide
theorem meets_ownership : (1 : Nat) = (tPub .sending 72).core / 72 ∧ (tPub .sending 72).core < 288 ∧ 1 ≠ tHome.die ∧ tHome.waiting = [] ∧ tHome.dies = [] ∧ tHome.clusters = [] ∧ tHome.guests = []
    ∧ (let h : HomeLine := { tHome with op := .pending 4, dir := .owned 1, dies := [1] }
       h.dir = .owned 1 ∧ h.clusters = [] ∧ h.dies = [1] ∧ h.guests = []) := by decide
def tProxy (k : ProxyKind) : Proxy := { line := 0xA0, die := 1, kind := k, bytes := [(0, 1), (127, 2)], waiting := [] }
theorem meets_proxy : let s : State := { tBase with proxies := [tProxy .owned], homes := [{ tHome with dir := .owned 1, parts := 2 }] }
    s.proxies = [tProxy .owned] ∧ (tProxy .priv).line = tHome.line ∧ ((tProxy .copy).bytes.map (·.1)).Nodup ∧ (∀ e ∈ (tProxy .hold).bytes, e.1 < 128) ∧ tHome.op = .idle ∧ tHome.waiting = []
      ∧ ({ tHome with dir := .owned 1 } : HomeLine).dir = .owned 1 ∧ tHome.parts ≤ 1 ∧ 1 < ({ tHome with parts := 2 } : HomeLine).parts ∧ (tProxy .copy).kind = .copy := by decide
/-- A write-back whose bytes have reached the home. -/
theorem meets_hold : (tProxy .hold).kind = .hold ∧ ∀ e ∈ (tProxy .hold).bytes, NMap.get ({ tBase with mem := [(0x5000, 1#8), (0x507F, 2#8)] } : State).mem ((tProxy .hold).line * 128 + e.1) = e.2 := by decide
theorem meets_forwarded : let h : HomeLine := { tHome with dir := .owned 1 }
    let r : FillReq := ⟨0, 0xA0, false⟩
    let f : FillState := ⟨0xA0, true, false, [(⟨5, 0⟩, .s)], none⟩
    let s : State := { withFill f with homes := [h], proxies := [tProxy .owned] }
    s.homes = [h] ∧ h.line = r.line ∧ h.op = .idle ∧ h.waiting = [] ∧ (∀ p ∈ s.proxies, p.line = r.line → p.kind = .owned) ∧ h.dir = .owned 1 ∧ 1 ≠ r.core / 72 ∧ r.core = s.core.n ∧ s.core.fills = [f]
      ∧ f.tracked = true ∧ f.served = none ∧ lineFar r.line = false ∧ s.guests = [] ∧ poisoned s.poison (r.line * 128) 128 = false := by decide

/-! ## Hypotheses met: the front end -/

/-- A read of consecutive bytes that all translate. -/
theorem readVirtual_of (s : State) (ctx : Nat) (loc : Nat → Loc) : (n va : Nat) → (∀ i < n, s.checkFlat 0 ctx (BitVec.ofNat 64 (va + i)) 1 false = .ok (loc (va + i))) → s.poison = [] →
    s.readVirtual ctx va n = .ok ((List.range n).map fun i => s.homeByte (loc (va + i)).key)
  | 0, _, _, _ => rfl
  | n + 1, va, h, hp => by
    have h0 := h 0 (by omega)
    have hr := readVirtual_of s ctx loc n (va + 1) (fun i hi => by have := h (i + 1) (by omega); rwa [show va + (i + 1) = va + 1 + i by omega] at this) hp
    have e : poisoned s.poison (loc va).key 1 = false := by rw [hp]; unfold poisoned; simp [NMap.get]
    simp only [Nat.add_zero] at h0
    simp only [State.readVirtual, h0, e, hr, List.range_succ_eq_map, List.map_cons, List.map_map, Except.map]
    simp [Function.comp_def, Nat.add_comm, Nat.add_left_comm]
/-- An address of the first MiB under the table of tBase. -/
theorem flat_of (s : State) (va : Nat) (c : Ctx) (hc : s.ctxBy 0 = some c) (hw : pteKind 1 (s.readPte c.table) = .leaf 0xF3) (hh : s.homes = []) (ht : (s.coreBy 0).tlb = []) (hu : s.clusterTlb = []) (hd : s.dev = 0)
    (hv : va < 2 ^ 20) : s.checkFlat 0 0 (BitVec.ofNat 64 va) 1 false = .ok (tLoc va) := by
  have e : (BitVec.ofNat 64 va).toNat = va := by simp; omega
  have q : va / 2 ^ 42 % 4096 = 0 := by omega
  have w : s.walk c.table va = some (1, 0xF3) := by unfold State.walk; rw [q]; simp only [Nat.mul_zero, Nat.add_zero, hw]
  have i : ∀ a, s.pteIdle a = true := fun a => by simp [State.pteIdle, State.homeIdle, State.homeOf, hh]
  have ww : s.walkWaits c.table va = false := by unfold State.walkWaits; rw [q]; simp [i, hw]
  have l : s.heldLeaf 0 0 va = none := by simp [State.heldLeaf, tlbFind, ht, hu]
  have k : leafPhys (1, 0xF3) va = va := by simp only [leafPhys, pageBytes]; rw [show pteBits 0xF3 16 36 = 0 by decide]; omega
  have d : leafDev 0xF3 = 0 := by decide
  have m : inMetadata va = false := by rw [inMetadata, Bool.and_eq_false_iff]; right; rw [decide_eq_false_iff_not, Nat.mod_eq_of_lt (by simp only [Config.dieBytes]; omega)]; simp only [Config.dieBytes, Config.metaBytes]; omega
  have b : s.walkBusy 0 0 va = false := by simp [State.walkBusy, hc, ww]
  have lc : s.locate 0 0 va = some (tLoc va) := by
    simp only [State.locate, State.translateOn, l, hc, w, Option.bind_some, k, m, d, hd]
    rfl
  unfold State.checkFlat State.checkPage
  rw [e, if_neg (by omega), if_neg (by omega), b, lc]
  rfl
/-- A ring of eight entries at 0x4000 with its head record at 0x6000. -/
def tRing (n : Nat) : Ring :=
  { n := n, conf := true, entry := [], base := 0x4000, headAddr := 0x6000, k := 3, q := 0x1200, cls := 1, ctx := 0, tail := 8, head := 7, state := 0, busy := true, waiting := none, waitLogged := false, msixPending := false }
/-- An entry of an opcode and some operand bytes, with its tag for head 7. -/
def tE (code : Byte) (xs : NMap 8) : NMap 8 := (0, 7#8) :: (1, 0x12#8) :: (2, code) :: xs
/-- Its 64 bytes. -/
def tEntryBytes (code : Byte) (xs : NMap 8) : List Byte := (List.range 64).map (NMap.get (tE code xs))
/-- The ring that has read this entry, beside the page table of tBase. -/
def tCommand (n : Nat) (e : NMap 8) : State :=
  { tBase with rings := [{ tRing n with entry := (List.range 64).map (NMap.get e) }], mem := (e.map fun x => (0x41C0 + x.1, x.2)) ++ [(0x100000, 0xF3#8)], launches := [], jobs := [], wg := Wg.empty, pod := Pod.empty }
def tTaken (n : Nat) (e : NMap 8) : Ring := { tRing n with entry := (List.range 64).map (NMap.get e) }
theorem meets_command (n : Nat) (e : NMap 8) : (tCommand n e).Command (tTaken n e) ((List.range 64).map (NMap.get e)) :=
  ⟨⟨rfl, rfl, rfl, rfl, rfl⟩, ⟨rfl, by simp⟩, rfl, rfl⟩
def tWait : NMap 8 := tE 0x05 [(9, 0x50#8), (16, 1#8)]
def tWaitBytes : List Byte := tEntryBytes 0x05 [(9, 0x50#8), (16, 1#8)]
theorem meets_entry : (tCommand 1 tWait).rings.map (·.entry) = [tWaitBytes] ∧ (List.range 64).map (fun i => NMap.get (tCommand 1 tWait).mem (0x41C0 + i)) = tWaitBytes := by decide
theorem meets_doorbell : let r := { tRing 255 with busy := false }
    let s : State := { tCommand 255 tWait with rings := [r] }
    s.rings = [r] ∧ r.conf = true ∧ r.state = 0 ∧ r.waiting = none ∧ s.homes = [] ∧ s.proxies = []
      ∧ r.base + 64 * (r.head.toNat % 2 ^ r.k) = 0x41C0 ∧ ((7 : W32) - r.head).toNat = 0 ∧ 2 ^ r.k < ((16 : W32) - r.head).toNat
      ∧ ((15 : W32) - r.head).toNat ≤ 2 ^ r.k ∧ num tWaitBytes 0 2 = (r.q.toNat + r.head.toNat) % 2 ^ 16 ∧ ¬ num (List.replicate 64 (0 : Byte)) 0 2 = (r.q.toNat + r.head.toNat) % 2 ^ 16
      ∧ entryOk 255 tWaitBytes = true ∧ entryOk 255 (tEntryBytes 0xFF []) = false ∧ num (tEntryBytes 0xFF []) 0 2 = 0x1207 ∧ (commandOf 255 (num tWaitBytes 2 1)).isSome = true := by decide
theorem meets_registers : tBase.adm.en = false ∧ ({ tBase with adm := { tBase.adm with en := true } } : State).adm.en = true
    ∧ ((0x80000000 + 16 * 2 ^ 16 : W32).getLsbD 31 = true ∧ 3 ≤ (0x80000000 + 16 * 2 ^ 16 : W32).toNat / 2 ^ 16 % 2 ^ 5 ∧ (0x80000000 + 16 * 2 ^ 16 : W32).toNat / 2 ^ 16 % 2 ^ 5 ≤ 16)
    ∧ ¬ ((0x80000000 + 17 * 2 ^ 16 : W32).toNat / 2 ^ 16 % 2 ^ 5 ≤ 16) ∧ 0x81000 ≤ (0x81FF8 : BitVec 20).toNat ∧ (0x81FF8 : BitVec 20).toNat + 8 ≤ 0x82000
    ∧ (∃ r ∈ [{ tRing 0 with conf := false }], r.n = 0 ∧ r.conf = false) ∧ (tRing 0).busy = true ∧ (tRing 0).waiting = none ∧ (0x1FF8 : W64).getLsbD 31 = false ∧ (0x80000007 : W64).getLsbD 31 = true
    ∧ (0x80000007 : W64).toNat % 2 ^ 8 = 7 ∧ (0x17F8 : BitVec 20).toNat = 0x1000 + 8 * (255 : Fin 256).val := by decide
def tHostJob (counted : Nat) : HostJob := { serial := 3, ctx := 0, id := 9, isOpen := true, record := 0, ring := 1, msix := false, members := 2, counted := counted, ended := false, cancelled := false, faulted := none }
theorem meets_job_end : let e := tEntryBytes 0x04 [(4, 0x9#8)]
    e.length = 64 ∧ (tRing 1).n = (1 : Fin 256).val ∧ (1 : Fin 256) ≠ 0 ∧ (tHostJob 2).ctx = (tRing 1).ctx ∧ (tHostJob 2).id.toNat = num e 4 4 ∧ num e 8 8 = 0 ∧ num e 3 1 = 0
      ∧ (tHostJob 2).isOpen = true ∧ (tHostJob 2).ended = false ∧ ({ tCommand 1 [] with ctxs := [] } : State).ctxs = [] ∧ tBase.hostPending = 0 ∧ tBase.pubs = [] ∧ tBase.peers = [] ∧ ({ tBase with hostPending := 2 } : State).hostPending ≠ 0
      ∧ (tHostJob 2).counted = (tHostJob 2).members ∧ (tHostJob 1).counted < (tHostJob 1).members := by decide
theorem meets_cancel_command : num (tEntryBytes 0x03 [(8, 0x2#8)]) 8 1 = 2 ∧ 2 < num (tEntryBytes 0x03 [(8, 0x3#8)]) 8 1 ∧ num (tEntryBytes 0x03 [(8, 0x3#8)]) 3 1 = 0 ∧ num (tEntryBytes 0x03 []) 16 8 = 0
    ∧ num (tEntryBytes 0x03 []) 8 1 = 0 ∧ (tCommand 1 []).allWgs = [] ∧ (tCommand 1 []).xfers = [] ∧ (tCommand 1 []).endings = [] ∧ (∀ c ∈ (tCommand 1 []).allCores, c.jobs = [] ∧ c.slotQueue = []) ∧ (tCommand 1 []).inflight = []
    ∧ tLaunch.done = false ∧ tLaunch.ending = false ∧ tLaunch.pipeline = none ∧ tLaunch.ctx = (tRing 1).ctx ∧ tLaunch.record = 0 ∧ tLaunch.wetGroups = [] ∧ tLaunch.msix = false := by decide
theorem meets_invalidates : num (tEntryBytes 0x06 [(9, 0x50#8), (17, 0x10#8)]) 24 8 = 0 ∧ num (tEntryBytes 0x07 [(9, 0x50#8)]) 16 8 = 0 ∧ num (tEntryBytes 0x07 []) 3 1 = 0 := by decide
theorem ok_of {ε α : Type} [DecidableEq α] {r : Except ε α} {x : α} (h : (match r with | .ok b => decide (b = x) | .error _ => false) = true) : r = .ok x := by
  split at h
  · rw [of_decide_eq_true h]
  · cases h
theorem meets_wait : let s := tCommand 255 tWait
    (s.takeEntry (tRing 255).n).readVirtual (tRing 255).ctx (num tWaitBytes 8 8) 8 = .ok (List.replicate 8 0) ∧ ¬ 0 ≤ (BitVec.ofNat 64 (leValue (List.replicate 8 0)) - BitVec.ofNat 64 (num tWaitBytes 16 8)).toInt
      ∧ 0 ≤ (BitVec.ofNat 64 (leValue (List.replicate 8 0)) - BitVec.ofNat 64 (num (tEntryBytes 0x05 [(9, 0x50#8)]) 16 8)).toInt := ⟨ok_of (by decide), by decide⟩
theorem meets_wait_recheck : let r := { tRing 255 with waiting := some (0x5000, 0, 0), tail := 7 }
    let s : State := { tBase with rings := [r] }
    s.rings = [r] ∧ r.n = (255 : Fin 256).val ∧ r.waiting = some (0x5000, 0, 0) ∧ r.msixPending = false ∧ r.head = r.tail ∧ r.conf = true ∧ s.waitBusy 255 r.ctx 0x5000 = false ∧ s.readVirtual r.ctx 0x5000 8 = .ok (List.replicate 8 0)
      ∧ 0 ≤ (BitVec.ofNat 64 (leValue (List.replicate 8 0)) - 0).toInt ∧ ¬ 0 ≤ (BitVec.ofNat 64 (leValue (List.replicate 8 0)) - 1).toInt := ⟨rfl, rfl, rfl, rfl, rfl, rfl, by decide, ok_of (by decide), by decide⟩
theorem meets_wait_admin : let s := tCommand 0 tWait
    poisoned (s.takeEntry 0).poison (num tWaitBytes 8 8) 8 = false ∧ ¬ 0 ≤ (BitVec.ofNat 64 (leValue ((s.takeEntry 0).homeBytes (num tWaitBytes 8 8) 8)) - BitVec.ofNat 64 (num tWaitBytes 16 8)).toInt
      ∧ poisoned s.poison 0x5000 8 = false ∧ s.homeBytes 0x5000 8 = List.replicate 8 0 := by decide
theorem meets_admin : let e := tEntryBytes 0x40 [(8, 0x3f#8), (10, 0x5#8), (18, 0x10#8), (26, 0x20#8), (33, 0x70#8)]
    num e 8 1 ≤ 63 ∧ (tRing 0).clear (num e 32 8) ∧ num e 3 1 = 0 ∧ 63 < num (tEntryBytes 0x40 [(8, 0x40#8)]) 8 1 ∧ (tRing 0).clear (num (tEntryBytes 0x40 [(8, 0x40#8)]) 32 8) ∧ (tRing 0).n = 0
      ∧ (∀ j ∈ (tCommand 0 []).jobs, j.ctx = num e 8 1 → j.ended = true) ∧ (tHostJob 0).ctx = num (tEntryBytes 0x41 []) 8 1 ∧ (tHostJob 0).ended = false ∧ (tCommand 0 []).ctxs = [⟨0, 0, 0x100000, 0, none⟩] ∧ (tCommand 0 []).records = [] := by unfold Ring.clear; decide
theorem meets_ring_configure : let e := tEntryBytes 0x42 [(8, 0xff#8), (9, 0x3f#8), (10, 0x3#8), (11, 0x10#8), (17, 0x80#8), (25, 0x90#8)]
    num e 8 1 ≠ 0 ∧ num e 9 1 ≤ 63 ∧ num e 10 1 ≤ 3 ∧ 3 ≤ num e 11 1 ∧ num e 11 1 ≤ 16 ∧ ¬ 3 ≤ num (tEntryBytes 0x42 [(8, 0xff#8), (11, 0x2#8)]) 11 1 := by decide
theorem meets_domain : num (tEntryBytes 0x43 [(8, 0xff#8), (9, 0x1#8)]) 8 2 ≤ 511 ∧ 511 < num (tEntryBytes 0x43 [(9, 0x2#8)]) 8 2 ∧ ({ tCommand 0 [] with ctxs := [] } : State).peers = []
    ∧ (tCommand 0 []).ctxs ≠ [] ∧ (tCommand 0 []).hasDev = false := by decide

/-- A descriptor of one pod of 64 registers at 0x5000, and a Launch of it over a grid of 2 by 1 by 1. -/
def tDescBytes : List Byte := [0, 0x10] ++ List.replicate 7 0 ++ [0x20] ++ List.replicate 22 0 ++ [1, 1] ++ List.replicate 94 0
def tLaunchE : NMap 8 := tE 1 [(9, 0x50#8), (24, 2#8), (28, 1#8), (32, 1#8)]
def tPlaced : State := { tCommand 1 tLaunchE with mem := [(0x41C0, 7#8), (0x41C1, 0x12#8), (0x41C2, 1#8), (0x41C9, 0x50#8), (0x41D8, 2#8), (0x41DC, 1#8), (0x41E0, 1#8), (0x5001, 0x10#8), (0x5009, 0x20#8), (0x5020, 1#8), (0x5021, 1#8), (0x100000, 0xF3#8)] }
theorem meets_launch : let e := tEntryBytes 1 [(9, 0x50#8), (24, 2#8), (28, 1#8), (32, 1#8)]
    num (tEntryBytes 1 [(8, 0x40#8), (9, 0x50#8)]) 8 8 % 128 ≠ 0 ∧ num e 40 8 = 0 ∧ num e 3 1 = 0 ∧ tPlaced.jobs = [] ∧ tPlaced.hostPending = 0 ∧ tPlaced.pubs = [] ∧ tPlaced.peers = [] ∧ num e 8 8 = 0x5000 ∧ tPlaced.descCache = []
      ∧ descCheck tDescBytes (parseDesc tDescBytes) (num e 24 4, num e 28 4, num e 32 4) = none ∧ num e 36 1 / 2 ^ 4 % 2 = 0
      ∧ (descCheck (List.replicate 128 0) (parseDesc (List.replicate 128 0)) (2, 1, 1)).isSome = true := by decide
/-- The same after the entry has been taken. -/
def tPlacedTaken : State := { tPlaced with rings := [{ tTaken 1 tLaunchE with head := 8 }], mem := [(0x41C0, 7#8), (0x41C1, 0x12#8), (0x41C2, 1#8), (0x41C9, 0x50#8), (0x41D8, 2#8), (0x41DC, 1#8), (0x41E0, 1#8), (0x5001, 0x10#8), (0x5009, 0x20#8), (0x5020, 1#8), (0x5021, 1#8), (0x6000, 8#8), (0x100000, 0xF3#8)] }
theorem meets_launch_reads : (tPlaced.takeEntry 1).readVirtual 0 0x5000 128 = .ok tDescBytes := by
  rw [show tPlaced.takeEntry 1 = tPlacedTaken by decide, readVirtual_of _ _ tLoc _ _ (fun i hi => flat_of _ _ ⟨0, 0, 0x100000, 0, none⟩ rfl (by decide) rfl rfl rfl rfl (by omega)) rfl]
  exact ok_of (by decide)

/-! ## Hypotheses met: pipelines and placement -/

def tPlanE : NMap 8 := tE 2 [(9, 0x50#8)]
/-- A plan record at 0x5000 of two stages, of the descriptor at 0x5100, and one pipe of 16 by 16 bytes between them. -/
def tPlan : State := { tCommand 1 tPlanE with mem := [(0x41C0, 7#8), (0x41C1, 0x12#8), (0x41C2, 2#8), (0x41C9, 0x50#8),
  (0x5000, 1#8), (0x5001, 2#8), (0x5002, 1#8), (0x5041, 0x51#8), (0x5050, 1#8), (0x5052, 1#8), (0x5054, 2#8), (0x5056, 1#8),
  (0x5081, 0x51#8), (0x5090, 1#8), (0x5092, 1#8), (0x5094, 2#8), (0x5096, 1#8), (0x50C1, 1#8), (0x50C2, 6#8), (0x50C3, 16#8), (0x50C4, 16#8), (0x50C6, 2#8),
  (0x5101, 0x10#8), (0x5109, 0x20#8), (0x5120, 1#8), (0x5121, 1#8), (0x100000, 0xF3#8)] }
/-- The same after the entry has been taken. -/
def tPlanTaken : State := { tPlan with
  rings := [{ tTaken 1 tPlanE with head := 8 }], skepin := tPlan.skepin
  mem := [(0x41C0, 7#8), (0x41C1, 0x12#8), (0x41C2, 2#8), (0x41C9, 0x50#8), (0x5000, 1#8), (0x5001, 2#8), (0x5002, 1#8), (0x5041, 0x51#8), (0x5050, 1#8), (0x5052, 1#8), (0x5054, 2#8), (0x5056, 1#8),
    (0x5081, 0x51#8), (0x5090, 1#8), (0x5092, 1#8), (0x5094, 2#8), (0x5096, 1#8), (0x50C1, 1#8), (0x50C2, 6#8), (0x50C3, 16#8), (0x50C4, 16#8), (0x50C6, 2#8),
    (0x5101, 0x10#8), (0x5109, 0x20#8), (0x5120, 1#8), (0x5121, 1#8), (0x6000, 8#8), (0x100000, 0xF3#8)] }
def tPlanHead : List Byte := [1, 2, 1] ++ List.replicate 61 0
def tPlanBody : List Byte := (List.range 160).map (NMap.get [(1, 0x51#8), (16, 1#8), (18, 1#8), (20, 2#8), (22, 1#8), (65, 0x51#8), (80, 1#8), (82, 1#8), (84, 2#8), (86, 1#8),
  (129, 1#8), (130, 6#8), (131, 16#8), (132, 16#8), (134, 2#8)])
def tStages : List PlanStage := (List.range 2).map fun i => parseStage ((tPlanBody.drop (64 * i)).take 64)
def tPipes : List (Pipe × Bool) := [parsePipe ((tPlanBody.drop 128).take 32)]
theorem meets_pipeline : let e := tEntryBytes 2 [(9, 0x50#8)]
    num e 8 8 % 128 = 0 ∧ num tPlanHead 1 1 = 2 ∧ num tPlanHead 2 1 = 1 ∧ num e 17 1 = 0 ∧ num e 33 1 = 0 ∧ num e 49 1 = 0 ∧ planCheck 0x5000 tPlanHead tStages tPipes = none
      ∧ (planCheck 0x5000 (2 :: tPlanHead.tail) tStages tPipes).isSome = true ∧ num tPlanHead 8 8 = 0
      ∧ (∀ i < 2, fitsWith (List.replicate (((tStages.map (·.wpc)).getD i 1) - 1) ([parseDesc tDescBytes, parseDesc tDescBytes].getD i Desc.zero).grant) ([parseDesc tDescBytes, parseDesc tDescBytes].getD i Desc.zero).grant = true) := by
  decide
theorem meets_pipeline_taken : tPlan.takeEntry 1 = tPlanTaken := by decide
theorem plan_table : pteKind 1 (tPlanTaken.readPte 0x100000) = .leaf 0xF3 := by decide
theorem flat_plan (va : Nat) (h : va < 2 ^ 20) : tPlanTaken.checkFlat 0 0 (BitVec.ofNat 64 va) 1 false = .ok (tLoc va) :=
  flat_of _ va ⟨0, 0, 0x100000, 0, none⟩ rfl plan_table rfl rfl rfl rfl h
theorem meets_pipeline_head : (tPlan.takeEntry 1).readVirtual 0 0x5000 64 = .ok tPlanHead := by
  rw [meets_pipeline_taken, readVirtual_of _ _ tLoc _ _ (fun i hi => flat_plan _ (by omega)) rfl]; exact ok_of (by decide)
theorem meets_pipeline_body : (tPlan.takeEntry 1).readVirtual 0 (0x5000 + 64) (64 * 2 + 32 * 1) = .ok tPlanBody := by
  rw [meets_pipeline_taken, readVirtual_of _ _ tLoc _ _ (fun i hi => flat_plan _ (by omega)) rfl]; exact ok_of (by decide)
def tPlanCached (c : List (Nat × Nat × List Byte)) : State := { tPlanTaken with descCache := c }
theorem plan_desc (c : List (Nat × Nat × List Byte)) : (tPlanCached c).readVirtual 0 0x5100 128 = .ok tDescBytes :=
  (readVirtual_of (tPlanCached c) 0 tLoc 128 0x5100 (fun _ _ => flat_of _ _ ⟨0, 0, 0x100000, 0, none⟩ rfl plan_table rfl rfl rfl rfl (by omega)) rfl).trans
    (show Except.ok ((List.range 128).map fun i => tPlanTaken.homeByte (tLoc (0x5100 + i)).key) = _ from ok_of (by decide))
theorem readDesc_new (s : State) (ctx addr : Nat) (b : List Byte) (h : s.readVirtual ctx addr 128 = .ok b) (hc : s.descCache = []) :
    s.readDesc ctx addr = (.ok b, { s with descCache := [(ctx, addr, b)] }) := by
  unfold State.readDesc; rw [h]; simp [hc]
theorem readDesc_again (s : State) (ctx addr : Nat) (b : List Byte) (h : s.readVirtual ctx addr 128 = .ok b) (hc : s.descCache = [(ctx, addr, b)]) : s.readDesc ctx addr = (.ok b, s) := by
  unfold State.readDesc; rw [h]; simp [hc]
theorem plan_first : (tPlanCached []).readDesc 0 0x5100 = (.ok tDescBytes, tPlanCached [(0, 0x5100, tDescBytes)]) := readDesc_new _ _ _ _ (plan_desc []) rfl
theorem plan_again : (tPlanCached [(0, 0x5100, tDescBytes)]).readDesc 0 0x5100 = (.ok tDescBytes, tPlanCached [(0, 0x5100, tDescBytes)]) := readDesc_again _ _ _ _ (plan_desc _) rfl
theorem plan_good : descCheck tDescBytes (parseDesc tDescBytes) (1, 1, 1) = none := by decide
theorem plan_stages (x y : Nat × PlanStage) (hx : x.2.desc = 0x5100) (hy : y.2.desc = 0x5100) :
    ∃ s2, (tPlanCached []).stageDescs 0 [x, y] = (.ok [parseDesc tDescBytes, parseDesc tDescBytes], s2) := by
  simp only [State.stageDescs, hx, hy, plan_first, plan_again, plan_good, Except.map]
  exact ⟨_, rfl⟩
theorem meets_pipeline_descs : ∃ s2, (tPlan.takeEntry 1).stageDescs 0 (withIndex tStages) = (.ok [parseDesc tDescBytes, parseDesc tDescBytes], s2) := by
  rw [meets_pipeline_taken]
  exact plan_stages (0, parseStage (tPlanBody.take 64)) (1, parseStage ((tPlanBody.drop 64).take 64)) (by decide) (by decide)

theorem meets_placement : let l : Launch := { tLaunch with dies := [3] }
    let s : State := { tBase with pod := Pod.empty, wg := Wg.empty, core := Core.fresh 0, launches := [l] }
    s.launches = [l] ∧ s.pipelines = [] ∧ s.rings = [] ∧ s.allWgs = [] ∧ s.allPods = [] ∧ s.core.ctx = none ∧ s.cores = [] ∧ s.seedPods = [] ∧ l.pipeline = none ∧ l.whole = false ∧ l.done = false ∧ l.ending = false
      ∧ l.cls < 4 ∧ l.ring < 256 ∧ l.next < l.gx * l.gy * l.gz ∧ fitsWith [] l.d.grant = true ∧ l.dies ≠ [] ∧ 3 = l.dies.getD (l.next % l.dies.length) 0
      ∧ ({ s with launches := [] } : State).launches = [] := by decide
theorem meets_preempt : let e : JEntry := ⟨15, List.replicate 256 1, 0, []⟩
    let s : State := { tBase with pod := { tPod with coat := some tCoat }, wg := { tWg with stopReq := true, journal := [e] } }
    let q : Publication := { id := 4, core := 0, parts := [tPart .sending] }
    s.pods = [] ∧ s.wgs = [] ∧ s.cores = [] ∧ s.homes = [] ∧ s.pipelines = [] ∧ s.wg.id ≠ 0 ∧ s.pod.live = true ∧ s.pod.key.wg = s.wg.id ∧ s.wg.core = s.core.n ∧ s.wg.resident = true
      ∧ s.wg.stopReq = true ∧ s.pod.coat = some tCoat ∧ s.pod.exited = false ∧ s.pod.halted = false ∧ s.pod.dying = false ∧ s.pod.sTxn.outstanding = 0 ∧ s.pod.lTxn.outstanding = 0 ∧ s.core.steps = []
      ∧ s.core.jobs = [] ∧ s.core.slotQueue = [] ∧ s.core.dirtyLines = [] ∧ s.wg.journal = [e] ∧ s.wg.saving = false ∧ q.core = s.core.n ∧ s.pubs = [] ∧ s.pod.s.wf = true ∧ s.pod.k.wf = true ∧ State.reset.allWgs = [] := by decide
def tBal (r b x : Nat) : State :=
  let q := tPipe [tSlot] false
  let s := tPl 0 q
  { s with pod := { tPod with residentC := r, blockedC := b, starvedC := x }, cycle := 4096,
           pipelines := s.pipelines.map fun l => { l with stages := [{ tStage 1 with cores := [0, 1] }, tStage 2] } }
theorem meets_balancer : ∃ p g h, (tBal 100 10 50).pipelines = [p] ∧ p.balancer = true ∧ 4096 ≤ ((tBal 100 10 50).cycle - p.interval).toNat ∧ p.move = none ∧ p.state = .running ∧ p.stages = [g, h]
    ∧ p.pipes = [tPipe [tSlot] false] ∧ (tBal 100 10 50).stageCycles g = (100, 10, 50) ∧ (tBal 100 10 50).stageCycles h = (0, 0, 0) ∧ g.min < g.cores.length ∧ g.cores.getLast? = some 1
    ∧ h.cores.length < h.max ∧ (g.finishing || g.done || h.finishing || h.done) = false ∧ (tPipe [tSlot] false).consumer = 1 ∧ (tPipe [tSlot] false).slots ≠ []
    ∧ (({ tBal 100 10 50 with cycle := 4095 } : State).cycle - p.interval).toNat < 4096 := by
  refine ⟨_, _, _, rfl, rfl, by decide, rfl, rfl, rfl, rfl, by decide, by decide, by decide, rfl, by decide, by decide, rfl, by decide, by decide⟩
theorem meets_deadlock : let s : State := { tPl 0 (tPipe [tSlot, tSlot] false) with pod := { tPod with held := .pushFull 0 }, cycle := 65536 }
    ∃ p, s.pipelines = [p] ∧ 65536 ≤ (s.cycle - p.quiet).toNat ∧ p.state = .running ∧ s.pods = [] ∧ s.wgs = [] ∧ s.wg.id ≠ 0 ∧ s.pod.live = true ∧ s.pod.key.wg = s.wg.id ∧ s.wg.resident = true
      ∧ (∃ g ∈ p.stages, g.launch = s.wg.launch) ∧ s.pod.exited = false ∧ s.pod.held = .pushFull 0 ∧ 0 < p.pipes.length ∧ s.core.fills = [] ∧ s.cores = [] ∧ s.homes = [] ∧ s.proxies = [] ∧ s.inflight = [] ∧ (({ s with cycle := 65535 } : State).cycle - p.quiet).toNat < 65536 := by
  refine ⟨_, rfl, by decide, rfl, rfl, rfl, by decide, rfl, rfl, rfl, ⟨tStage 1, by decide, rfl⟩, rfl, rfl, by decide, by decide⟩
def tSpillPipe : Pipe := { tPipe [⟨[7], []⟩] false with spill := some 0x8000 }
def tSpill : State :=
  { tPl 0 tSpillPipe with wg := Wg.empty, pod := Pod.empty, pipelines := (tPl 0 tSpillPipe).pipelines.map fun l => { l with state := .draining, pushWait := [0] } }
theorem meets_spill : ∃ p u, tSpill.pipelines = [p] ∧ p.state = .draining ∧ tSpill.stagePods p = [] ∧ p.pushWait = [0] ∧ p.pipes[0]? = some tSpillPipe ∧ tSpillPipe.spill = some 0x8000
    ∧ tSpillPipe.slots = ⟨[7], []⟩ :: [] ∧ tSpillPipe.spilled < tSpillPipe.depth ∧ tSpill.virtualWaits p.ctx (0x8000 + tSpillPipe.spills % tSpillPipe.depth * tSpillPipe.slotSize) tSpillPipe.slotSize true = false
    ∧ tSpill.writeTile p.ctx (0x8000 + tSpillPipe.spills % tSpillPipe.depth * tSpillPipe.slotSize) ⟨[7], []⟩ = (none, u) :=
  ⟨_, _, rfl, rfl, by decide, rfl, rfl, rfl, rfl, by decide, by decide, rfl⟩

/-! ## Hypotheses met: other devices, the host, Skepin -/

def withPeer (p : Peer) : State := { tBase with peers := [p], hasDev := true }
def tRequest (w : Waiter) : Request := { seq := 3, op := .read 0xA0, who := w, sent := 0, tries := 8, plane := 15 }
theorem meets_link : (withPeer (Peer.fresh 511)).peers = [Peer.fresh 511] ∧ (Peer.fresh 511).dev = (511 : Fin 512).val ∧ (withPeer (Peer.fresh 511)).hasDev = true ∧ (withPeer (Peer.fresh 511)).skepin.pwr = .p0
    ∧ (withPeer (Peer.fresh 511)).homeIdle 0xA0 = true ∧ poisoned (withPeer (Peer.fresh 511)).poison (0xA0 * 128) 128 = false ∧ (Peer.fresh 511).early = []
    ∧ ((0xFFFF : Half16) - (Peer.fresh 511).expect).toInt < 0 ∧ 0 < ((0x7FFF : Half16) - (Peer.fresh 511).expect).toInt := by decide
theorem meets_acks : let p : Peer := { Peer.fresh 511 with out := [tRequest (.pod ⟨5, 0⟩ .s 31)] }
    let s : State := { withPeer p with cycle := 5400000 }
    p.out = [tRequest (.pod s.pod.key .s 31)] ∧ ([1] : List Byte) ≠ [] ∧ (tRequest (.fill 0 7)).who = .fill s.core.n 7 ∧ (tRequest .none).tries ≠ 0 ∧ (tRequest .none).op = .read 0xA0 ∧ s.pod.live = true ∧ (4 : Half16) ≠ (tRequest .none).seq ∧ p.unreachable = false
      ∧ 5400000 ≤ (s.cycle - (tRequest .none).sent).toNat ∧ (({ s with cycle := 5399999 } : State).cycle - (tRequest .none).sent).toNat < 5400000 ∧ 8 ≤ (tRequest .none).tries
      ∧ ({ tRequest .none with tries := 7 } : Request).tries < 8 ∧ s.sets = [] ∧ s.xfers = [] ∧ s.pipelines = [] ∧ s.incast = [] := by decide
theorem meets_ports : (∃ i < 16, i ≠ (15 : Fin 16).val ∧ (Peer.fresh 511).up.getLsbD i = true) ∧ (Peer.fresh 511).out = [] ∧ (withPeer (Peer.fresh 511)).hawk = [] ∧ (withPeer (Peer.fresh 511)).wet = [] :=
  ⟨⟨0, by decide⟩, by decide⟩
theorem meets_packet : let x : XPacket := ⟨511, 0, [(0x507C, false, [1, 2, 3, 4])], 0, 1016⟩
    x.runs = [(0x507C, false, [1, 2, 3, 4])] ∧ 0x507C % 128 + 4 ≤ 128 ∧ tBase.proxies = [] ∧ tBase.wgs = [] ∧ tBase.wg.id ≠ 0 ∧ tBase.wg.resident = true ∧ tBase.wg.core = x.core
      ∧ tBase.ctxs = [⟨0, 0, 0x100000, 0, none⟩] ∧ tBase.wg.ctx = 0 ∧ x.counter + 8 ≤ tBase.wg.grant.scratch ∧ tBase.wg.objects = [] := by decide
def tBridge (e : BridgeEnd) : Bridge := { side := e, peer := 511, tag := 9, isOpen := false, since := 0, credits := 0, closed := false }
theorem meets_bridge : let b := { tBridge .out with isOpen := true }
    let p : Pipe := { tPipe [] false with bridge := some b }
    ∃ l, (tPl 0 p).OneBridge l p b 511 9 ∧ b.isOpen = true ∧ b.closed = false ∧ p.slots = [] ∧ p.spilled = 0 ∧ p.closed = false ∧ (tBridge .inn).side = .inn ∧ (tBridge .out).isOpen = false
      ∧ (tPipe [] true).closed = true ∧ (0 : Fin 512).val = (tPl 0 p).dev :=
  ⟨_, ⟨⟨rfl, rfl, rfl, rfl, rfl⟩, rfl, rfl, rfl⟩, by decide⟩
theorem meets_bridge_timeout : let s : State := { tPl 0 (tPipe [] false) with cycle := 54000000, launches := [], wg := Wg.empty, pipelines := (tPl 0 (tPipe [] false)).pipelines.map fun l => { l with stages := [] } }
    54000000 ≤ (s.cycle - (tBridge .inn).since).toNat ∧ (({ s with cycle := 53999999 } : State).cycle - (tBridge .inn).since).toNat < 54000000
      ∧ s.jobs = [⟨3, 0, 0, true, 0, 1, false, 1, 0, false, false, none⟩] ∧ s.xfers = [] ∧ s.allWgs = [] ∧ s.hasDev = false ∧ s.endings = [] ∧ s.pubs = [] ∧ s.peers = [] ∧ s.hostPending = 0 ∧ s.launches = [] ∧ (tBridge .inn).isOpen = false
      ∧ (∀ l ∈ s.pipelines, l.job = 3 ∧ l.record = 0 ∧ l.msix = false ∧ l.stages = []) := by decide
theorem meets_held_open : tBase.pipelines = [] ∧ (⟨511, 9, .inn, 3, 0⟩ : HeldOpen).peer = (511 : Fin 512).val ∧ (⟨511, 9, .inn, 3, 0⟩ : HeldOpen).tag = (9 : W32).toNat := by decide
theorem meets_host : tBase.skepin.pwr ≠ .idle ∧ Config.hostBase ≤ Config.hostBase + 120 ∧ Config.hostBase + 120 + [1#8, 2#8].length ≤ 2 ^ 52 ∧ [1#8, 2#8] ≠ [] ∧ tBase.homes = [] ∧ tBase.proxies = [] ∧ Config.hostBase - 8 + 8 ≤ Config.hostBase ∧ lineHost (Config.hostBase / 128) = true ∧ lineHost (Config.hostBase / 128 - 1) = false
    ∧ tBase.core.distinctLines ∧ tBase.ctxs = [⟨0, 0, 0x100000, 0, none⟩] ∧ ({ tWg with resident := false } : Wg).resident = false := by unfold Core.distinctLines; decide
theorem meets_debugger : let s : State := { tBase with pod := { tPod with halted := true }, skepin := { tBase.skepin with dbg := .halt } }
    s.pod.live = true ∧ s.skepin.dbg = .halt ∧ s.skepin.pwr ≠ .idle ∧ s.pod.halted = true ∧ s.pod.inHandler = false ∧ tBase.skepin.dbg ≠ .halt := by decide
theorem meets_soft_error : let s : State := { tBase with core := { tBase.core with l1 := [⟨0xA0, true, [(33, 1)], []⟩] } }
    (288 * (4 * 0xA0 + 1)) % 288 = s.core.n ∧ (∃ off < 128, off / 32 = (4 * 0xA0 + 1) % 4 ∧ (s.core.byteOf ((4 * 0xA0 + 1) / 4) off).isSome) ∧ tBase.core.byteOf 0xA0 33 = none ∧ (5 : Nat) * 32 < 2 ^ 52 ∧ 2 ^ 52 ≤ 2 ^ 47 * 32
      ∧ s.wgs = [] ∧ s.wg.id ≠ 0 ∧ s.wg.resident = true ∧ s.wg.core = 31 / 32768 ∧ 31 % 32768 = s.wg.base / 32 + 31 ∧ s.wg.base % 32 = 0 ∧ 32 * 31 + 32 ≤ s.wg.grant.scratch := by decide
def withSkepin (k : Skepin) : State := { State.reset with skepin := k }
def tUp : Skepin := { Skepin.reset with stage := 6, counts := List.replicate 19 0 }
theorem meets_mailbox : (withSkepin tUp).skepin.pwr ≠ .off ∧ tUp.recovery = false ∧ 6 ≤ tUp.stage ∧ tUp.failed = false ∧ tUp.counts.length = 19 ∧ (List.replicate 45 (0 : W32)).length = 45 ∧ 31 < (32 : Byte).toNat ∧ (31 : Byte).toNat ≤ 31
    ∧ ({ tUp with recovery := true } : Skepin).recovery = true ∧ (⟨1, 2, true, true, true⟩ : ImageHeader).lengthOk = true ∧ (⟨1, 2, true, true, true⟩ : ImageHeader).svn < ({ tUp with fuse := 3 } : Skepin).fuse
    ∧ tUp.fuse ≤ (⟨1, 2, true, true, true⟩ : ImageHeader).svn ∧ 2 < (3 : Byte).toNat ∧ tUp.pwr = .p0 ∧ ({ tUp with sec := .ownerOpen } : Skepin).sec ≠ .sealed ∧ ({ tUp with sec := .sealed } : Skepin).sec ≠ .factory
    ∧ tUp.sec = .factory ∧ ({ tUp with spdm := 1 } : Skepin).spdm ≠ 0 := by decide
theorem meets_power : let k := { tUp with verified := true }
    k.pwr ≠ .off ∧ k.verified = true ∧ ({ k with pwr := .off } : Skepin).pwr = .off ∧ Skepin.reset.rising = true ∧ ({ Skepin.reset with stage := 7 } : Skepin).rising = false ∧ ({ k with pwr := .p1 } : Skepin).pwr = .p1
      ∧ 18000000 ≤ ((18000000 : W64) - k.p1Since).toNat ∧ ((17999999 : W64) - k.p1Since).toNat < 18000000 ∧ ({ k with pwr := .idle } : Skepin).pwr = .idle ∧ State.reset.mem.wf = true := by decide
theorem meets_idle : let k := { tUp with idleOk := true, ready := true }
    let s : State := { withSkepin k with cycle := 270000 }
    k.idleOk = true ∧ s.quiet = true ∧ 270000 ≤ (s.cycle - k.idleSince).toNat ∧ k.pwr = .p0 ∧ k.ready = true ∧ tUp.idleOk = false ∧ (({ s with cycle := 269999 } : State).cycle - k.idleSince).toNat < 270000 := by decide

/-! ## Hypotheses met: the step -/

/-- A SADD at the pod's place. -/
def tFetch : State := { tBase with turn := .pods, mem := [(0x1001, 0x24#8), (0x1002, 0x31#8), (0x1003, 0x04#8), (0x100000, 0xF3#8)] }
theorem meets_fetch : tFetch.core.tlb = [] ∧ tFetch.clusterTlb = [] ∧ tFetch.walkBusy 0 0 tFetch.pod.pc.toNat = false ∧ tFetch.core.l1 = [] ∧ tFetch.core.stash = [] ∧ lineRemote (tLoc 0x1000).line = false ∧ tFetch.homeIdle (tLoc 0x1000).line = true ∧ tFetch.pod.pc.toNat % 4 = 0
    ∧ tFetch.pod.pc.toNat + 8 ≤ 2 ^ 54 ∧ tFetch.locate 0 0 tFetch.pod.pc.toNat = some (tLoc 0x1000) ∧ leafSx (tLoc 0x1000).leaf = true ∧ leafLx (tLoc 0x1000).leaf = true ∧ (tLoc 0x1000).key % 128 ≤ 116
    ∧ poisoned tFetch.poison (tLoc 0x1000).key 8 = false ∧ decodeS (leValue (tFetch.homeBytes 0x1000 4)) 0 = some (.sadd 3 4 36) := by decide
theorem meets_issue : ∃ v x, let u : State := { tFetch.tick with turn := .inputs }
    let f := (u.focusOn ⟨5, 0⟩).trimmed.timed
    f.fetchS = .word v 0x04312400 0 ∧ exec (.sadd 3 4 36) v = .next x ∧ tFetch.turn = .pods ∧ u.pick = some ⟨5, 0⟩ ∧ f.pod.queue = [] ∧ decodeS 0x04312400 0 = some (.sadd 3 4 36)
      ∧ v.pod.spanFull = false ∧ v.conflicts (.sadd 3 4 36) = false ∧ v.pod.pending = [] ∧ x.pod.live = true :=
  ⟨_, _, rfl, rfl, rfl, rfl, rfl, by decide, rfl, rfl, rfl, rfl⟩
theorem meets_lane_turn : ∃ v x, let s : State := { tFetch with pod := { tPod with queue := [⟨0, [], 0, 0, 0⟩] }, mem := [(0x200B, 0xFC#8), (0x100000, 0xF3#8)] }
    let f := (({ s.tick with turn := .inputs } : State).focusOn ⟨5, 0⟩).trimmed.timed
    f.fetchL (f.lAddr f.block.word).toNat = .word v (0x3F0 * 2 ^ 86) 0 ∧ exec (.lend false) v = .next x ∧ f.laneTurn = true ∧ v.pod.spanFull = false ∧ decodeL (0x3F0 * 2 ^ 86) = some (.lend false) :=
  ⟨_, _, rfl, rfl, rfl, rfl, by decide⟩
theorem meets_inputs : let s : State := { tBase with agenda := [.doorbell 255 8, .admCfgWrite 0], inflight := [.placementDecision], turn := .inputs }
    s.turn = .inputs ∧ s.agenda = .doorbell 255 8 :: [.admCfgWrite 0] ∧ s.admitted (.doorbell 255 8) = true ∧ s.admitted .placementDecision = false
      ∧ ({ s with turn := .agents } : State).inflight ≠ [] ∧ s.nextMsg = some (.placementDecision, { s with inflight := [], classTurn := ((Msg.placementDecision).cls + 1) % 5 }) ∧ s.due = none ∧
      ({ s with cycle := 18000000, skepin := { s.skepin with pwr := .p1 } } : State).due = some .p1Exit ∧ (s.skepin.pwr = .p0 ∧ s.pipelines = [] ∧ s.skepin.idleOk = false ∧ ∀ l ∈ s.launches, l.pipeline = none) := by decide
theorem meets_invariants : State.reset.mem.wf = true ∧ State.reset.skepin.stage ≤ 7 ∧ ({ Skepin.reset with sec := .sealed } : Skepin).sec ≠ .factory := by decide

/-! ## Decoding: one word of every program instruction, written out from the encoding tables of the spec -/

/-- R98: arithmetic and logic of major 0x01 -/
theorem test_decode_scalar_arithmetic :
    decodeTableWord 32 0x06558B00 = some (.sadd 37 22 11)
    ∧ decodeTableWord 32 0x06558B01 = some (.ssub 37 22 11)
    ∧ decodeTableWord 32 0x06558B02 = some (.smul 37 22 11)
    ∧ decodeTableWord 32 0x06558B03 = some (.smulh 37 22 11)
    ∧ decodeTableWord 32 0x06558B04 = some (.smulhN 37 22 11)
    ∧ decodeTableWord 32 0x06558B05 = some (.sdiv 37 22 11)
    ∧ decodeTableWord 32 0x06558B06 = some (.sdivN 37 22 11)
    ∧ decodeTableWord 32 0x06558B07 = some (.srem 37 22 11)
    ∧ decodeTableWord 32 0x06558B08 = some (.sremN 37 22 11)
    ∧ decodeTableWord 32 0x06558B09 = some (.smin 37 22 11)
    ∧ decodeTableWord 32 0x06558B0A = some (.sminN 37 22 11)
    ∧ decodeTableWord 32 0x06558B0B = some (.smax 37 22 11)
    ∧ decodeTableWord 32 0x06558B0C = some (.smaxN 37 22 11)
    ∧ decodeTableWord 32 0x06558B10 = some (.sand 37 22 11)
    ∧ decodeTableWord 32 0x06558B11 = some (.sor 37 22 11)
    ∧ decodeTableWord 32 0x06558B12 = some (.sxor 37 22 11)
    ∧ decodeTableWord 32 0x06558B13 = some (.sshl 37 22 11)
    ∧ decodeTableWord 32 0x06558B14 = some (.sshr 37 22 11)
    ∧ decodeTableWord 32 0x06558B15 = some (.ssra 37 22 11)
    ∧ decodeTableWord 32 0x06558B16 = some (.srot 37 22 11)
    ∧ decodeTableWord 32 0x06558017 = some (.sclz 37 22)
    ∧ decodeTableWord 32 0x06558018 = some (.spopc 37 22) := by decide

/-- R98: the rest of major 0x01 -/
theorem test_decode_scalar_compares :
    decodeTableWord 32 0x06558019 = some (.sextI8 37 22)
    ∧ decodeTableWord 32 0x0655801A = some (.sextI16 37 22)
    ∧ decodeTableWord 32 0x0655801B = some (.sextI32 37 22)
    ∧ decodeTableWord 32 0x06558B22 = some (.slea 37 22 11 2)
    ∧ decodeTableWord 32 0x06558B28 = some (.scmpEq 37 22 11)
    ∧ decodeTableWord 32 0x06558B29 = some (.scmpNe 37 22 11)
    ∧ decodeTableWord 32 0x06558B2A = some (.scmpLt 37 22 11)
    ∧ decodeTableWord 32 0x06558B2B = some (.scmpLe 37 22 11)
    ∧ decodeTableWord 32 0x06558B2C = some (.scmpGt 37 22 11)
    ∧ decodeTableWord 32 0x06558B2D = some (.scmpGe 37 22 11)
    ∧ decodeTableWord 32 0x06558B2E = some (.scmpLtN 37 22 11)
    ∧ decodeTableWord 32 0x06558B2F = some (.scmpLeN 37 22 11)
    ∧ decodeTableWord 32 0x06558B30 = some (.scmpGtN 37 22 11)
    ∧ decodeTableWord 32 0x06558B31 = some (.scmpGeN 37 22 11)
    ∧ decodeTableWord 32 0x06558B38 = some (.ssel 37 22 11) := by decide

/-- R78, R97: immediates, bit fields, loads and stores -/
theorem test_decode_scalar_immediates :
    decodeTableWord 32 0x0A55AA5B = some (.saddImm 37 22 10843)
    ∧ decodeTableWord 32 0x0E55AA5B = some (.sandImm 37 22 10843)
    ∧ decodeTableWord 32 0x1255AA5B = some (.sorImm 37 22 10843)
    ∧ decodeTableWord 32 0x1655AA5B = some (.sxorImm 37 22 10843)
    ∧ decodeTableWord 32 0x1A55800B = some (.sshlImm 37 22 11)
    ∧ decodeTableWord 32 0x1A55900B = some (.sshrImm 37 22 11)
    ∧ decodeTableWord 32 0x1A55A00B = some (.ssraImm 37 22 11)
    ∧ decodeTableWord 32 0x1A55B00B = some (.srotImm 37 22 11)
    ∧ decodeTableWord 32 0x1E559A14 = some (.sbfx 37 22 true 40 20)
    ∧ decodeTableWord 32 0x1E55AA14 = some (.sbfi 37 22 40 20)
    ∧ decodeTableWord 32 0x22502A5B = some (.sli 37 10843)
    ∧ decodeTableWord 32 0x42559DA3 = some (.sld 37 22 1 true 1443)
    ∧ decodeTableWord 32 0x4655A5A3 = some (.sst 37 22 2 1443)
    ∧ decodeTableWord 32 0x4A559DA3 = some (.sldk 37 22 1 true 1443)
    ∧ decodeTableWord 32 0x4E559DA3 = some (.slds 37 22 1 true 1443)
    ∧ decodeTableWord 32 0x5255A5A3 = some (.ssts 37 22 2 1443) := by decide

/-- R97: branches and LGO -/
theorem test_decode_branches :
    decodeTableWord 32 0x82345678 = some (.br 36984440)
    ∧ decodeTableWord 32 0x86345678 = some (.call 36984440)
    ∧ decodeTableWord 32 0x8A59ABCD = some (.bz 37 633805)
    ∧ decodeTableWord 32 0x8E59ABCD = some (.bnz 37 633805)
    ∧ decodeTableWord 32 0x9099ABCD = some (.bany 9 633805)
    ∧ decodeTableWord 32 0x9499ABCD = some (.ball 9 633805)
    ∧ decodeTableWord 32 0x9899ABCD = some (.bnone 9 633805)
    ∧ decodeTableWord 32 0x9C095600 = some (.brx 37 22)
    ∧ decodeTableWord 32 0x9C094001 = some (.ret 37)
    ∧ decodeTableWord 32 0xA2345678 = some (.lgo 36984440) := by decide

/-- R80, R99: majors 0x29, 0x3E and 0x3F -/
theorem test_decode_predicates_and_system :
    decodeTableWord 32 0xA4918000 = some (.kmovKK 9 6)
    ∧ decodeTableWord 32 0xA4958001 = some (.kmovKS 9 22)
    ∧ decodeTableWord 32 0xA6518002 = some (.kmovSK 37 6)
    ∧ decodeTableWord 32 0xA4918D03 = some (.kand 9 6 13)
    ∧ decodeTableWord 32 0xA4918D04 = some (.kor 9 6 13)
    ∧ decodeTableWord 32 0xA4918D05 = some (.kxor 9 6 13)
    ∧ decodeTableWord 32 0xA4918006 = some (.knot 9 6)
    ∧ decodeTableWord 32 0xA6518007 = some (.kpop 37 6)
    ∧ decodeTableWord 32 0xA6518008 = some (.kfirst 37 6)
    ∧ decodeTableWord 32 0xF80000C5 = some (.trap 197)
    ∧ decodeTableWord 32 0xF80020C5 = some (.brk 197)
    ∧ decodeTableWord 32 0xFC000000 = some (.nop)
    ∧ decodeTableWord 32 0xFC000001 = some (.lwait)
    ∧ decodeTableWord 32 0xFC000002 = some (.exit)
    ∧ decodeTableWord 32 0xFE501B03 = some (.srd 37 .tmask)
    ∧ decodeTableWord 32 0xFC095004 = some (.swr 37 .fsr)
    ∧ decodeTableWord 32 0xFC095605 = some (.sten 37 22) := by decide

/-- R138, R213 to R215, R246: the short words of majors 0x31 to 0x34 -/
theorem test_decode_tiles_layouts_barriers :
    decodeTableWord 32 0xCA558B01 = some (.laydef 37 22 11 true)
    ∧ decodeTableWord 32 0xCA558B11 = some (.layq 37 22 11 true)
    ∧ decodeTableWord 32 0xC409532D = some (.tmovToV 37 19 13)
    ∧ decodeTableWord 32 0xC409732D = some (.tmovToTile 37 19 13)
    ∧ decodeTableWord 32 0xC4001330 = some (.tzero 19)
    ∧ decodeTableWord 32 0xC4058243 = some (.aclr 150 3)
    ∧ decodeTableWord 32 0xC405B37A = some (.atot 22 true 19 2 true)
    ∧ decodeTableWord 32 0xC6558281 = some (.alg 37 22 2 true)
    ∧ decodeTableWord 32 0xCC000000 = some (.wgsync)
    ∧ decodeTableWord 32 0xCE558B10 = some (.binit 37 22 11)
    ∧ decodeTableWord 32 0xCC095620 = some (.barr 37 22)
    ∧ decodeTableWord 32 0xCC095630 = some (.barrx 37 22)
    ∧ decodeTableWord 32 0xCC095640 = some (.bwait 37 22)
    ∧ decodeTableWord 32 0xCE558B51 = some (.btest 37 22 11 true)
    ∧ decodeTableWord 32 0xD0095603 = some (.tktake 37 22 true)
    ∧ decodeTableWord 32 0xD0095613 = some (.tkwait 37 22 true)
    ∧ decodeTableWord 32 0xD0094023 = some (.tkserve 37 true) := by decide

/-- R246, R319, R320, R329, R370, R384, R443: the short words of majors 0x35 to 0x3B -/
theorem test_decode_pipes_phases_engine_far :
    decodeTableWord 32 0xD4000920 = some (.pclose 9)
    ∧ decodeTableWord 32 0xD6500630 = some (.pstat 37 6)
    ∧ decodeTableWord 32 0xD6500040 = some (.pyield 37)
    ∧ decodeTableWord 32 0xDA584D00 = some (.seed 37 33 13)
    ∧ decodeTableWord 32 0xDA500011 = some (.cancel 37 .pipe)
    ∧ decodeTableWord 32 0xDC000009 = some (.phase .rel .wg)
    ∧ decodeTableWord 32 0xDC000019 = some (.pfence .tile .constant)
    ∧ decodeTableWord 32 0xDE500041 = some (.daubq 37 true)
    ∧ decodeTableWord 32 0xE6558B21 = some (.rflush 37 22 11 true)
    ∧ decodeTableWord 32 0xE6558B31 = some (.rinval 37 22 11 true)
    ∧ decodeTableWord 32 0xE6558B41 = some (.rdisc 37 22 11 true)
    ∧ decodeTableWord 32 0xE4095650 = some (.feset 37 22)
    ∧ decodeTableWord 32 0xE4095660 = some (.feclr 37 22)
    ∧ decodeTableWord 32 0xE8000011 = some (.tret true)
    ∧ decodeTableWord 32 0xEC095610 = some (.xwait 37 22)
    ∧ decodeTableWord 32 0xEE501620 = some (.set 37 22)
    ∧ decodeTableWord 32 0xEE501630 = some (.scrape 37 22)
    ∧ decodeTableWord 32 0xEE558B40 = some (.waita 37 22 11) := by decide

/-- R79, R100, R193, R207, R213, R246, R323, R325, R338, R358, R382, R443: the words with an extension word; those of SATOM, PPUSH, PPOP, ADDST, REDX, SST.rel, COAT and XSEND are the worked encodings of the spec -/
theorem test_decode_long_words :
    decodeTableWord 64 (0x26500000 + 0x89ABCDEF * 2 ^ 32) = some (.sli32 37 0x89ABCDEF)
    ∧ decodeTableWord 64 (0x2A500000 + 0x89ABCDEF * 2 ^ 32) = some (.slui 37 0x89ABCDEF)
    ∧ decodeTableWord 64 (0x5492A805 + 0x38000000 * 2 ^ 32) = some (.sldAcq 9 10 2 true 5 .sys)
    ∧ decodeTableWord 64 (0x5492A000 + 0xD0000000 * 2 ^ 32) = some (.sstRel 9 10 2 0 .dev)
    ∧ decodeTableWord 64 (0xC1414005 + 0x071260D0 * 2 ^ 32) = some (.mma ⟨20, 5, 0, false, true, false, true, 7, 2, 9, .mx8, .ty .e5m2, 0, false, false, 0⟩)
    ∧ decodeTableWord 64 (0xC1414012 + 0xC8191718 * 2 ^ 32) = some (.mmaw ⟨20, 5, 0, false, false, true, false, 200, 3, 4, .ty .bf16, .w4, 2, false, false, 0⟩)
    ∧ decodeTableWord 64 (0xC1414228 + 0x84F7D4AB * 2 ^ 32) = some (.mmag ⟨20, 5, 2, true, false, false, false, 132, 30, 31, .ty .f16, .ty .f16, 0, true, false, 3⟩)
    ∧ decodeTableWord 64 (0xC6558000 + 0x009DA000 * 2 ^ 32) = some (.tld 37 22 19 45)
    ∧ decodeTableWord 64 (0xC6558010 + 0x009DA000 * 2 ^ 32) = some (.tst 37 22 19 45)
    ∧ decodeTableWord 64 (0xC6558050 + 0xC805A000 * 2 ^ 32) = some (.ald 37 22 200 45)
    ∧ decodeTableWord 64 (0xC6558B60 + 0xC805A000 * 2 ^ 32) = some (.astore 37 22 11 200 45)
    ∧ decodeTableWord 64 (0xD4500000 + 0x12000000 * 2 ^ 32) = some (.ppush 5 1 (.tile 4))
    ∧ decodeTableWord 64 (0xD4500010 + 0x02000000 * 2 ^ 32) = some (.ppop 5 0 (.tile 4))
    ∧ decodeTableWord 64 (0xD4558001 + 0xD05A0000 * 2 ^ 32) = some (.ppush 5 13 (.box 22 45))
    ∧ decodeTableWord 64 (0xDC05152A + 0x1C006000 * 2 ^ 32) = some (.satom ⟨20, 21, .rel, .dev, 7, 0, .add, .n64, false⟩)
    ∧ decodeTableWord 64 (0xDC320530 + 0x08008000 * 2 ^ 32) = some (.addst 3 8 5 8 4 false)
    ∧ decodeTableWord 64 (0xE0228B00 + 0x30140000 * 2 ^ 32) = some (.redx 2 10 11 12 5)
    ∧ decodeTableWord 64 (0xE5428B03 + 0xA0000000 * 2 ^ 32) = some (.tcopy ⟨20, 10, 11, true, true, .dev, true⟩)
    ∧ decodeTableWord 64 (0xE5428514 + 0x071254A0 * 2 ^ 32) = some (.tcopym ⟨20, 10, 5, true, false, false, 7, 2, 9, .ty .f16, .ty .f16⟩)
    ∧ decodeTableWord 64 (0xE8014000 + 0x04040003 * 2 ^ 32) = some (.coat 5 8 8 3)
    ∧ decodeTableWord 64 (0xEC228C00 + 0x38000000 * 2 ^ 32) = some (.xsend 2 10 12 14) := by decide

/-- R82 to R88, R101: the integer and logic words -/
theorem test_decode_lane_integers :
    decodeTableWord 96 0x005542804913000049000000 =
      some (.iadd ⟨true, false, true, 5, .v 40, .v 18, .q 3, .v 0, .i32, .rn, true, 1, 1, 0x0⟩)
    ∧ decodeTableWord 96 0x009542804BF7001009000000 =
      some (.isub ⟨true, false, true, 5, .v 40, .v 18, .imm (-9), .v 0, .i16, .rn, false, 1, 1, 0x0⟩)
    ∧ decodeTableWord 96 0x00D542804A02000409000000 =
      some (.imul ⟨true, false, true, 5, .v 40, .v 18, .b 2, .v 0, .n32, .rn, false, 1, 1, 0x0⟩)
    ∧ decodeTableWord 96 0x011542804913001C09000000 =
      some (.imin ⟨true, false, true, 5, .v 40, .v 18, .q 3, .v 0, .n8, .rn, false, 1, 1, 0x0⟩)
    ∧ decodeTableWord 96 0x015542804914000809000000 =
      some (.imax ⟨true, false, true, 5, .v 40, .v 18, .q 4, .v 0, .i64, .rn, false, 1, 1, 0x0⟩)
    ∧ decodeTableWord 96 0x019542804800000809000000 =
      some (.iabs ⟨true, false, true, 5, .v 40, .v 18, .v 0, .v 0, .i64, .rn, false, 1, 1, 0x0⟩)
    ∧ decodeTableWord 96 0x01D542804800001849000000 =
      some (.ineg ⟨true, false, true, 5, .v 40, .v 18, .v 0, .v 0, .i8, .rn, true, 1, 1, 0x0⟩)
    ∧ decodeTableWord 96 0x021542804B80000409ABCDEF =
      some (.and ⟨true, false, true, 5, .v 40, .v 18, .imm24, .v 0, .n32, .rn, false, 1, 1, 0xABCDEF⟩)
    ∧ decodeTableWord 96 0x025542804914000C09000000 =
      some (.or ⟨true, false, true, 5, .v 40, .v 18, .q 4, .v 0, .n64, .rn, false, 1, 1, 0x0⟩)
    ∧ decodeTableWord 96 0x029542804905000009000000 =
      some (.xor ⟨true, false, true, 5, .v 40, .v 18, .o 5, .v 0, .i32, .rn, false, 1, 1, 0x0⟩)
    ∧ decodeTableWord 96 0x02D542841400000009000000 =
      some (.not ⟨true, false, true, 5, .v 40, .o 5, .v 0, .v 0, .i32, .rn, false, 1, 1, 0x0⟩)
    ∧ decodeTableWord 96 0x031542804B07001409000000 =
      some (.shl ⟨true, false, true, 5, .v 40, .v 18, .imm (7), .v 0, .n16, .rn, false, 1, 1, 0x0⟩)
    ∧ decodeTableWord 96 0x035542804913000809000000 =
      some (.shr ⟨true, false, true, 5, .v 40, .v 18, .q 3, .v 0, .i64, .rn, false, 1, 1, 0x0⟩)
    ∧ decodeTableWord 96 0x039542804913000009000000 =
      some (.sra ⟨true, false, true, 5, .v 40, .v 18, .q 3, .v 0, .i32, .rn, false, 1, 1, 0x0⟩)
    ∧ decodeTableWord 96 0x03D542804821000409000000 =
      some (.rot ⟨true, false, true, 5, .v 40, .v 18, .v 33, .v 0, .n32, .rn, false, 1, 1, 0x0⟩)
    ∧ decodeTableWord 96 0x041542804800000809000000 =
      some (.clz ⟨true, false, true, 5, .v 40, .v 18, .v 0, .v 0, .i64, .rn, false, 1, 1, 0x0⟩)
    ∧ decodeTableWord 96 0x045542804800001C09000000 =
      some (.popc ⟨true, false, true, 5, .v 40, .v 18, .v 0, .v 0, .n8, .rn, false, 1, 1, 0x0⟩)
    ∧ decodeTableWord 96 0x049542804800000409000000 =
      some (.brev ⟨true, false, true, 5, .v 40, .v 18, .v 0, .v 0, .n32, .rn, false, 1, 1, 0x0⟩)
    ∧ decodeTableWord 96 0x04D5505E000000300900007F =
      some (.mov ⟨true, false, true, 5, .o 5, .imm24, .v 0, .v 0, .e4m3, .rn, false, 1, 1, 0x7F⟩)
    ∧ decodeTableWord 96 0x051542800000000009000000 =
      some (.lidx ⟨true, false, true, 5, .v 40, .v 0, .v 0, .v 0, .i32, .rn, false, 1, 1, 0x0⟩) := by decide

/-- R101: the integer words without a pair class -/
theorem test_decode_lane_integers_2 :
    decodeTableWord 96 0x401542804913000409000019 =
      some (.iaddc ⟨true, false, true, 5, .v 40, .v 18, .q 3, .v 0, .n32, .rn, false, 1, 1, 0x19⟩)
    ∧ decodeTableWord 96 0x405542804913000009000000 =
      some (.imulh ⟨true, false, true, 5, .v 40, .v 18, .q 3, .v 0, .i32, .rn, false, 1, 1, 0x0⟩)
    ∧ decodeTableWord 96 0x409542804913FDD849000000 =
      some (.imad ⟨true, false, true, 5, .v 40, .v 18, .q 3, .imm (-9), .i8, .rn, true, 1, 1, 0x0⟩)
    ∧ decodeTableWord 96 0x40D542804913001449000000 =
      some (.idiv ⟨true, false, true, 5, .v 40, .v 18, .q 3, .v 0, .n16, .rn, true, 1, 1, 0x0⟩)
    ∧ decodeTableWord 96 0x411542804913000009000000 =
      some (.irem ⟨true, false, true, 5, .v 40, .v 18, .q 3, .v 0, .i32, .rn, false, 1, 1, 0x0⟩)
    ∧ decodeTableWord 96 0x415542804B05C30C09000000 =
      some (.bfx ⟨true, false, true, 5, .v 40, .v 18, .imm (5), .imm (12), .n64, .rn, false, 1, 1, 0x0⟩)
    ∧ decodeTableWord 96 0x419542804B05C30009000000 =
      some (.bfi ⟨true, false, true, 5, .v 40, .v 18, .imm (5), .imm (12), .i32, .rn, false, 1, 1, 0x0⟩)
    ∧ decodeTableWord 96 0x41D560704913000409000004 =
      some (.icmp ⟨true, false, true, 5, .k 7, .v 18, .q 3, .v 0, .n32, .rn, false, 1, 1, 0x4⟩)
    ∧ decodeTableWord 96 0x421542804B01002C0900000B =
      some (.sel ⟨true, false, true, 5, .v 40, .v 18, .imm (1), .v 0, .bf16, .rn, false, 1, 1, 0xB⟩) := by decide

/-- R55, R101, R163: floating-point words and CVT -/
theorem test_decode_lane_floats :
    decodeTableWord 96 0x201542804913002389000000 =
      some (.fadd ⟨true, false, true, 5, .v 40, .v 18, .q 3, .v 0, .f32, .dyn, false, 1, 1, 0x0⟩)
    ∧ decodeTableWord 96 0x205542804912002609000000 =
      some (.fsub ⟨true, false, true, 5, .v 40, .v 18, .q 2, .v 0, .f64, .rm, false, 1, 1, 0x0⟩)
    ∧ decodeTableWord 96 0x209542804913002989000000 =
      some (.fmul ⟨true, false, true, 5, .v 40, .v 18, .q 3, .v 0, .f16, .rp, false, 1, 1, 0x0⟩)
    ∧ decodeTableWord 96 0x20D542804913002D09000000 =
      some (.fmin ⟨true, false, true, 5, .v 40, .v 18, .q 3, .v 0, .bf16, .rz, false, 1, 1, 0x0⟩)
    ∧ decodeTableWord 96 0x211542804913002089000000 =
      some (.fmax ⟨true, false, true, 5, .v 40, .v 18, .q 3, .v 0, .f32, .rna, false, 1, 1, 0x0⟩)
    ∧ decodeTableWord 96 0x215542804800002409000000 =
      some (.frnd ⟨true, false, true, 5, .v 40, .v 18, .v 0, .v 0, .f64, .rn, false, 1, 1, 0x0⟩)
    ∧ decodeTableWord 96 0x219542804400003B49000008 =
      some (.cvt ⟨true, false, true, 5, .v 40, .v 17, .v 0, .v 0, .d64, .raz, true, 1, 1, 0x8⟩)
    ∧ decodeTableWord 96 0x50154280491318E109000000 =
      some (.ffma ⟨true, false, true, 5, .v 40, .v 18, .q 3, .v 99, .f32, .rz, false, 1, 1, 0x0⟩)
    ∧ decodeTableWord 96 0x505560704913002809000006 =
      some (.fcmp ⟨true, false, true, 5, .k 7, .v 18, .q 3, .v 0, .f16, .rn, false, 1, 1, 0x6⟩)
    ∧ decodeTableWord 96 0x509542804800003409000000 =
      some (.fclass ⟨true, false, true, 5, .v 40, .v 18, .v 0, .v 0, .e5m2, .rn, false, 1, 1, 0x0⟩)
    ∧ decodeTableWord 96 0x50D5428049130021C9000014 =
      some (.pack ⟨true, false, true, 5, .v 40, .v 18, .q 3, .v 0, .f32, .rp, true, 1, 1, 0x14⟩)
    ∧ decodeTableWord 96 0x511542804800000409000037 =
      some (.unpk ⟨true, false, true, 5, .v 40, .v 18, .v 0, .v 0, .n32, .rn, false, 1, 1, 0x37⟩) := by decide

/-- R101: the special functions -/
theorem test_decode_lane_special :
    decodeTableWord 96 0x601542804800002209000000 =
      some (.rcp ⟨true, false, true, 5, .v 40, .v 18, .v 0, .v 0, .f32, .rm, false, 1, 1, 0x0⟩)
    ∧ decodeTableWord 96 0x605542804800002209000000 =
      some (.rsq ⟨true, false, true, 5, .v 40, .v 18, .v 0, .v 0, .f32, .rm, false, 1, 1, 0x0⟩)
    ∧ decodeTableWord 96 0x611542804800002209000000 =
      some (.exp2 ⟨true, false, true, 5, .v 40, .v 18, .v 0, .v 0, .f32, .rm, false, 1, 1, 0x0⟩)
    ∧ decodeTableWord 96 0x615542804800002209000000 =
      some (.log2 ⟨true, false, true, 5, .v 40, .v 18, .v 0, .v 0, .f32, .rm, false, 1, 1, 0x0⟩)
    ∧ decodeTableWord 96 0x619542804800002209000000 =
      some (.sinpi ⟨true, false, true, 5, .v 40, .v 18, .v 0, .v 0, .f32, .rm, false, 1, 1, 0x0⟩)
    ∧ decodeTableWord 96 0x61D542804800002209000000 =
      some (.cospi ⟨true, false, true, 5, .v 40, .v 18, .v 0, .v 0, .f32, .rm, false, 1, 1, 0x0⟩)
    ∧ decodeTableWord 96 0x609542804800002789000000 =
      some (.sqrt ⟨true, false, true, 5, .v 40, .v 18, .v 0, .v 0, .f64, .dyn, false, 1, 1, 0x0⟩)
    ∧ decodeTableWord 96 0x60D542804912002509000000 =
      some (.div ⟨true, false, true, 5, .v 40, .v 18, .q 2, .v 0, .f64, .rz, false, 1, 1, 0x0⟩) := by decide

/-- R101: decimal words -/
theorem test_decode_lane_decimals :
    decodeTableWord 96 0x70154280481E003A89000000 =
      some (.dadd ⟨true, false, true, 5, .v 40, .v 18, .v 30, .v 0, .d64, .rnz, false, 1, 1, 0x0⟩)
    ∧ decodeTableWord 96 0x70554280481E003A89000000 =
      some (.dsub ⟨true, false, true, 5, .v 40, .v 18, .v 30, .v 0, .d64, .rnz, false, 1, 1, 0x0⟩)
    ∧ decodeTableWord 96 0x70954280481E003A89000000 =
      some (.dmul ⟨true, false, true, 5, .v 40, .v 18, .v 30, .v 0, .d64, .rnz, false, 1, 1, 0x0⟩)
    ∧ decodeTableWord 96 0x71154280481E003A89000000 =
      some (.ddiv ⟨true, false, true, 5, .v 40, .v 18, .v 30, .v 0, .d64, .rnz, false, 1, 1, 0x0⟩)
    ∧ decodeTableWord 96 0x71554280481E003A89000000 =
      some (.dqua ⟨true, false, true, 5, .v 40, .v 18, .v 30, .v 0, .d64, .rnz, false, 1, 1, 0x0⟩)
    ∧ decodeTableWord 96 0x70D54280481E083B09000000 =
      some (.dfma ⟨true, false, true, 5, .v 40, .v 18, .v 30, .v 32, .d64, .raz, false, 1, 1, 0x0⟩)
    ∧ decodeTableWord 96 0x71956020481E003809000005 =
      some (.dcmp ⟨true, false, true, 5, .k 2, .v 18, .v 30, .v 0, .d64, .rn, false, 1, 1, 0x5⟩)
    ∧ decodeTableWord 96 0x71D542804800003A09000001 =
      some (.dcvt ⟨true, false, true, 5, .v 40, .v 18, .v 0, .v 0, .d64, .rm, false, 1, 1, 0x1⟩)
    ∧ decodeTableWord 96 0x721542804BFD003809000000 =
      some (.dscb ⟨true, false, true, 5, .v 40, .v 18, .imm (-3), .v 0, .d64, .rn, false, 1, 1, 0x0⟩) := by decide

/-- R101, R178: moves, shuffles, reductions and algebra words -/
theorem test_decode_lane_moves_and_algebra :
    decodeTableWord 96 0x801542804803000409000000 =
      some (.movi ⟨true, false, true, 5, .v 40, .v 18, .v 3, .v 0, .n32, .rn, false, 1, 1, 0x0⟩)
    ∧ decodeTableWord 96 0x805542804B03001009000002 =
      some (.shfl ⟨true, false, true, 5, .v 40, .v 18, .imm (3), .v 0, .i16, .rn, false, 1, 1, 0x2⟩)
    ∧ decodeTableWord 96 0x809542804913003809000000 =
      some (.bcast ⟨true, false, true, 5, .v 40, .v 18, .q 3, .v 0, .d64, .rn, false, 1, 1, 0x0⟩)
    ∧ decodeTableWord 96 0x80D542804800000809000003 =
      some (.vote ⟨true, false, true, 5, .v 40, .v 18, .v 0, .v 0, .i64, .rn, false, 1, 1, 0x3⟩)
    ∧ decodeTableWord 96 0x811542804800000049000000 =
      some (.redp ⟨true, false, true, 5, .v 40, .v 18, .v 0, .v 0, .i32, .rn, true, 1, 1, 0x0⟩)
    ∧ decodeTableWord 96 0x811542804800002509000002 =
      some (.redp ⟨true, false, true, 5, .v 40, .v 18, .v 0, .v 0, .f64, .rz, false, 1, 1, 0x2⟩)
    ∧ decodeTableWord 96 0x90154280501800200900002B =
      some (.amul ⟨true, false, true, 5, .v 40, .v 20, .v 24, .v 0, .f32, .rn, false, 1, 1, 0x2B⟩)
    ∧ decodeTableWord 96 0x905542805018072009000055 =
      some (.afma ⟨true, false, true, 5, .v 40, .v 20, .v 24, .v 28, .f32, .rn, false, 1, 1, 0x55⟩)
    ∧ decodeTableWord 96 0x909542805000002009000022 =
      some (.aconj ⟨true, false, true, 5, .v 40, .v 20, .v 0, .v 0, .f32, .rn, false, 1, 1, 0x22⟩)
    ∧ decodeTableWord 96 0x90D550405000002009000020 =
      some (.anorm ⟨true, false, true, 5, .o 4, .v 20, .v 0, .v 0, .f32, .rn, false, 1, 1, 0x20⟩) := by decide

/-- R101, R183, R321, R449: the memory words -/
theorem test_decode_lane_memory :
    decodeTableWord 96 0xA01542804BF70028096000FF =
      some (.ld ⟨true, false, true, 5, .v 40, .v 18, .imm (-9), .v 0, .f16, .rn, false, 1, 1, 0x6000FF⟩)
    ∧ decodeTableWord 96 0xA055700049130C9809B00007 =
      some (.st ⟨true, false, true, 5, .none, .v 18, .q 3, .v 50, .i8, .rn, false, 1, 1, 0xB00007⟩)
    ∧ decodeTableWord 96 0xA09542804913000C09000009 =
      some (.ldk ⟨true, false, true, 5, .v 40, .v 18, .q 3, .v 0, .n64, .rn, false, 1, 1, 0x9⟩)
    ∧ decodeTableWord 96 0xA0D5428049130020090C0003 =
      some (.lds ⟨true, false, true, 5, .v 40, .v 18, .q 3, .v 0, .f32, .rn, false, 1, 1, 0xC0003⟩)
    ∧ decodeTableWord 96 0xA115700045130CD409080000 =
      some (.sts ⟨true, false, true, 5, .none, .v 17, .q 3, .v 51, .n16, .rn, false, 1, 1, 0x80000⟩)
    ∧ decodeTableWord 96 0xA1557000480902C409D38000 =
      some (.atom ⟨true, false, true, 5, .none, .v 18, .v 9, .v 11, .n32, .rn, false, 1, 1, 0xD38000⟩)
    ∧ decodeTableWord 96 0xA1D5700049130C8C09000005 =
      some (.wst ⟨true, false, true, 5, .none, .v 18, .q 3, .v 50, .n64, .rn, false, 1, 1, 0x5⟩) := by decide

/-- R81, R91 to R94, R102, and the worked encodings of ATOM, DAUB and IADD -/
theorem test_decode_lane_worked_words :
    decodeTableWord 96 0xA14000500808000400E00000 =
      some (.atom ⟨false, false, false, 0, .v 5, .v 2, .v 8, .v 0, .n32, .rn, false, 0, 0, 0xE00000⟩)
    ∧ decodeTableWord 96 0xA18030001112004400040000 =
      some (.daub ⟨false, false, false, 0, .none, .v 4, .q 2, .v 1, .n32, .rn, false, 0, 0, 0x040000⟩)
    ∧ decodeTableWord 96 (2 ^ 86 + 2 ^ 84 + 2 ^ 68 + 2 ^ 56 + 2 ^ 52) =
      some (.iadd ⟨true, false, false, 0, .v 1, .v 0, .q 0, .v 0, .i32, .rn, false, 0, 0, 0⟩)
    ∧ decodeTableWord 96 (0x3F0 * 2 ^ 86 + 2 ^ 84) = some (.lend true)
    ∧ decodeTableWord 96 (0x3F1 * 2 ^ 86 + 2 ^ 82 + 9 * 2 ^ 78) = some (.lnop false true 9)
    ∧ decodeTableWord 96 0x003006CA629F730CFEC02037 =
      some (.pairedWord true ⟨.iadd, true, 3, .v 41, .q 4, .imm (-9), .n32, .i32⟩ ⟨.cvt, false, 7, .o 6, .v 2, .v 0, .bf16, .i8⟩) := by decide

/-! ## Well-formedness refuses an ill-formed term for each of its checks -/

/-- A well-formed IADD.i32 v3, v1, v2. -/
def wAdd : LFields := ⟨false, false, false, 0, .v 3, .v 1, .v 2, .v 0, .i32, .rn, false, 0, 0, 0⟩

/-- A well-formed MMA.f16.f16. -/
def wMma : MmaFields := ⟨20, 5, 0, false, false, false, false, 7, 2, 9, .ty .f16, .ty .f16, 0, false, false, 0⟩

/-- R119: a field that runs over bit 63. -/
theorem test_ill_formed_bit_field : (Instr.sbfx 1 2 false 40 24).wf = false ∧ (Instr.sbfi 1 2 63 1).wf = false ∧ (Instr.sbfx 1 2 false 40 23).wf = true := by decide

/-- R78: a 64-bit load with sign extension. -/
theorem test_ill_formed_load : (Instr.sld 1 2 3 true 0).wf = false ∧ (Instr.sldk 1 2 3 true 0).wf = false ∧ (Instr.slds 1 2 3 true 0).wf = false ∧
    (Instr.sldAcq 1 2 3 true 0 .dev).wf = false ∧ (Instr.sld 1 2 3 false 0).wf = true := by decide

/-- R193, R196: fields that a step does not have, pairs of formats that it does not take, odd tiles of a scaled format, a transposed scaled operand, a base that does not suit the dimension. -/
theorem test_ill_formed_step :
    (Instr.mma wMma).wf = true ∧ (Instr.mma { wMma with dim := 1 }).wf = false ∧ (Instr.mma { wMma with rev := true }).wf = false ∧ (Instr.mma { wMma with kq := 1 }).wf = false ∧ (Instr.mma { wMma with ca := true }).wf = false ∧ (Instr.mma { wMma with cb := true }).wf = false ∧ (Instr.mma { wMma with slot := 1 }).wf = false
    ∧ (Instr.mma { wMma with fmtB := .ty .bf16 }).wf = false ∧ (Instr.mma { wMma with fmtA := .mx8, fmtB := .mx8, tileA := 2, tileB := 9 }).wf = false
    ∧ (Instr.mma { wMma with fmtA := .mx8, fmtB := .ty .e4m3, ta := true }).wf = false
    ∧ (Instr.mmaw { wMma with fmtB := .w4, tileB := 8 }).wf = false ∧ (Instr.mmaw { wMma with fmtA := .ty .bf16, fmtB := .w4, tileB := 9 }).wf = false ∧ (Instr.mmaw { wMma with fmtA := .ty .bf16, fmtB := .w4, tileB := 8, tb := true }).wf = false
    ∧ (Instr.mmaw { wMma with fmtA := .ty .e4m3, fmtB := .w3, tileB := 8, kq := 2 }).wf = false ∧ (Instr.mmaw { wMma with fmtA := .ty .bf16, fmtB := .w3, tileB := 8, kq := 3 }).wf = true
    ∧ (Instr.mmag { wMma with dim := 2, acc := 6 }).wf = false ∧ (Instr.mmag { wMma with dim := 2, acc := 8, kq := 1 }).wf = false ∧ (Instr.mmag { wMma with dim := 2, acc := 8, fmtA := .ty .e4m3, fmtB := .ty .e4m3 }).wf = false ∧ (Instr.mmag { wMma with dim := 2, acc := 8, rev := true, ca := true, slot := 3 }).wf = true := by decide

/-- R213, R215: accumulators above the last. -/
theorem test_ill_formed_accumulators : (Instr.aclr 255 1).wf = false ∧ (Instr.aclr 254 1).wf = true ∧ (Instr.atot 63 false 0 2 false).wf = false ∧ (Instr.atot 1 false 0 2 false).wf = false ∧ (Instr.atot 1 false 0 0 false).wf = true := by decide

/-- R241, R319, R320, R323, R338: a seed's registers above s63, a relaxed PHASE, a PFENCE from the constant path or onto its own path, an atomic's types, compare register and scope, an odd mask register. -/
theorem test_ill_formed_sync : (Instr.seed 1 49 1).wf = false ∧ (Instr.seed 1 48 1).wf = true ∧ (Instr.phase .relaxed .dev).wf = false ∧ (Instr.pfence .constant .generic).wf = false ∧ (Instr.pfence .tile .tile).wf = false ∧ (Instr.pfence .generic .constant).wf = true
    ∧ (Instr.satom ⟨1, 2, .rel, .dev, 3, 0, .add, .f32, false⟩).wf = false ∧ (Instr.satom ⟨1, 2, .rel, .dev, 3, 4, .add, .n64, false⟩).wf = false ∧ (Instr.satom ⟨1, 2, .relaxed, .dev, 3, 0, .add, .n64, false⟩).wf = false ∧ (Instr.satom ⟨1, 2, .relaxed, .pod, 3, 4, .cas, .n64, true⟩).wf = true
    ∧ (Instr.redx 1 2 3 5 0).wf = false ∧ (Instr.redx 1 2 3 4 0).wf = true := by decide

/-- R358, R370, R384, R443: scope pod, byte arrival or a barrier register without .bar, a follow-on step's formats, the register pair at s63, a span above v255 and an empty span that has a base. -/
theorem test_ill_formed_engine : (Instr.tcopy ⟨1, 2, 3, true, false, .pod, false⟩).wf = false ∧ (Instr.tcopy ⟨1, 2, 0, false, false, .wg, true⟩).wf = false ∧ (Instr.tcopy ⟨1, 2, 3, false, false, .wg, false⟩).wf = false ∧ (Instr.tcopy ⟨1, 2, 3, true, false, .sys, true⟩).wf = true
    ∧ (Instr.tcopym ⟨1, 2, 3, false, false, false, 0, 1, 2, .ty .f32, .ty .f16⟩).wf = false ∧ (Instr.rflush 1 63 0 false).wf = false ∧ (Instr.rinval 1 2 3 false).wf = false ∧ (Instr.rdisc 1 2 3 true).wf = true
    ∧ (Instr.coat 1 256 1 0).wf = false ∧ (Instr.coat 1 0 1 0).wf = false ∧ (Instr.coat 1 256 0 0).wf = true ∧ (Instr.xsend 1 63 2 3).wf = false := by decide

/-- R83 to R88, R143: the checks that the single-operation words share: destination file, its index, pairs at odd registers, N with another destination than v0, types, unread and reserved sources, an immediate over the type, rounding, saturation, [23:0], stride without repetitions, a repetition above the last register. -/
theorem test_ill_formed_lane_shared :
    (Instr.iadd wAdd).wf = true ∧ (Instr.iadd { wAdd with dest := .k 3 }).wf = false ∧ (Instr.iadd { wAdd with dest := .none }).wf = false ∧ (Instr.iadd { wAdd with dest := .o 16 }).wf = false ∧ (Instr.iadd { wAdd with ty := .i64, a := .v 2 }).wf = false ∧ (Instr.iadd { wAdd with n := true }).wf = false
    ∧ (Instr.iadd { wAdd with ty := .f32 }).wf = false ∧ (Instr.iadd { wAdd with c := .v 1 }).wf = false ∧ (Instr.iadd { wAdd with a := .q 16 }).wf = false ∧ (Instr.iadd { wAdd with a := .b 4 }).wf = false ∧ (Instr.iadd { wAdd with a := .imm 128 }).wf = false ∧ (Instr.iadd { wAdd with ty := .i64, dest := .v 2, a := .v 3 }).wf = false
    ∧ (Instr.mov { wAdd with b := .v 0, ty := .e4m3, a := .imm24, imm := 0x100 }).wf = false ∧ (Instr.iadd { wAdd with rnd := .rz }).wf = false ∧ (Instr.fadd { wAdd with ty := .f32, rnd := .raz }).wf = false ∧ (Instr.imin { wAdd with sat := true }).wf = false ∧ (Instr.iadd { wAdd with imm := 1 }).wf = false ∧ (Instr.not { wAdd with b := .v 0, imm := 1 }).wf = false
    ∧ (Instr.iadd { wAdd with stride := 1 }).wf = false ∧ (Instr.iadd { wAdd with rep := 7, stride := 7, b := .v 200 }).wf = false ∧ (Instr.iadd { wAdd with rep := 7, stride := 0, dest := .o 9 }).wf = false ∧ (Instr.icmp { wAdd with rep := 7, dest := .k 9 }).wf = false := by decide

/-- R144, R163 to R165, R177, R178: the rules of one operation each. -/
theorem test_ill_formed_lane_rows :
    (Instr.iabs { wAdd with b := .v 0, ty := .n32 }).wf = false ∧ (Instr.lidx { wAdd with a := .v 0, b := .v 0, ty := .n32 }).wf = false ∧ (Instr.cvt { wAdd with b := .v 0, imm := 0xF }).wf = false ∧ (Instr.cvt { wAdd with b := .v 0, imm := 0x10 }).wf = false ∧ (Instr.cvt { wAdd with b := .v 0, imm := 4, rnd := .rz }).wf = false
    ∧ (Instr.iaddc { wAdd with imm := 32 }).wf = false ∧ (Instr.iaddc { wAdd with ty := .i16 }).wf = false ∧ (Instr.irem { wAdd with sat := true }).wf = false ∧ (Instr.bfx { wAdd with ty := .i8 }).wf = false ∧ (Instr.icmp { wAdd with dest := .k 1, imm := 6 }).wf = false ∧ (Instr.icmp { wAdd with imm := 0 }).wf = false ∧ (Instr.sel { wAdd with imm := 16 }).wf = false
    ∧ (Instr.fcmp { wAdd with dest := .k 1, ty := .f32, imm := 8 }).wf = false ∧ (Instr.fclass { wAdd with b := .v 0 }).wf = false ∧ (Instr.pack { wAdd with ty := .f32, imm := 0x10 }).wf = false ∧ (Instr.pack { wAdd with ty := .i32, imm := 0 }).wf = false ∧ (Instr.pack { wAdd with ty := .i32, imm := 2, rnd := .rz }).wf = false ∧ (Instr.unpk { wAdd with b := .v 0, ty := .f32, imm := 0x20 }).wf = false ∧ (Instr.unpk { wAdd with b := .v 0, ty := .n32, imm := 2 }).wf = false
    ∧ (Instr.rcp { wAdd with b := .v 0, ty := .f64 }).wf = false ∧ (Instr.div { wAdd with ty := .i32 }).wf = false ∧ (Instr.dadd { wAdd with ty := .f64, dest := .v 2, a := .v 2 }).wf = false ∧ (Instr.dcvt { wAdd with b := .v 0, ty := .d64, dest := .v 2, a := .v 2, imm := 2 }).wf = false
    ∧ (Instr.movi { wAdd with a := .q 1 }).wf = false ∧ (Instr.shfl { wAdd with imm := 4 }).wf = false ∧ (Instr.bcast wAdd).wf = false ∧ (Instr.vote { wAdd with b := .v 0, imm := 4 }).wf = false ∧ (Instr.redp { wAdd with b := .v 0, imm := 6 }).wf = false ∧ (Instr.redp { wAdd with b := .v 0, ty := .f32, imm := 3 }).wf = false ∧ (Instr.redp { wAdd with b := .v 0, imm := 1, sat := true }).wf = false ∧ (Instr.redp { wAdd with b := .v 0, rnd := .rz }).wf = false
    ∧ (Instr.amul { wAdd with ty := .f32, imm := 0x80 }).wf = false ∧ (Instr.amul { wAdd with ty := .f32, a := .q 1 }).wf = false ∧ (Instr.aconj { wAdd with ty := .f32, b := .v 0, imm := 4 }).wf = false ∧ (Instr.afma { wAdd with ty := .f32, dest := .v 250, imm := 0x60 }).wf = false := by decide

/-- R183, R321, R322, R327, R449: orders, scopes, path bits and modes of the memory words. -/
theorem test_ill_formed_lane_memory :
    (Instr.ld { wAdd with a := .v 2, imm := 0x800000 }).wf = false ∧ (Instr.ld { wAdd with a := .v 2, imm := 0x100000 }).wf = false ∧ (Instr.ld { wAdd with a := .v 2, imm := 0x080000 }).wf = false ∧ (Instr.ld { wAdd with a := .v 2, imm := 0x010000 }).wf = false ∧ (Instr.ld { wAdd with a := .v 2, imm := 0x600000 }).wf = true
    ∧ (Instr.ldk { wAdd with a := .v 2, imm := 0x600000 }).wf = false ∧ (Instr.lds { wAdd with imm := 0x040000 }).wf = false ∧ (Instr.sts { wAdd with dest := .none, imm := 0x0C0000 }).wf = false ∧ (Instr.st { wAdd with a := .v 2, imm := 0 }).wf = false
    ∧ (Instr.atom { wAdd with a := .v 2, imm := 0x48000 }).wf = false ∧ (Instr.atom { wAdd with a := .v 2, imm := 0x40000 }).wf = false ∧ (Instr.atom { wAdd with a := .v 2, imm := 1 }).wf = false ∧ (Instr.atom { wAdd with a := .v 2, imm := 0x100000 }).wf = false ∧ (Instr.atom { wAdd with a := .v 2, c := .v 5 }).wf = false ∧ (Instr.atom { wAdd with dest := .none, n := true, a := .v 2 }).wf = false
    ∧ (Instr.daub { wAdd with dest := .none, a := .v 2 }).wf = false ∧ (Instr.daub { wAdd with dest := .none, a := .v 2, b := .q 1, imm := 0x0C0000 }).wf = false ∧ (Instr.daub { wAdd with dest := .none, a := .v 2, b := .imm 1, imm := 0x080000 }).wf = false ∧ (Instr.daub { wAdd with dest := .none, a := .v 2, b := .q 1, imm := 0x900000 }).wf = false ∧ (Instr.daub { wAdd with dest := .none, a := .v 2, b := .q 1, imm := 0x020000 }).wf = false ∧ (Instr.daub { wAdd with dest := .none, a := .v 2, b := .q 1, imm := 0x010000 }).wf = false
    ∧ (Instr.wst { wAdd with dest := .none, a := .v 2, imm := 0x400000 }).wf = false := by decide

/-- A half IADD.i32 v1, v2, v3 and a half FADD.f32 v4, v5, v7. -/
def wHalfI : Half := ⟨.iadd, false, 0, .v 1, .v 2, .v 3, .i32, .i32⟩
def wHalfF : Half := ⟨.fadd, false, 0, .v 4, .v 5, .v 2, .f32, .i32⟩

/-- R92 to R95: classes, types, destinations, immediates, pairs, banks and the count of registers read. -/
theorem test_ill_formed_pair :
    (Instr.pairedWord false wHalfI wHalfF).wf = true ∧ (Instr.pairedWord false wHalfI wHalfI).wf = false ∧ (Instr.pairedWord false { wHalfI with ty := .i16 } wHalfF).wf = false ∧ (Instr.pairedWord false { wHalfI with dest := .v 240 } wHalfF).wf = false ∧ (Instr.pairedWord false { wHalfI with dest := .k 1 } wHalfF).wf = false
    ∧ (Instr.pairedWord false { wHalfI with b := .imm 64 } wHalfF).wf = false ∧ (Instr.pairedWord false { wHalfI with b := .imm24 } wHalfF).wf = false ∧ (Instr.pairedWord false { wHalfI with ty := .i64 } wHalfF).wf = false ∧ (Instr.pairedWord false { wHalfI with src := .n8 } wHalfF).wf = false
    ∧ (Instr.pairedWord false { wHalfI with dest := .v 8 } wHalfF).wf = false ∧ (Instr.pairedWord false { wHalfI with dest := .o 8 } { wHalfF with dest := .o 8 }).wf = false ∧ (Instr.pairedWord false wHalfI { wHalfF with b := .v 7 }).wf = false ∧ (Instr.pairedWord false wHalfI { wHalfF with b := .v 9 }).wf = false
    ∧ (Instr.pairedWord false { wHalfI with op := .not } wHalfF).wf = false ∧ (Instr.pairedWord false { wHalfI with op := .lidx, a := .v 0, b := .v 0, ty := .n32 } wHalfF).wf = false := by decide

/-! ## Single operations and steps, with the results that the spec's tables and examples give -/

/-- 2 to the power k, exactly. -/
def pow2 (k : Int) : Val := if 0 ≤ k then .num false (2 ^ k.toNat) 1 else .num false 1 (2 ^ (-k).toNat)

/-- The table of R71, from cancellation past the window to the sum that no addition in steps gives. -/
theorem test_step_sum_window : mstep 0 [pow2 0, (pow2 0).negate, pow2 (-81)] = (0, excNone) ∧ mstep 0 [pow2 0, (pow2 0).negate, pow2 (-80)] = (0x17800000, excNone)
    ∧ mstep 0 [pow2 24, pow2 0, pow2 0] = (0x4B800001, excNone) := by decide
/-- The table of R71: the final rounding. -/
theorem test_step_sum_rounding : mstep 0x3F800000 [pow2 (-24)] = (0x3F800000, excX) ∧ mstep 0x3F800000 [pow2 (-24), pow2 (-60)] = (0x3F800001, excX)
    ∧ mstep 0x7F7FFFFF [pow2 128] = (0x7F800000, excO ||| excX) ∧ mstep 0x40400000 [] = (0x40400000, excNone) := by decide
/-- The table of R71: NaN, infinities and zeros. -/
theorem test_step_sum_specials : mstep 0x40A00000 [.nan false, pow2 2] = (0x7FC00000, excNone) ∧ mstep 0x40000000 [.inf false, pow2 2] = (0x7F800000, excNone)
    ∧ mstep 0x40000000 [.inf false, .inf true] = (0x7FC00000, excI) ∧ mstep 0x80000000 [.num true 0 1, .num true 0 1] = (0x80000000, excNone)
    ∧ (Val.num false 0 1).mul (.inf false) = (.nan false, excI) := by decide

/-- The value of scalar register r after a step. -/
def sAfter (r : Fin 64) : Host.Outcome State Fault Refusal → Option W64
  | .next t => some (t.readS r)
  | _ => none
/-- The value of vector register r of a lane after a step. -/
def vAfter (r lane : Nat) : Host.Outcome State Fault Refusal → Option W32
  | .next t => some (NMap.get t.pod.v (r * 32 + lane))
  | _ => none

/-- R115: a sum wraps. -/
theorem test_sadd_wraps : sAfter 1 (exec (.sadd 1 2 3) (withS tBase [(2, -1), (3, 2)])) = some 1 := by decide
/-- R8: a write to s0 is discarded. -/
theorem test_s0 : sAfter 0 (exec (.sadd 0 2 3) (withS tBase [(2, 5), (3, 2)])) = some 0 := by decide
/-- R118: shifts by the width and more. -/
theorem test_shifts : sAfter 1 (exec (.ssra 1 2 3) (withS tBase [(2, 2 ^ 63), (3, 64)])) = some (-1) ∧ sAfter 1 (exec (.sshl 1 2 3) (withS tBase [(2, 1), (3, 64)])) = some 0 := by decide
/-- R120: SLI s5, 0x80000000 and then SLUI s5, 1. -/
theorem test_immediates : sAfter 5 (exec (.sli32 5 0x80000000) tBase) = some 0xFFFFFFFF80000000 ∧ sAfter 5 (exec (.slui 5 1) (withS tBase [(5, 0xFFFFFFFF80000000)])) = some 0x180000000 := by decide
/-- R119: a field of 4 bits at 8, extended by its sign, and one put in. -/
theorem test_fields : sAfter 1 (exec (.sbfx 1 2 true 8 3) (withS tBase [(2, 0xF8F)])) = some (-1) ∧ sAfter 1 (exec (.sbfi 1 2 8 3) (withS tBase [(1, -1), (2, 5)])) = some 0xFFFFFFFFFFFFF5FF := by decide

/-- A lane block's state: v1 and v2 of one lane. -/
def tLanes (lane : Nat) (a b : W32) : State := { tLane with pod := { tLane.pod with v := NMap.setMany [] [(32 + lane, a), (64 + lane, b)] } }
/-- R41, R43, R63: an i8 sum wraps, a saturating one stops at 127; both fill 32 bits with the sign. -/
theorem test_lane_integers : vAfter 3 0 (exec (.iadd { wAdd with ty := .i8 }) (tLanes 0 0x7F 0xAB01)) = some 0xFFFFFF80
    ∧ vAfter 3 0 (exec (.iadd { wAdd with ty := .i8, sat := true }) (tLanes 0 0x7F 0xAB01)) = some 0x7F := by decide
/-- R57, R44: 1.5 + 2.25 in f32, and x − x under rm. -/
theorem test_lane_floats : vAfter 3 0 (exec (.fadd { wAdd with ty := .f32 }) (tLanes 0 0x3FC00000 0x40100000)) = some 0x40700000
    ∧ vAfter 3 0 (exec (.fsub { wAdd with ty := .f32, rnd := .rm }) (tLanes 0 0x3FC00000 0x3FC00000)) = some 0x80000000 := by decide
/-- R8, R25: a lane whose predicate is clear keeps its register. -/
theorem test_lane_predicate : vAfter 3 0 (exec (.iadd { wAdd with k := 1 }) (tLanes 0 5 6)) = some 0 ∧ vAfter 3 4 (exec (.iadd { wAdd with k := 1 }) (tLanes 4 5 6)) = some 11 := by decide
/-- R50 to R52: 1 + 0.10 is 1.10, with the exponent of the lesser. -/
theorem test_decimal_cohort : dAdd .rn (.num false 1 0) (.num false 10 (-2)) = (.num false 110 (-2), excNone) := by decide

end Sys2Proof.Tests
end

/-! The doorbells, the registers of ring 0 and the writes to BAR0 (R6, R461 to R463, R475, R485), with the laws of bytes, of lists of writes and of writes at homes that they rest on. -/

namespace Sys2Proof.Machine

/-! ## Bytes and words -/

theorem natOfBytes_eq_leValue : (bs : List Byte) → natOfBytes bs = leValue bs
  | [] => rfl
  | b :: r => by simp only [natOfBytes, leValue, List.foldr_cons, natOfBytes_eq_leValue r]

theorem field_eq_num (e : List Byte) (off n : Nat) : field e off n = num e off n := natOfBytes_eq_leValue _

theorem byteOf_eq_wordByte {n : Nat} (h : n ≤ 64) (x : BitVec n) (i : Nat) : byteOf x i = wordByte (x.setWidth 64) i := by
  have hx : x.toNat % 2 ^ 64 = x.toNat := Nat.mod_eq_of_lt (Nat.lt_of_lt_of_le x.isLt (Nat.pow_le_pow_right (by decide) h))
  apply BitVec.eq_of_toNat_eq
  simp only [byteOf, wordByte, BitVec.extractLsb'_toNat, BitVec.toNat_ofNat, BitVec.toNat_setWidth, Nat.shiftRight_eq_div_pow, hx]

/-- R461: the bytes that a ring writes as its head record. -/
theorem headRecord_eq (head : W32) (state : Nat) : toBytes head 4 ++ [BitVec.ofNat 8 state, 0, 0, 0] = headBytes head state := by
  simp [toBytes, headBytes, List.range_succ, byteOf_eq_wordByte (show 32 ≤ 64 by decide)]

/-! ## Lists of writes -/

/-- A list of writes read back at a key where all of them agree. -/
theorem NMap.get_setMany {w : Nat} (k : Nat) (v : BitVec w) (xs : List (Nat × BitVec w)) (m : NMap w) (h : ∀ e ∈ xs, e.1 = k → e.2 = v) :
    NMap.get (NMap.setMany m xs) k = if k ∈ xs.map (·.1) then v else NMap.get m k := by
  induction xs generalizing m with
  | nil => rfl
  | cons e r ih =>
    have he : e.1 = k → e.2 = v := h e (List.mem_cons_self ..)
    simp only [NMap.setMany, List.map_cons, List.mem_cons]
    rw [ih _ fun e' he' => h e' (List.mem_cons_of_mem _ he'), NMap.get_set]
    by_cases hk : k = e.1
    · simp [hk, he hk.symm]
    · simp [hk]

theorem NMap.setMany_append {w : Nat} (xs ys : List (Nat × BitVec w)) (m : NMap w) :
    NMap.setMany m (xs ++ ys) = NMap.setMany (NMap.setMany m xs) ys := by
  induction xs generalizing m with
  | nil => rfl
  | cons e r ih => exact ih _

theorem NMap.bytes_eq_of_get (m : NMap 8) (k : Nat) (bs : List Byte) (h : ∀ i < bs.length, NMap.get m (k + i) = bs.getD i 0) :
    NMap.bytes m k bs.length = bs :=
  List.ext_getElem (by simp [NMap.bytes]) fun i h1 h2 => by simp [NMap.bytes, h i h2, h2]

theorem mem_withIndex {α : Type} (xs : List α) (e : Nat × α) : e ∈ withIndex xs ↔ xs[e.1]? = some e.2 := by
  simp only [withIndex, List.mem_iff_getElem?, List.getElem?_zip_eq_some]
  constructor
  · rintro ⟨i, hr, hi⟩
    obtain ⟨-, rfl⟩ := by simpa [List.getElem?_eq_some_iff] using hr
    exact hi
  · intro h
    exact ⟨e.1, List.getElem?_range (List.getElem?_eq_some_iff.1 h).1, h⟩

/-! ## Bytes written at their homes where no home has a record -/

/-- The byte writes that the parts of a write by lines make. -/
def splitWrites (parts : List (Nat × LineBytes)) : List (Nat × Byte) := parts.flatMap fun e => e.2.map fun b => (e.1 * 128 + b.1, b.2)

theorem mem_splitWrites_splitLines (key : Nat) (bs : List Byte) (a : Nat) (b : Byte) :
    (a, b) ∈ splitWrites (splitLines key bs) ↔ ∃ i, a = key + i ∧ bs[i]? = some b := by
  have hz (i : Nat) (x : Byte) : (i, x) ∈ (List.range bs.length).zip bs ↔ bs[i]? = some x := mem_withIndex bs (i, x)
  simp only [splitWrites, splitLines, List.mem_flatMap, List.mem_map, List.mem_range]
  constructor
  · rintro ⟨_, ⟨q, -, rfl⟩, e, he, hab⟩
    obtain ⟨⟨i, x⟩, hi, hx⟩ := List.mem_filterMap.1 he
    obtain ⟨hq, hx⟩ := Option.ite_none_right_eq_some.1 hx
    obtain rfl := Option.some.inj hx
    obtain ⟨rfl, rfl⟩ := Prod.mk.inj hab
    exact ⟨i, by simp only at hq ⊢; omega, (hz i x).1 hi⟩
  · rintro ⟨i, rfl, hi⟩
    have hlt : i < bs.length := (List.getElem?_eq_some_iff.1 hi).1
    refine ⟨_, ⟨(key + i) / 128 - key / 128, by omega, rfl⟩, ((key + i) % 128, b), List.mem_filterMap.2 ⟨(i, b), (hz i b).2 hi, ?_⟩, ?_⟩
    · rw [if_pos (by simp only; omega)]
    · simp only [Prod.mk.injEq, and_true]
      omega

theorem State.setHomeAt_of_no_proxy (xs : List (Nat × Byte)) (s : State) (h : s.proxies = []) : s.setHomeAt xs = { s with mem := NMap.setMany s.mem xs } := by
  induction xs generalizing s with
  | nil => rfl
  | cons e r ih =>
    rw [State.setHomeAt, s.setHomeByte_of_no_proxy e.1 e.2 h]
    exact ih { s with mem := NMap.set s.mem e.1 e.2 } h

theorem State.writeHomeLine_of_no_record (s : State) (line : Nat) (bs : LineBytes) (hh : s.homes = []) (hp : s.proxies = []) :
    s.writeHomeLine line bs = { s with mem := NMap.setMany s.mem (splitWrites [(line, bs)]), poison := (s.writeHomeLine line bs).poison } := by
  have h : s.writeHomeLine line bs = s.commitLine line bs := by simp [State.writeHomeLine, State.homeIdle, State.homeOf, hh]
  rw [h, State.commitLine, State.setHomeAt_of_no_proxy _ s hp]
  simp [splitWrites]

/-- Where no home has a record and no proxy acts, a write at homes changes memory and the poison marks alone. -/
theorem State.writeLines_of_no_record (parts : List (Nat × LineBytes)) (s : State) (hh : s.homes = []) (hp : s.proxies = []) :
    ∃ m, parts.foldl (fun s e => s.writeHomeLine e.1 e.2) s = { s with mem := NMap.setMany s.mem (splitWrites parts), poison := m } := by
  induction parts generalizing s with
  | nil => exact ⟨s.poison, rfl⟩
  | cons e r ih =>
    obtain ⟨m, hm⟩ := ih { s with mem := NMap.setMany s.mem (splitWrites [e]), poison := (s.writeHomeLine e.1 e.2).poison } hh hp
    refine ⟨m, ?_⟩
    rw [List.foldl_cons, s.writeHomeLine_of_no_record e.1 e.2 hh hp, hm]
    simp [splitWrites, NMap.setMany_append]

theorem State.writeHome_of_no_record (s : State) (key : Nat) (bs : List Byte) (hh : s.homes = []) (hp : s.proxies = []) :
    ∃ m, s.writeHome key bs = { s with mem := NMap.setMany s.mem (splitWrites (splitLines key bs)), poison := m } :=
  State.writeLines_of_no_record _ s hh hp

/-- Where no home has a record and no proxy acts, the bytes written at homes stand in memory, and no other byte has changed. -/
theorem State.get_writeHome (s : State) (key : Nat) (bs : List Byte) (hh : s.homes = []) (hp : s.proxies = []) (a : Nat) :
    NMap.get (s.writeHome key bs).mem a = if key ≤ a ∧ a < key + bs.length then bs.getD (a - key) 0 else NMap.get s.mem a := by
  obtain ⟨m, hm⟩ := s.writeHome_of_no_record key bs hh hp
  have agree : ∀ e ∈ splitWrites (splitLines key bs), e.1 = a → e.2 = bs.getD (a - key) 0 := by
    rintro ⟨x, b⟩ he rfl
    obtain ⟨i, rfl, hi⟩ := (mem_splitWrites_splitLines key bs x b).1 he
    simp [hi]
  have covers : a ∈ (splitWrites (splitLines key bs)).map (·.1) ↔ key ≤ a ∧ a < key + bs.length := by
    simp only [List.mem_map, Prod.exists, mem_splitWrites_splitLines]
    constructor
    · rintro ⟨x, b, ⟨i, rfl, hi⟩, rfl⟩
      have := (List.getElem?_eq_some_iff.1 hi).1
      omega
    · rintro ⟨h1, h2⟩
      exact ⟨a, bs[a - key], ⟨a - key, by omega, List.getElem?_eq_getElem _⟩, rfl⟩
  simp only [hm, NMap.get_setMany a _ _ _ agree, covers]

/-! ## Doorbells (R461, R462, R485) -/

theorem State.ringBy_one {s : State} {r : Ring} {n : Nat} (hr : s.rings = [r]) (hn : r.n = n) : s.ringBy n = some r := by
  simp [State.ringBy, hr, hn]

theorem State.mapRing_one {s : State} {r : Ring} {n : Nat} (f : Ring → Ring) (hr : s.rings = [r]) (hn : r.n = n) :
    s.mapRing n f = { s with rings := [f r] } := by
  simp [State.mapRing, updateFirst, hr, hn]

theorem State.log_has_entry (s : State) (code ctx : Nat) (detail : List Nat) :
    ∃ x ∈ (s.log code ctx detail).skepin.log, x.code = code ∧ x.detail = detail.map (BitVec.ofNat 32) :=
  ⟨_, List.mem_append_right _ (List.mem_singleton_self _), rfl, rfl⟩

theorem State.wake_rest (s : State) : s.wake = { s with skepin := s.wake.skepin } := by
  unfold State.wake
  split <;> rfl

theorem State.wake_pwr (s : State) : s.wake.skepin.pwr = if s.skepin.pwr = .idle then .p0 else s.skepin.pwr := by
  unfold State.wake
  split <;> rfl

theorem State.writeHome_rest (s : State) (key : Nat) (bs : List Byte) (hh : s.homes = []) (hp : s.proxies = []) :
    s.writeHome key bs = { s with mem := (s.writeHome key bs).mem, poison := (s.writeHome key bs).poison } := by
  obtain ⟨m, hm⟩ := s.writeHome_of_no_record key bs hh hp
  rw [hm]

theorem State.writeHead_bytes (s : State) (r : Ring) (hh : s.homes = []) (hp : s.proxies = []) :
    NMap.bytes (s.writeHead r).mem r.headAddr 8 = headBytes r.head r.state := by
  rw [← headRecord_eq]
  refine NMap.bytes_eq_of_get _ _ (toBytes r.head 4 ++ [BitVec.ofNat 8 r.state, 0, 0, 0]) fun i hi => ?_
  exact (s.get_writeHome _ _ hh hp _).trans (by rw [if_pos ⟨Nat.le_add_right .., Nat.add_lt_add_left hi _⟩, Nat.add_sub_cancel_left])

/-- What a ring r that stops with a status does (R461, R462): its head record and the log say so. -/
structure RingStops (s t : State) (n : Nat) (r : Ring) (st : Nat) : Prop where
  rings : t.rings = [{ r with state := st, busy := false }]
  head : NMap.bytes t.mem r.headAddr 8 = headBytes r.head st
  logged : ∃ x ∈ t.skepin.log, x.code = 0x08 ∧ x.detail = [n, st, r.head.toNat].map (BitVec.ofNat 32)
  rest : { t with rings := s.rings, mem := s.mem, poison := s.poison, skepin := s.skepin } = s

theorem RingStops.inflight {s t : State} {n : Nat} {r : Ring} {st : Nat} (h : RingStops s t n r st) : t.inflight = s.inflight :=
  (congrArg State.inflight h.rest :)

theorem RingStops.aside {s t : State} {n : Nat} {r : Ring} {st : Nat} (h : RingStops s t n r st) : Aside s t :=
  ⟨(congrArg State.pod h.rest :), (congrArg State.pods h.rest :), (congrArg State.wg h.rest :), (congrArg State.wgs h.rest :)⟩

theorem State.stopRing_one {s : State} {r : Ring} {n : Nat} (hr : s.rings = [r]) (hn : r.n = n) (hh : s.homes = []) (hp : s.proxies = []) (st : Nat) :
    RingStops s (s.stopRing n st) n r st := by
  let r' : Ring := { r with state := st }
  let s1 : State := { s with rings := [{ r' with busy := false }] }
  have hstop : s.stopRing n st = (s1.writeHead r').log 0x08 (if n = 0 then noCtx else r.ctx) [n, st, r.head.toNat] := by
    simp only [State.stopRing, State.ringBy_one hr hn, State.mapRing_one _ hr hn]
    rfl
  have hhead : s1.writeHead r' = { s1 with mem := (s1.writeHead r').mem, poison := (s1.writeHead r').poison } := s1.writeHome_rest _ _ hh hp
  rw [hstop]
  exact {
    rings := congrArg State.rings hhead
    head := s1.writeHead_bytes r' hh hp
    logged := State.log_has_entry ..
    rest := by rw [hhead]; rfl }

/-- The one ring r, of number n, may read its next entry, and no home has a record. -/
structure State.RingReady (s : State) (n : Nat) (r : Ring) : Prop where
  ring : s.rings = [r]
  number : r.n = n
  runs : r.conf = true ∧ r.state = 0 ∧ r.busy = false
  homes : s.homes = []
  proxies : s.proxies = []

theorem State.ringEntry_of_no_proxy {s : State} (r : Ring) (hp : s.proxies = []) :
    s.ringEntry r = (List.range 64).map fun i => NMap.get s.mem (r.base + 64 * (r.head.toNat % 2 ^ r.k) + i) :=
  List.map_congr_left fun _ _ => s.homeByte_of_no_proxy _ hp

/-- R461, R462: a ring that may read its next entry e does nothing where it is empty; else it stops at the first check that fails, or starts the entry's command. -/
theorem State.ringNext_of_ready {s : State} {n : Nat} {r : Ring} (h : s.RingReady n r) {e : List Byte} (he : s.ringEntry r = e) :
    s.ringNext n =
      if (r.tail - r.head).toNat = 0 then s
      else if 2 ^ r.k < (r.tail - r.head).toNat then s.stopRing n 3
      else if num e 0 2 ≠ (r.q.toNat + r.head.toNat) % 2 ^ 16 then s.stopRing n 1
      else if entryOk n e = false then s.stopRing n 2
      else (commandOf n (num e 2 1)).elim (s.stopRing n 2) fun m =>
        { s with rings := [{ r with busy := true, entry := e }], inflight := s.inflight ++ [m] } := by
  obtain ⟨hr, hn, ⟨hconf, hstate, hbusy⟩, hh, hp⟩ := h
  have hempty : r.head = r.tail ↔ (r.tail - r.head).toNat = 0 :=
    ⟨fun h => by simp [h], fun h => by bv_omega⟩
  have hidle : s.homeIdle (r.entryAddr / 128) = true := by simp [State.homeIdle, State.homeOf, hh]
  simp only [State.ringNext, State.ringBy_one hr hn, State.mapRing_one _ hr hn, he, hidle, hconf, hstate, hbusy, field_eq_num, hempty]
  cases commandOf n (num e 2 1) <;> simp [State.send]

/-- The state as a doorbell leaves it, before the ring goes on: the tail stands, and the device has left Idle. -/
def State.rung (s : State) (r : Ring) (tail : W32) : State := { s with skepin := s.wake.skepin, rings := [{ r with tail := tail }] }

theorem exec_doorbell {s : State} {r : Ring} {n : Fin 256} {tail : W32} (hr : s.rings = [r]) (hn : r.n = n.val) (hw : r.waiting = none) :
    exec (.doorbell n tail) s = .next ((s.rung r tail).ringNext n.val) := by
  have hrung : s.wake.mapRing n.val (fun r => { r with tail := tail }) = s.rung r tail := by
    rw [s.wake_rest]
    exact State.mapRing_one _ hr hn
  show execDoorbell n tail s = _
  simp [execDoorbell, hrung, State.ringBy_one (s := s.rung r tail) rfl hn, hw]

theorem State.RingReady.rung {s : State} {n : Nat} {r : Ring} (tail : W32) (h : s.RingReady n r) : (s.rung r tail).RingReady n { r with tail := tail } :=
  { h with ring := rfl }

/-- What a doorbell claims of a ring that stops, for each of the three reasons. -/
theorem State.rung_stops {s : State} {n : Nat} {r : Ring} (tail : W32) (h : s.RingReady n r) (st : Nat) :
    let t := (s.rung r tail).stopRing n st
    t.rings = [{ r with tail := tail, state := st }] ∧ NMap.bytes t.mem r.headAddr 8 = headBytes r.head st ∧ t.inflight = s.inflight ∧ Aside s t
      ∧ ∃ x ∈ t.skepin.log, x.code = 0x08 ∧ x.detail = [n, st, r.head.toNat].map (BitVec.ofNat 32) := by
  obtain ⟨-, hn, ⟨-, -, hbusy⟩, hh, hp⟩ := h
  have hstop := State.stopRing_one (s := s.rung r tail) rfl hn hh hp st
  exact ⟨by rw [hstop.rings, ← hbusy], hstop.head, hstop.inflight, hstop.aside, hstop.logged⟩

/-! ## The registers of ring 0 (R463) -/

/-- A mask of the bits from lo to below hi keeps those bits in place. -/
theorem and_mask_eq (x mask : W64) (lo hi : Nat) (h : ∀ i < 64, mask.getLsbD i = (decide (lo ≤ i) && decide (i < hi))) :
    x &&& mask = BitVec.ofNat 64 (x.toNat % 2 ^ hi / 2 ^ lo * 2 ^ lo) := by
  refine BitVec.eq_of_getLsbD_eq fun i hi => ?_
  rw [BitVec.getLsbD_and, h i hi, BitVec.getLsbD_ofNat, Nat.testBit_mul_two_pow, Nat.testBit_div_two_pow, Nat.testBit_mod_two_pow]
  by_cases hlo : lo ≤ i
  · simp [hlo, hi, BitVec.getLsbD, Bool.and_comm]
  · simp [hlo]

theorem exec_admBaseWrite (x : W64) (s : State) : exec (.admBaseWrite x) s =
    .next (if s.adm.en then s else { s with adm := { s.adm with base := BitVec.ofNat 64 (x.toNat % 2 ^ 52 / 2 ^ 12 * 2 ^ 12) } }) := by
  rw [← and_mask_eq x 0x000FFFFFFFFFF000 12 52 (by decide)]
  rfl

theorem exec_admHeadWrite (x : W64) (s : State) : exec (.admHeadWrite x) s =
    .next (if s.adm.en then s else { s with adm := { s.adm with head := BitVec.ofNat 64 (x.toNat % 2 ^ 52 / 2 ^ 3 * 2 ^ 3) } }) := by
  rw [← and_mask_eq x 0x000FFFFFFFFFFFF8 3 52 (by decide)]
  rfl

/-- ADM with the size and the tag that a write to ADM_CFG carries. -/
def Adm.configured (a : Adm) (c : W32) : Adm := { a with k := (c >>> 16).setWidth 5, q := c.setWidth 16 }

theorem cfgSize_toNat (c : W32) : ((c >>> 16).setWidth 5).toNat = c.toNat / 2 ^ 16 % 2 ^ 5 := by
  simp [Nat.shiftRight_eq_div_pow]

theorem Adm.configured_k (a : Adm) (c : W32) : (a.configured c).k.toNat = c.toNat / 2 ^ 16 % 2 ^ 5 := cfgSize_toNat c

theorem Adm.configured_q (a : Adm) (c : W32) : (a.configured c).q.toNat = c.toNat % 2 ^ 16 := by
  simp [Adm.configured]

/-- A write to ADM_CFG asks for a ring 0 whose size is in range. -/
def cfgEnables (c : W32) : Prop := c.getLsbD 31 = true ∧ 3 ≤ c.toNat / 2 ^ 16 % 2 ^ 5 ∧ c.toNat / 2 ^ 16 % 2 ^ 5 ≤ 16

/-- A ring 0 that was disabled is still taking its entry. -/
def State.ringEnding (s : State) : Prop := ∃ r ∈ s.rings, r.n = 0 ∧ r.conf = false

theorem State.ringEnding_iff (s : State) : s.ringEnding ↔ (s.rings.any fun r => r.n == 0 && !r.conf) = true := by
  simp [State.ringEnding]

theorem not_cfgEnables_iff (c : W32) :
    ¬ cfgEnables c ↔ (!c.getLsbD 31) = true ∨ ((c >>> 16).setWidth 5).toNat < 3 ∨ 16 < ((c >>> 16).setWidth 5).toNat := by
  rw [cfgSize_toNat, cfgEnables]
  cases c.getLsbD 31
  · simp only [Bool.false_eq_true, false_and, not_false_eq_true, Bool.not_false, true_or]
  · simp only [true_and, Bool.not_true, Bool.false_eq_true, false_or]
    omega

theorem exec_admCfgWrite_disabled (s : State) (c : W32) (hen : s.adm.en = false) :
    (¬ cfgEnables c → exec (.admCfgWrite c) s = .next { s with adm := s.adm.configured c })
    ∧ (cfgEnables c → s.ringEnding → exec (.admCfgWrite c) s = .next { s with adm := { s.adm.configured c with en := true } })
    ∧ (cfgEnables c → ¬ s.ringEnding → exec (.admCfgWrite c) s = .next { s with
        adm := { s.adm.configured c with en := true }
        rings := s.rings.filter (fun r => r.n != 0) ++ [({ s.adm.configured c with en := true } : Adm).ring] }) := by
  have hc := not_cfgEnables_iff c
  have he := s.ringEnding_iff
  show (_ → execAdmCfgWrite c s = _) ∧ (_ → _ → execAdmCfgWrite c s = _) ∧ (_ → _ → execAdmCfgWrite c s = _)
  simp only [execAdmCfgWrite, hen, Bool.false_eq_true, if_false]
  refine ⟨fun h => ?_, fun h h' => ?_, fun h h' => ?_⟩
  · rw [if_pos (hc.1 h), Adm.configured, ← hen]
  · rw [if_neg (mt hc.2 (not_not_intro h)), if_pos (he.1 h')]
    rfl
  · rw [if_neg (mt hc.2 (not_not_intro h)), if_neg (mt he.2 h')]
    rfl

theorem exec_admCfgWrite_keeps (s : State) (c : W32) (hen : s.adm.en = true) (hc : c.getLsbD 31 = true) : exec (.admCfgWrite c) s = .next s := by
  show execAdmCfgWrite c s = _
  simp only [execAdmCfgWrite, hen, hc, if_true]

theorem exec_admCfgWrite_disables (s : State) (c : W32) (hen : s.adm.en = true) (hc : c.getLsbD 31 = false) :
    exec (.admCfgWrite c) s = .next { s with
      adm := { s.adm with en := false }
      rings := (s.rings.filter fun r => r.n != 0 || r.taking).map fun r => if r.n = 0 then { r with conf := false } else r } := by
  show execAdmCfgWrite c s = _
  simp only [execAdmCfgWrite, hen, hc, if_true, Bool.false_eq_true, if_false]

/-- R463: what stays as ring 0 is disabled: the other rings, and a ring 0 that is taking an entry. -/
theorem mem_rings_disabled (rs : List Ring) (r : Ring) :
    r ∈ ((rs.filter fun r => r.n != 0 || r.taking).map fun r => if r.n = 0 then { r with conf := false } else r)
      ↔ r.n ≠ 0 ∧ r ∈ rs ∨ r.n = 0 ∧ ∃ r0 ∈ rs, r0.busy = true ∧ r0.waiting = none ∧ r = { r0 with conf := false } := by
  simp only [List.mem_map, List.mem_filter, Bool.or_eq_true, bne_iff_ne, Ring.taking, Bool.and_eq_true, Option.isNone_iff_eq_none]
  constructor
  · rintro ⟨r0, ⟨hmem, hkept⟩, rfl⟩
    by_cases hn : r0.n = 0
    · obtain ⟨hbusy, hw⟩ := hkept.resolve_left (not_not_intro hn)
      rw [if_pos hn]
      exact .inr ⟨hn, r0, hmem, hbusy, hw, rfl⟩
    · rw [if_neg hn]
      exact .inl ⟨hn, hmem⟩
  · rintro (⟨hn, hmem⟩ | ⟨hn, r0, hmem, hbusy, hw, rfl⟩)
    · exact ⟨r, ⟨hmem, .inl hn⟩, if_neg hn⟩
    · exact ⟨r0, ⟨hmem, .inr ⟨hbusy, hw⟩⟩, if_pos hn⟩

/-! ## Writes to BAR0 (R6, R475) -/

/-- The bytes of a write of 8 bytes at an offset that lie in the mailbox window, at their places in it. -/
def windowWrites (o : Nat) (x : W64) : List (Nat × Byte) :=
  ((withIndex (toBytes x 8)).filter fun b => decide (0x81000 ≤ o + b.1) && decide (o + b.1 < 0x82000)).map fun b => (o + b.1 - 0x81000, b.2)

theorem mem_windowWrites (o : Nat) (x : W64) (i : Nat) (b : Byte) :
    (i, b) ∈ windowWrites o x ↔ (i < 2 ^ 12 ∧ o ≤ 0x81000 + i ∧ 0x81000 + i < o + 8) ∧ b = wordByte x (0x81000 + i - o) := by
  have hbyte (j : Nat) (y : Byte) : (j, y) ∈ withIndex (toBytes x 8) ↔ j < 8 ∧ y = wordByte x j := by
    rw [mem_withIndex]
    simp only [toBytes, List.getElem?_map, Option.map_eq_some_iff, List.getElem?_eq_some_iff, List.length_range, List.getElem_range, byteOf_eq_wordByte (Nat.le_refl 64),
      BitVec.setWidth_eq]
    constructor
    · rintro ⟨_, ⟨hj, rfl⟩, rfl⟩
      exact ⟨hj, rfl⟩
    · rintro ⟨hj, rfl⟩
      exact ⟨j, ⟨hj, rfl⟩, rfl⟩
  simp only [windowWrites, List.mem_map, List.mem_filter, Prod.exists, hbyte, Bool.and_eq_true, decide_eq_true_eq, Prod.mk.injEq]
  constructor
  · rintro ⟨j, y, ⟨⟨hj, rfl⟩, hlo, hhi⟩, rfl, rfl⟩
    exact ⟨by omega, by congr 1; omega⟩
  · rintro ⟨h, rfl⟩
    exact ⟨0x81000 + i - o, _, ⟨⟨by omega, rfl⟩, by omega⟩, by omega, rfl⟩

theorem get_windowWrites (m : NMap 8) (o : Nat) (x : W64) (i : Nat) : NMap.get (NMap.setMany m (windowWrites o x)) i =
    if i < 2 ^ 12 ∧ o ≤ 0x81000 + i ∧ 0x81000 + i < o + 8 then wordByte x (0x81000 + i - o) else NMap.get m i := by
  have agree : ∀ e ∈ windowWrites o x, e.1 = i → e.2 = wordByte x (0x81000 + i - o) := by
    rintro ⟨j, b⟩ he rfl
    exact ((mem_windowWrites o x j b).1 he).2
  have covers : i ∈ (windowWrites o x).map (·.1) ↔ i < 2 ^ 12 ∧ o ≤ 0x81000 + i ∧ 0x81000 + i < o + 8 := by
    simp [mem_windowWrites]
  rw [NMap.get_setMany i _ _ m agree]
  simp only [covers]

section
variable {o : BitVec 20} (x : W64) (s : State)

/-- At an offset of no register a write reaches the mailbox window alone. -/
theorem exec_registerWrite_other (h : o ≠ 0x800 ∧ o ≠ 0x808 ∧ o ≠ 0x810 ∧ o ≠ 0x80000 ∧ ¬ (0x1000 ≤ o.toNat ∧ o.toNat < 0x1800 ∧ o.toNat % 8 = 0)) :
    exec (.registerWrite o x) s = .next (s.setSkepin { s.skepin with window := NMap.setMany s.skepin.window (windowWrites o.toNat x) }) := by
  obtain ⟨hbase, hhead, hcfg, hcmd, hbell⟩ := h
  have hne (v : Nat) (hv : o ≠ BitVec.ofNat 20 v) : o.toNat ≠ v := fun h => hv (by simp [← h])
  have h0 := hne 0x800 hbase
  have h1 := hne 0x808 hhead
  have h2 := hne 0x810 hcfg
  have h3 := hne 0x80000 hcmd
  show execRegisterWrite o x s = _
  rw [execRegisterWrite, if_neg (by omega)]
  by_cases hin : 0x81000 < o.toNat + 8 ∧ o.toNat < 0x82000
  · rw [if_pos hin]
    rfl
  · have hnone : windowWrites o.toNat x = [] := List.eq_nil_iff_forall_not_mem.2 fun e he => by
      have := ((mem_windowWrites o.toNat x e.1 e.2).1 he).1
      omega
    rw [if_neg hin, if_neg (by omega), if_neg (by omega), if_neg (by omega), dif_neg hbell, hnone]
    rfl

theorem exec_registerWrite_command (ho : o = 0x80000) : exec (.registerWrite o x) s = s.mailbox (x.setWidth 32) := by
  subst ho; rfl

theorem exec_registerWrite_admBase (ho : o = 0x800) : exec (.registerWrite o x) s = exec (.admBaseWrite x) s := by
  subst ho; rfl

theorem exec_registerWrite_admHead (ho : o = 0x808) : exec (.registerWrite o x) s = exec (.admHeadWrite x) s := by
  subst ho; rfl

theorem exec_registerWrite_admCfg (ho : o = 0x810) : exec (.registerWrite o x) s = exec (.admCfgWrite (BitVec.ofNat 32 x.toNat)) s := by
  subst ho; rfl

theorem exec_registerWrite_doorbell (n : Fin 256) (ho : o.toNat = 0x1000 + 8 * n.val) :
    exec (.registerWrite o x) s = exec (.doorbell n (BitVec.ofNat 32 x.toNat)) s := by
  have hn : (⟨(o.toNat - 0x1000) / 8, by omega⟩ : Fin 256) = n := Fin.ext (by simp only; omega)
  show execRegisterWrite o x s = _
  rw [execRegisterWrite, if_neg (by omega), if_neg (by omega), if_neg (by omega), if_neg (by omega), if_neg (by omega), dif_pos (by omega), hn]
  rfl

end

section
variable (x : W64)

theorem cmdGo_eq : (x.setWidth 32 : W32).getLsbD 31 = x.getLsbD 31 := by
  simp

theorem cmdOp_toNat : ((x.setWidth 32 : W32).setWidth 8 : Byte).toNat = x.toNat % 2 ^ 8 := by
  simp only [BitVec.toNat_setWidth]
  omega

theorem cmdArg_eq : (((x.setWidth 32 : W32) >>> 8).setWidth 8 : Byte) = BitVec.ofNat 8 (x.toNat / 2 ^ 8) := by
  apply BitVec.eq_of_toNat_eq
  simp only [BitVec.toNat_setWidth, BitVec.toNat_ushiftRight, BitVec.toNat_ofNat, Nat.shiftRight_eq_div_pow]
  omega

/-- A write to MB_CMD that does not start a command leaves its op and arg there. -/
theorem State.mailbox_without_go (s : State) (hgo : x.getLsbD 31 = false) : s.mailbox (x.setWidth 32) =
    .next (s.setSkepin { s.skepin with op := (x.setWidth 32 : W32).setWidth 8, arg := BitVec.ofNat 8 (x.toNat / 2 ^ 8) }) := by
  simp only [State.mailbox, cmdGo_eq, hgo, cmdArg_eq]
  rfl

/-- A write to MB_CMD with go starts the command of its op. -/
theorem State.mailbox_with_go (s : State) (hgo : x.getLsbD 31 = true) :
    let arg : Byte := BitVec.ofNat 8 (x.toNat / 2 ^ 8)
    let starts := fun (i : Instr) => s.mailbox (x.setWidth 32) = exec i s
    (x.toNat % 2 ^ 8 = 2 → starts (.eventLog arg)) ∧ (x.toNat % 2 ^ 8 = 3 → starts (.imageChunk arg)) ∧ (x.toNat % 2 ^ 8 = 5 → starts (.powerRequest arg))
      ∧ (x.toNat % 2 ^ 8 = 7 → starts (.debugState arg)) ∧ (x.toNat % 2 ^ 8 = 8 → starts .warmResetCommand) := by
  intro arg starts
  simp only [starts, State.mailbox, cmdGo_eq, hgo, cmdOp_toNat, cmdArg_eq]
  refine ⟨fun h => ?_, fun h => ?_, fun h => ?_, fun h => ?_, fun h => ?_⟩ <;> (rw [h]; rfl)

end

/-- Settles O44: the doorbell through what a ring that may read its next entry does, the registers of ring 0 and BAR0 through one equation for each kind of write. -/
theorem doorbellsAndRegisters : Obligations.DoorbellsAndRegisters := by
  unfold Obligations.DoorbellsAndRegisters
  refine ⟨?_, fun s x c => ⟨fun hen => ⟨?_, ?_, ?_⟩, fun hen => ⟨?_, ?_, fun hc => ?_, fun hc => ?_⟩, fun o => ⟨fun ho => ?_, fun ho hgo => ?_, fun ho hgo => ?_,
    exec_registerWrite_admBase x s, exec_registerWrite_admHead x s, exec_registerWrite_admCfg x s, exec_registerWrite_doorbell x s⟩⟩⟩
  · intro s n r tail e hr hn hconf hstate hbusy hw hh hp he stops size tagged
    have ready : s.RingReady n.val r := ⟨hr, hn, ⟨hconf, hstate, hbusy⟩, hh, hp⟩
    have hnext := State.ringNext_of_ready (ready.rung tail) ((State.ringEntry_of_no_proxy _ hp).trans he.symm)
    have completes (P : State → Prop) (t : State) (ht : (s.rung r tail).ringNext n.val = t) (hP : P t) : Completes (.doorbell n tail) s P :=
      ⟨t, by rw [exec_doorbell hr hn hw, ht], hP⟩
    refine ⟨fun h0 => ?_, fun h3 => ?_, fun h0 hle ht => ?_, fun h0 hle ht hok => ?_, fun m h0 hle ht hok hm => ?_⟩
    · rw [if_pos h0] at hnext
      exact completes _ _ hnext ⟨rfl, rfl, ⟨rfl, rfl, rfl, rfl⟩, rfl, s.wake_pwr⟩
    · rw [if_neg (Nat.ne_of_gt (Nat.zero_lt_of_lt h3)), if_pos h3] at hnext
      exact completes _ _ hnext (State.rung_stops tail ready 3)
    · rw [if_neg h0, if_neg (Nat.not_lt.2 hle), if_pos ht] at hnext
      exact completes _ _ hnext (State.rung_stops tail ready 1)
    · rw [if_neg h0, if_neg (Nat.not_lt.2 hle), if_neg (not_not_intro ht), if_pos hok] at hnext
      exact completes _ _ hnext (State.rung_stops tail ready 2)
    · rw [if_neg h0, if_neg (Nat.not_lt.2 hle), if_neg (not_not_intro ht), if_neg (by simp [hok]), hm] at hnext
      exact completes _ _ hnext ⟨rfl, rfl, ⟨rfl, rfl, rfl, rfl⟩, rfl⟩
  · exact ⟨_, by rw [exec_admBaseWrite, hen]; rfl, rfl⟩
  · exact ⟨_, by rw [exec_admHeadWrite, hen]; rfl, rfl⟩
  · obtain ⟨hoff, hending, hon⟩ := exec_admCfgWrite_disabled s c hen
    have hk := s.adm.configured_k c
    have hq := s.adm.configured_q c
    by_cases hc : cfgEnables c
    · by_cases hend : s.ringEnding
      · exact ⟨_, hending hc hend, rfl, rfl, hk, hq, ⟨fun _ => ⟨rfl, fun _ => rfl, fun h => absurd hend h⟩, fun h => absurd hc h⟩, rfl⟩
      · exact ⟨_, hon hc hend, rfl, rfl, hk, hq, ⟨fun _ => ⟨rfl, fun h => absurd h hend, fun _ =>
          ⟨_, List.mem_append_right _ (List.mem_singleton_self _), rfl, rfl, rfl, rfl, hk, hq, rfl, rfl, rfl, rfl⟩⟩, fun h => absurd hc h⟩, rfl⟩
    · exact ⟨_, hoff hc, rfl, rfl, hk, hq, ⟨fun h => absurd h hc, fun _ => ⟨hen, rfl⟩⟩, rfl⟩
  · exact ⟨_, by rw [exec_admBaseWrite, hen]; rfl, rfl⟩
  · exact ⟨_, by rw [exec_admHeadWrite, hen]; rfl, rfl⟩
  · exact ⟨s, exec_admCfgWrite_keeps s c hen hc, rfl⟩
  · exact ⟨_, exec_admCfgWrite_disables s c hen hc, rfl, rfl, mem_rings_disabled s.rings⟩
  · exact ⟨_, exec_registerWrite_other x s ho, rfl, get_windowWrites s.skepin.window o.toNat x⟩
  · refine ⟨_, (exec_registerWrite_command x s ho).trans (s.mailbox_without_go x hgo), cmdOp_toNat x, ?_, rfl⟩
    exact BitVec.toNat_ofNat ..
  · simp only [exec_registerWrite_command x s ho]
    exact s.mailbox_with_go x hgo

end Sys2Proof.Machine
